-- ==== Sys2Proof/Word.lean ====
section
/-! DEFINITION. The word types of the X576 and nothing else: registers are 32 bits (R7), memory is bytes (R6),
a tensor descriptor is 256 bits (R246), the instruction's immediate field is 64 bits (R237). -/

namespace Sys2Proof

/-- A BAR0 register or a scalar register: 32 bits (R7, R206). -/
abbrev Word := BitVec 32

/-- One byte of any memory (R6). -/
abbrev Byte := BitVec 8

/-- A tensor descriptor (R246). -/
abbrev Desc := BitVec 256

end Sys2Proof
end

