-- ==== Sys2Proof/Syntax.lean ====
section
/-! DEFINITION. The commands the package takes: ONE constructor per row of spec/opcode_table.json. Operands that name a unit
are numbers below the count of that unit; the rest are the values that come from outside the step (what a requester
writes, what a frame carries, what a sensor or a memory cell shows). -/

namespace Sys2Proof

/-- The fields of an instruction word other than OP (R237). -/
structure IFields where
  fmt : BitVec 4
  pred : BitVec 4
  dst : BitVec 8
  srca : BitVec 8
  srcb : BitVec 8
  srcc : BitVec 8
  modw : BitVec 16
  imm : BitVec 64
  deriving DecidableEq, Repr

/-- A hardware fault that strikes a unit of the tile while an instruction runs (08_tile_and_array.md, R191 to R193, R205).
`array`: 2^(L - 58 + pos) is added to the group value of one column of one array in its nth compared group, in the
first `tries` computations of the output tile. `twin`: one bit of one result of lanes 32 to 63 flips in the first
`tries` runs. `fold`: the two sums of the port's nth fold of the ARED's own contribution differ in the first `tries` tries (R368). A fault-free instruction carries none. -/
inductive Upset where
  | array (arr col pos nth tries : Nat)
  | twin (elem bitn tries : Nat)
  | fold (nth tries : Nat)
  deriving DecidableEq, Repr

/-- Who writes or reads a register: a PCIe function (0 the PF, n VF n), the management path, the Package Controller
(R375, R396). -/
inductive Req where
  | fn (f : Fin 16)
  | mgt
  | pkc
  deriving DecidableEq, Repr

/-- The payload and type-specific fields of a Bronak frame (R331). Chunks are 32-byte numbers, byte 0 lowest. `other` is a
frame of an unassigned TYPE, or with a payload that its TYPE has not. -/
inductive FBody where
  | idle
  | hello (id port : Nat)
  | grant (reqid handle : Nat)
  | ack (handle : Nat) (nak : Bool)
  | err (reqid code : Nat)
  | token (epoch : Nat)
  | hold (cause : Nat)
  | piece (handle off : Nat) (last : Bool) (chunks : List Nat)
  | digest (handle crc : Nat)
  | deliver (handle off : Nat) (last : Bool) (chunks : List Nat)
  | preq (reqid group gidx shard piece elems tile ret : Nat) (desc : Nat)
  | other (type : Nat) (chunks : List Nat)
  deriving DecidableEq, Repr

/-- A Bronak frame (R331). -/
structure Frame where
  body : FBody
  cls : Nat
  esc : Bool
  downed : Bool
  nak : Bool
  dest : Nat
  src : Nat
  ctag : Nat
  psn : Nat
  lseq : Nat
  lack : Nat
  cret : List Nat
  deriving DecidableEq, Repr

/-- The kinds of requests at a slice or an HBM controller (R305): instruction fetch, page-table walk, read of a record, demand page-in
write; read of LD or MOV, BAR4 read; any other write, write-back, prefetch page-in write, page-out read, context-save read,
scrub, BAR4 write. -/
inductive TKind where
  | fetch
  | walk
  | record
  | demandIn
  | move
  | bar4Read
  | write
  | writeBack
  | prefetchIn
  | pageOutRead
  | ctxRead
  | scrub
  | bar4Write
  deriving DecidableEq, Repr

/-- A request waiting at a Transom slice (R300, R305): scratchpad or HBM line; for a write the bytes from the given offset of the
line, with the poison of their source; for a read as many bytes as are read. -/
structure TReq where
  kind : TKind
  scratch : Bool
  addr : Nat
  bytes : List Nat
  poison : Bool
  deriving DecidableEq, Repr

/-- What the paging engine meets in one action: casements whose requests wait at the hub's memory engine beside this one (R307), and
the entries of the frame free list and of the host-frame free list that read as poisoned (R324). -/
structure PageEnv where
  others : List Nat
  frBad : List Nat
  hostBad : List Nat
  deriving DecidableEq, Repr

/-- Where the data of a host read goes (R489): Pane bytes of a tile, bytes of the casement's scratchpad or of its physical space. -/
inductive HostDst where
  | pane (p off : Nat)
  | spad (off : Nat)
  | hbm (x : Nat)
  deriving DecidableEq, Repr

/-- What bring-up finds of the hardware and of the board (R434 to R439, R441, R447, R289, R297, R328, R338): flash is what the
board has programmed into its flash since the last start (offset and bytes); hubFail the safe cause of a hub unit that
fails its start test, or 0; trnFail failing lines (slice, line); dqBad and caBad lanes below margin (stack, channel, lane);
lanes the lanes with which each port trains; peers what the peer's HELLO says (port, package or plane, port index). -/
structure BringIn where
  flash : List (Nat × List Nat)
  optOk : Bool
  straps : Nat
  hubFail : Nat
  tileFail : List Nat
  dieFail : List Nat
  trnFail : List (Nat × Nat)
  dqBad : List (Nat × Nat × Nat)
  caBad : List (Nat × Nat × Nat)
  portFail : List Nat
  lanes : List Nat
  peers : List (Nat × Nat × Nat)
  regDead : List Nat
  testMs : Nat
  deriving DecidableEq, Repr

/-- What the shutters of one command meet (R427, R295): the blocks (class, index) that are not drained when WAIT elapses, for a slice
with the write-backs granted by then; the lanes (stack, channel, lane) below margin in the retrainings that follow. -/
structure ShutIn where
  stuck : List (Nat × Nat × Nat)
  dq : List (Nat × Nat × Nat)
  ca : List (Nat × Nat × Nat)
  deriving DecidableEq, Repr

/-- Every shutter drains in time; every lane is good. -/
def ShutIn.none : ShutIn := ⟨[], [], []⟩

/-- The results of a seal test (R441, R445): failing tiles and lines (slice, line), Bronak lanes excluded, failing units by bit
of UNITS, duration, peak power, whether the flash write succeeds. -/
structure SealIn where
  tileFail : List Nat
  lineFail : List (Nat × Nat)
  lanesExcl : Nat
  unitsFail : Nat
  durMs : Nat
  peakW : Nat
  flashOk : Bool
  deriving DecidableEq, Repr

/-- A Joavaolo request of the management path (R482), its body in fields; bad is one that breaks the formats. -/
inductive MBody where
  | identify
  | status
  | telemetry
  | regRead (off count : Nat)
  | regWrite (off : Nat) (vals : List (BitVec 32))
  | reset
  | fwu (op addr len arm epoch : Nat)
  | sealTest
  | lifecycle (target : Nat) (token : List Nat)
  | attest (nonce : List Nat)
  | poll (inst off : Nat)
  | bad (cmd : Nat)
  deriving DecidableEq, Repr

/-- A request with its INST. -/
structure MReq where
  inst : Nat
  body : MBody
  deriving DecidableEq, Repr

/-- An MCTP control message (R481). -/
inductive McCtl where
  | setEid (eid : Nat)
  | getEid
  | version
  | types
  | vendor
  deriving DecidableEq, Repr

/-- A configuration request of PCIe (R393, R395, R396): a read or a write at an offset of configuration space; a read of AER's status of
uncorrectable errors and the write that clears bits of it; the write of the Resizable BAR control that gives BAR4 2^size bytes; the
write that puts the function into D0 or D3hot. -/
inductive CfgReq where
  | read (off : Nat)
  | write (off data : Nat)
  | aerRead
  | aerClear (bits : Nat)
  | bar4 (size : Nat)
  | power (d3hot : Bool)
  deriving DecidableEq, Repr

/-- The commands. -/
inductive Instr where
  -- Worivo instructions (10_instruction_set.md): casement (lowest die), logical tile, fields, faults that strike
  | ld (d : Fin 4) (t : Fin 4096) (w : IFields)
  | st (d : Fin 4) (t : Fin 4096) (w : IFields)
  | mov (d : Fin 4) (t : Fin 4096) (w : IFields)
  | tdld (d : Fin 4) (t : Fin 4096) (w : IFields)
  | tdst (d : Fin 4) (t : Fin 4096) (w : IFields)
  | tdadj (d : Fin 4) (t : Fin 4096) (w : IFields)
  | mmq (d : Fin 4) (t : Fin 4096) (w : IFields) (ups : List Upset)
  | mmw (d : Fin 4) (t : Fin 4096) (w : IFields) (ups : List Upset)
  | lrc (d : Fin 4) (t : Fin 4096) (w : IFields) (ups : List Upset)
  | qnt (d : Fin 4) (t : Fin 4096) (w : IFields) (ups : List Upset)
  | dqt (d : Fin 4) (t : Fin 4096) (w : IFields) (ups : List Upset)
  | rot (d : Fin 4) (t : Fin 4096) (w : IFields) (ups : List Upset)
  | outx (d : Fin 4) (t : Fin 4096) (w : IFields)
  | rng (d : Fin 4) (t : Fin 4096) (w : IFields)
  | smp (d : Fin 4) (t : Fin 4096) (w : IFields)
  | ewo (d : Fin 4) (t : Fin 4096) (w : IFields) (ups : List Upset)
  | red (d : Fin 4) (t : Fin 4096) (w : IFields) (ups : List Upset)
  | opt (d : Fin 4) (t : Fin 4096) (w : IFields) (ups : List Upset)
  | crc (d : Fin 4) (t : Fin 4096) (w : IFields)
  | dgst (d : Fin 4) (t : Fin 4096) (w : IFields)
  | send (d : Fin 4) (t : Fin 4096) (w : IFields)
  | recv (d : Fin 4) (t : Fin 4096) (w : IFields)
  | ared (d : Fin 4) (t : Fin 4096) (w : IFields) (ups : List Upset)
  | sync (d : Fin 4) (t : Fin 4096) (w : IFields)
  | epochStep (d : Fin 4) (t : Fin 4096) (w : IFields)
  | epochToken (d : Fin 4) (t : Fin 4096) (w : IFields)
  | fence (d : Fin 4) (t : Fin 4096) (w : IFields)
  | blkend (d : Fin 4) (t : Fin 4096) (w : IFields)
  | br (d : Fin 4) (t : Fin 4096) (w : IFields)
  | salu (d : Fin 4) (t : Fin 4096) (w : IFields)
  | sli (d : Fin 4) (t : Fin 4096) (w : IFields)
  | pcmp (d : Fin 4) (t : Fin 4096) (w : IFields)
  | plog (d : Fin 4) (t : Fin 4096) (w : IFields)
  | gets (d : Fin 4) (t : Fin 4096) (w : IFields)
  | sets (d : Fin 4) (t : Fin 4096) (w : IFields)
  -- events of tiles and Dispatchers
  | instructionComplete (d : Fin 4) (t : Fin 4096) (id : Nat)
  | blockBoundary (d : Fin 4) (t : Fin 4096) (rngBad crcBad hostMig : Bool)
  | blockStart (d : Fin 4) (t : Fin 4096)
  | sendDelivery (d : Fin 4) (t : Fin 4096) (id : Nat)
  | inFieldTest (p : Fin 640)
  | inFieldTestDone (p : Fin 640) (pass : Bool)
  | numCommit (d : Fin 4)
  -- memory
  | paneRead (p : Fin 640) (word : Fin 65536) (flips : List Nat)
  | paneWrite (p : Fin 640) (off : Nat) (bytes : List Nat) (poison : Bool)
  | paneScrubVisit (p : Fin 640) (flips : List Nat)
  | transomAccess (sl : Fin 16) (reqs : List TReq) (flips : List Nat) (evict : List Nat)
  | transomScrubVisit (sl : Fin 16) (flips : List Nat)
  | hbmRead (st : Fin 24) (chunk : Nat) (kind : TKind) (waiting : List TKind) (errs : List (Nat × Nat))
  | hbmWrite (st : Fin 24) (off : Nat) (kind : TKind) (waiting : List TKind) (bytes : List Nat) (poison : Bool)
  | hbmRefresh (st : Fin 24) (temp : Nat) (rfm : Bool)
  | hbmPatrolScrub (st : Fin 24) (pc : Fin 64) (errs : List (Nat × Nat))
  | pageOut (d : Fin 4) (e : PageEnv)
  | pageInDemand (d : Fin 4) (va : Nat) (e : PageEnv)
  | pageInPrefetch (d : Fin 4) (e : PageEnv)
  -- fabric
  | frameReceive (p : Fin 8) (bytes : List Nat)
  | frameReplay (p : Fin 8)
  | frameForward (p : Fin 8)
  | idleFrameSend (p : Fin 8)
  | linkTimeout (p : Fin 8)
  | requestTimeout (d : Fin 4) (reqid : Nat)
  | portTraining (p : Fin 8) (lanes : Nat)
  | laneErrorRetrain (p : Fin 8) (lane : Nat)
  | hello (p : Fin 8)
  | preq (p : Fin 8)
  | grant (p : Fin 8)
  | grantIssue (p : Fin 8)
  | piece (p : Fin 8)
  | digest (p : Fin 8) (addBad : Nat)
  | ack (p : Fin 8)
  | deliver (p : Fin 8)
  | err (p : Fin 8)
  | token (p : Fin 8)
  | tokenForward (d : Fin 4)
  | hold (p : Fin 8)
  | meshFlitReceive (pos : Fin 640) (dir : Fin 4) (crcOk : Bool)
  -- register writes with rows of their own
  | fabCommit (rq : Req) (d : Fin 4)
  | fabHold (rq : Req) (d : Fin 4)
  | fabResume (rq : Req) (d : Fin 4)
  | fabEnd (rq : Req) (d : Fin 4)
  | fabEntryWrite (rq : Req) (off : Nat) (v : BitVec 32)
  | pkgidWrite (rq : Req) (v : BitVec 32)
  | floorWrite (rq : Req) (v : BitVec 32)
  | portRetrain (rq : Req) (p : Fin 8)
  | spwWrite (rq : Req) (d : Fin 4) (v : BitVec 32)
  | keyWrite (rq : Req) (d : Fin 4) (hi : Bool) (v : BitVec 32)
  | injArm (rq : Req) (v : BitVec 32)
  | hunlkAdrWrite (rq : Req) (v : BitVec 32)
  | hunlkLenWrite (rq : Req) (v : BitVec 32)
  | hunlkKeyWrite (rq : Req) (v : BitVec 32)
  | hardenedScrubVisit (flips : List (Nat × Nat)) (wc : Option (Nat × Nat))
  | cvuCtlWrite (rq : Req) (u : Fin 8) (v : BitVec 32)
  | cvuFeed8 (rq : Req) (u : Fin 8) (v : BitVec 32)
  | cvuFeed16 (rq : Req) (u : Fin 8) (v : BitVec 32)
  | cvuFeed32 (rq : Req) (u : Fin 8) (v : BitVec 32)
  | cvuCombine (rq : Req) (u : Fin 8)
  | cvuEmpty (rq : Req) (u : Fin 8)
  -- intake and commands
  | intakeWrite (f : Fin 16) (off : Nat) (bytes : List Nat)
  | blockAccept (f : Fin 16)
  | skip (f : Fin 16)
  | nop (f : Fin 16)
  | casementMap (f : Fin 16)
  | casementEnd (f : Fin 16) (x : ShutIn)
  | casementReset (f : Fin 16) (x : ShutIn)
  | programLoad (f : Fin 16)
  | start (f : Fin 16)
  | programEnd (d : Fin 4)
  | ctxSave (f : Fin 16)
  | ctxRestore (f : Fin 16)
  | map (f : Fin 16)
  | unmap (f : Fin 16)
  | hostfr (f : Fin 16)
  | dieTest (f : Fin 16) (fails : List Nat)
  | completionRecordWrite (f : Fin 16)
  | ringHeadWrite (rq : Req) (f : Fin 16) (evt : Bool) (v : BitVec 32)
  | ringCtlWrite (rq : Req) (f : Fin 16) (evt : Bool) (v : BitVec 32)
  | bar4Read (f : Fin 16) (off n : Nat) (others : List Nat)
  | bar4Write (f : Fin 16) (off : Nat) (bytes : List Nat) (poison : Bool) (others : List Nat)
  | configRequest (f : Fin 16) (r : CfgReq)
  | badWidthAccess (rq : Req) (off width : Nat) (wr : Bool)
  | rcRead (rq : Req) (off : Nat) (wide : Bool)
  | regWrite (rq : Req) (off : Nat) (wide : Bool) (v : BitVec 64)
  | flr (f : Fin 16) (x : ShutIn)
  -- resets, shutters, bring-up
  | powerOnReset
  | sysRst (asserted : Bool)
  | perst (x : ShutIn)
  | hotReset (x : ShutIn)
  | wdtFeed (rq : Req) (v : BitVec 32)
  | wdtExpiry (x : ShutIn)
  | blockResetWrite (rq : Req) (off : Nat) (v : BitVec 32)
  | shutter (cls idx : Nat)
  | shutterDrained (cls idx : Nat) (x : ShutIn)
  | shutterTimeout (cls idx done : Nat) (x : ShutIn)
  | bringup (b : BringIn)
  | sealTest (rq : Req)
  | testAdmit (done : List Nat)
  | sealTestComplete (r : SealIn)
  | lcTransition (rq : Req) (target : Nat)
  -- firmware
  | fwuStage (rq : Req) (cut : Option (Nat × Bool))
  | fwuArm (rq : Req)
  | fwuDisarm (rq : Req)
  | fwuActivate (rq : Req) (x : ShutIn)
  | fwuSvncommit (rq : Req)
  | fwuDbset (rq : Req)
  | fwuDbclr (rq : Req)
  | fwuAttest (rq : Req)
  | rsvStuckTimeout
  | rsvstkClearTimeout
  | supplyRsv (asserted : Bool)
  -- power and pins
  | pwrLim (asserted : Bool)
  | pwrLimStuckTimeout
  | railFault (rail : Nat)
  | powerMeasurement (watts avg : Nat)
  | voltageStep (d : Fin 4)
  | regulatorPoll (d : Fin 4) (mv pace : Nat)
  | regulatorTimeout (d : Fin 4)
  | temperatureChange (d : Fin 4) (tj : Nat) (stack : Fin 6) (temp : Nat)
  | thermalRelease (d : Fin 4)
  | thermtrip
  | vauxRemoval
  -- management path
  | i3cEntdaa (addr : Nat)
  | mctpControl (pcie : Bool) (c : McCtl)
  | mgtRequestArrival (pcie : Bool) (r : MReq)
  | mgtIdentify
  | mgtStatus
  | mgtTelemetry
  | mgtRegRead
  | mgtRegWrite
  | mgtReset (x : ShutIn)
  | mgtFwu (cut : Option (Nat × Bool)) (x : ShutIn)
  | mgtSeal
  | mgtLifecycle
  | mgtAttest
  | mgtPoll
  | perstDeassert
  | completionTimeout (d : Fin 4) (dst : HostDst) (n : Nat)
  | unassignedOpcode (d : Fin 4) (t : Fin 4096) (op : BitVec 8) (w : IFields)
  | reservedCommandType (f : Fin 16)
  | rampDown (p : Fin 640) (arr : Fin 4)
  deriving DecidableEq, Repr

end Sys2Proof
end

