-- ==== Sys2Proof/Decode.lean ====
section
/-! DEFINITION. The command that a word of the opcode table spells (no row of spec/opcode_table.json has bits, so no word
spells one), the 128-bit instruction word of the Worivo tiles (R237), the command that such a word gives a tile (R253), and the
word of a command. -/

namespace Sys2Proof

/-- The command that a word of nbits bits spells: none, for the table gives no row any bits. -/
def decodeTableWord (_nbits _w : Nat) : Option Instr := none

/-- R237: the fields of an instruction word other than OP. -/
def wordFields (w : BitVec 128) : IFields where
  fmt := w.extractLsb' 8 4
  pred := w.extractLsb' 12 4
  dst := w.extractLsb' 16 8
  srca := w.extractLsb' 24 8
  srcb := w.extractLsb' 32 8
  srcc := w.extractLsb' 40 8
  modw := w.extractLsb' 48 16
  imm := w.extractLsb' 64 64

/-- R237: the word with the given OP and fields. -/
def fieldsWord (op : BitVec 8) (i : IFields) : BitVec 128 :=
  i.imm ++ i.modw ++ i.srcc ++ i.srcb ++ i.srca ++ i.dst ++ i.pred ++ i.fmt ++ op

/-- R6, R237: the word in 16 bytes, little-endian. -/
def wordOfBytes (b : List (BitVec 8)) : BitVec 128 := BitVec.ofNat 128 (b.foldr (fun x r => x.toNat + 256 * r) 0)

/-- R253: the command that logical tile t of casement d takes on the word; EPOCH's variant is in FMT. An OP of no row of the map is
UNASSIGNED OPCODE. -/
def decodeWord (d : Fin 4) (t : Fin 4096) (x : BitVec 128) : Instr :=
  let w := wordFields x
  match (x.extractLsb' 0 8).toNat with
  | 0x01 => .ld d t w
  | 0x02 => .st d t w
  | 0x03 => .mov d t w
  | 0x04 => .tdld d t w
  | 0x05 => .tdst d t w
  | 0x06 => .tdadj d t w
  | 0x10 => .mmq d t w []
  | 0x11 => .mmw d t w []
  | 0x12 => .lrc d t w []
  | 0x18 => .qnt d t w []
  | 0x19 => .dqt d t w []
  | 0x1A => .rot d t w []
  | 0x1B => .outx d t w
  | 0x20 => .rng d t w
  | 0x21 => .smp d t w
  | 0x28 => .ewo d t w []
  | 0x29 => .red d t w []
  | 0x2A => .opt d t w []
  | 0x30 => .crc d t w
  | 0x31 => .dgst d t w
  | 0x38 => .send d t w
  | 0x39 => .recv d t w
  | 0x3A => .ared d t w []
  | 0x40 => .sync d t w
  | 0x41 => if w.fmt = 1#4 then .epochToken d t w else .epochStep d t w
  | 0x42 => .fence d t w
  | 0x43 => .blkend d t w
  | 0x44 => .br d t w
  | 0x50 => .salu d t w
  | 0x51 => .sli d t w
  | 0x52 => .pcmp d t w
  | 0x53 => .plog d t w
  | 0x54 => .gets d t w
  | 0x55 => .sets d t w
  | _ => .unassignedOpcode d t (x.extractLsb' 0 8) w

end Sys2Proof
end

