-- ==== Sys2Proof/Config.lean ====
section
/-! DEFINITION. What the spec leaves open: constants without a body, so that nothing can be proved of their values. -/

namespace Sys2Proof

/-- A free value, by its number: the bytes that a rule leaves undefined (log 5). -/
opaque Config.freeByte : Nat → Byte

/-- A free 32-bit value, by its number: a register value that the spec leaves unstated (log 5). -/
opaque Config.freeWord : Nat → Word

/-- Whether a byte of a region whose contents a rule calls undefined, an earlier value or zero, keeps its value: by the number of the
occasion and the byte's key (R218, R319; log 5). -/
opaque Config.stays : Nat → Nat → Bool

/-- The set of a slice that a line falls into, by the line's number, and which line of a full set is replaced, by the number of the
occasion: the slice's own, and of no effect but time (R300; log 14). -/
opaque Config.cacheSet : Nat → Nat
opaque Config.cacheVictim : Nat → Nat

/-- The position of the router of die 0 to which the hub attaches, which the spec does not give (R22; log 8). -/
opaque Config.hubPos : Nat

/-- ML-DSA-87 (R453, R463, R466), which the spec names and does not define: whether a signature verifies (log 9). -/
opaque Config.mldsaVerify : List Nat → List Nat → List Nat → Bool

/-- The ML-DSA-87 signature of a message by the key pair of a seed (R465; log 9). -/
opaque Config.mldsaSign : List Nat → List Nat → List Nat

/-- The public key of the key pair derived from an identity seed (R465; log 9). -/
opaque Config.mldsaPub : List Nat → List Nat

/-- The four vendor key digests of the boot ROM, and the vendor keys themselves (R454, R463; log 9). -/
opaque Config.vendorDigest : Nat → List Nat
opaque Config.vendorKey : Nat → List Nat

/-- The 2-byte coverage figures of a seal record that R441 gives in words only (R445; log 9). -/
opaque Config.sealCov : Nat → Nat

/-- The register words of PCIe configuration space, which the spec leaves to PCIe (R393, R395; log 7). -/
opaque Config.cfgWord : Nat → Nat

/-- What a configuration write leaves of a word, by the word, its value and the data (R393; log 7). -/
opaque Config.cfgWrite : Nat → Nat → Nat → Nat

end Sys2Proof
end

