-- ==== Sys2Proof/Machine/Bits.lean ====
section
/-! DEFINITION. Bit fields, byte order and sign of the X576's words (R6: bit 0 is the least significant, multi-byte values
are little-endian). Fields are read as natural numbers, so that what follows computes on numerals. -/

namespace Sys2Proof.Machine

/-- Bits [hi:lo] of a number (R6). -/
def fld (x hi lo : Nat) : Nat := (x >>> lo) % 2 ^ (hi + 1 - lo)

/-- Bit n of a number. -/
def bit (x n : Nat) : Bool := fld x n n == 1

/-- The number x with its bits [hi:lo] replaced by the low bits of v. -/
def setFld (x hi lo v : Nat) : Nat :=
  x - (fld x hi lo) * 2 ^ lo + (v % 2 ^ (hi + 1 - lo)) * 2 ^ lo

/-- Bits [hi:lo] of a register. -/
def rfld (w : Word) (hi lo : Nat) : Nat := fld w.toNat hi lo

/-- A register with its bits [hi:lo] replaced. -/
def rset (w : Word) (hi lo v : Nat) : Word := BitVec.ofNat 32 (setFld w.toNat hi lo v)

/-- The two's-complement value of the low n bits of x. -/
def sext (x n : Nat) : Int :=
  let y := x % 2 ^ n
  if y < 2 ^ (n - 1) then (y : Int) else (y : Int) - (2 ^ n : Nat)

/-- The low n bits of an integer in two's complement. -/
def wrap (x : Int) (n : Nat) : Nat := (x % ((2 ^ n : Nat) : Int)).toNat

/-- The value of bytes in ascending address order (little-endian, R6). -/
def leNat : List Nat → Nat
  | [] => 0
  | b :: r => b % 256 + 256 * leNat r

/-- The n bytes of a number in ascending address order (R6). -/
def leBytes : Nat → Nat → List Nat
  | 0, _ => []
  | n + 1, x => x % 256 :: leBytes n (x / 256)

/-- x rounded up to a multiple of n (n > 0). -/
def roundUp (x n : Nat) : Nat := (x + n - 1) / n * n

/-- Quotient rounded up. -/
def ceilDiv (x n : Nat) : Nat := (x + n - 1) / n

/-- A saturating counter of the given width in bits (the counters that stop at their maximum). -/
def satAdd (width x n : Nat) : Nat := min (x + n) (2 ^ width - 1)

/-- The numbers a, a+1, ..., a+n-1. -/
def rangeFrom (a n : Nat) : List Nat := (List.range n).map (a + ·)

/-- Element n of a list, or the given default. -/
def nth {α : Type} (l : List α) (n : Nat) (d : α) : α := l.getD n d

/-- A list with element n replaced (unchanged when there is none). -/
def setNth {α : Type} (l : List α) (n : Nat) (v : α) : List α := l.set n v

/-- True when the byte ranges [a, a+n) and [b, b+m) share a byte. -/
def overlap (a n b m : Nat) : Bool := decide (0 < n ∧ 0 < m ∧ a < b + m ∧ b < a + n)

/-- A 0/1 number of a truth value. -/
def b2n (b : Bool) : Nat := if b then 1 else 0

end Sys2Proof.Machine
end

