-- ==== Sys2Proof/Machine/Crc.lean ====
section
/-! DEFINITION. The check-value units (R388 to R391): feeding bytes to a running value and combining two values. -/

namespace Sys2Proof.Machine

/-- R388: one polynomial: width, generator, initial register, whether bits are reflected, final XOR. -/
structure CrcPoly where
  width : Nat
  gen : Nat
  init : Nat
  refl : Bool
  xor : Nat
  deriving DecidableEq, Repr

/-- R388: CRC-32C, CRC-32, CRC-64/ECMA-182, CRC-16/CCITT by POLY. -/
def crcPoly (n : Nat) : CrcPoly :=
  match n % 4 with
  | 0 => ⟨32, 0x1EDC6F41, 0xFFFFFFFF, true, 0xFFFFFFFF⟩
  | 1 => ⟨32, 0x04C11DB7, 0xFFFFFFFF, true, 0xFFFFFFFF⟩
  | 2 => ⟨64, 0x42F0E1EBA9EA3693, 0, false, 0⟩
  | _ => ⟨16, 0x1021, 0xFFFF, false, 0⟩

/-- The w bits of x in reverse order. -/
def bitrev : Nat → Nat → Nat
  | 0, _ => 0
  | w + 1, x => (x % 2) * 2 ^ w + bitrev w (x / 2)

/-- v times x modulo the generator, the register's top bit being the highest power. -/
def mulx1 (p : CrcPoly) (v : Nat) : Nat :=
  let s := 2 * v % 2 ^ p.width
  if bit v (p.width - 1) then s ^^^ p.gen else s

def mulxN (p : CrcPoly) : Nat → Nat → Nat
  | 0, v => v
  | n + 1, v => mulxN p n (mulx1 p v)

/-- R388: the running value of no bytes. -/
def crcEmpty (p : CrcPoly) : Nat := p.init ^^^ p.xor

/-- The register, highest power at the top bit, behind a running value (output bit order and final XOR removed). -/
def crcReg (p : CrcPoly) (a : Nat) : Nat :=
  let r := (a ^^^ p.xor) % 2 ^ p.width
  if p.refl then bitrev p.width r else r

/-- The running value of a register. -/
def crcOut (p : CrcPoly) (r : Nat) : Nat := (if p.refl then bitrev p.width r else r) ^^^ p.xor

/-- R389: the register advanced by one byte. -/
def crcStep (p : CrcPoly) (r b : Nat) : Nat :=
  let b' := if p.refl then bitrev 8 (b % 256) else b % 256
  mulxN p 8 (r ^^^ (b' * 2 ^ (p.width - 8)))

/-- R389: the running value after one byte. -/
def crcFeed (p : CrcPoly) (a b : Nat) : Nat := crcOut p (crcStep p (crcReg p a) b)

/-- R389: the running value after bytes in order. -/
def crcFeeds (p : CrcPoly) (a : Nat) (bs : List Nat) : Nat := bs.foldl (crcFeed p) a

/-- The product of two polynomials of the register's order modulo the generator; bit k-1 of b first. -/
def mulMod (p : CrcPoly) (a b : Nat) : Nat → Nat → Nat
  | 0, acc => acc
  | k + 1, acc => mulMod p a b k (mulx1 p acc ^^^ (if bit b k then a else 0))

/-- x^n modulo the generator, by squaring over the low k bits of n (bit k-1 first). -/
def xPow (p : CrcPoly) (n : Nat) : Nat → Nat → Nat
  | 0, acc => acc
  | k + 1, acc =>
    let sq := mulMod p acc acc p.width 0
    xPow p n k (if bit n k then mulx1 p sq else sq)

/-- R390: mulx(v, n) in the polynomial's own bit order. -/
def crcMulx (p : CrcPoly) (v n : Nat) : Nat :=
  let r := if p.refl then bitrev p.width v else v
  let m := mulMod p r (xPow p n (n.log2 + 1) 1) p.width 0
  if p.refl then bitrev p.width m else m

/-- The init in the polynomial's own (output) bit order. -/
def crcInit (p : CrcPoly) : Nat := if p.refl then bitrev p.width p.init else p.init

/-- R390: the value of sequence A followed by sequence B of len bytes; with no bytes it is a. -/
def crcCombine (p : CrcPoly) (a b len : Nat) : Nat :=
  if len = 0 then a else (b ^^^ crcMulx p ((a ^^^ p.xor ^^^ crcInit p) % 2 ^ p.width) (8 * len)) % 2 ^ p.width

/-- The CRC-32C of a byte string. -/
def crc32c (bs : List Nat) : Nat := crcFeeds (crcPoly 0) 0 bs

/-- The CRC-64/ECMA-182 of a byte string. -/
def crc64 (bs : List Nat) : Nat := crcFeeds (crcPoly 2) 0 bs

end Sys2Proof.Machine
end

