-- ==== Sys2Proof/Machine/Assoc.lean ====
section
/-! DEFINITION. Sparse maps from numbers to values in ONE canonical form: keys strictly rising, and no entry equal to what
an unlisted key reads as. Every memory and every register file of the model is one of these lists. -/

namespace Sys2Proof.Machine

/-- The value at key k; d is what an unlisted key reads as. -/
def Assoc.get {α : Type} (l : List (Nat × α)) (k : Nat) (d : α) : α :=
  match l with
  | [] => d
  | (k', v) :: r => if k' = k then v else Assoc.get r k d

/-- Remove every entry of key k. -/
def Assoc.drop {α : Type} (l : List (Nat × α)) (k : Nat) : List (Nat × α) :=
  match l with
  | [] => []
  | (k', v) :: r => if k' = k then Assoc.drop r k else (k', v) :: Assoc.drop r k

/-- Insert an entry of key k before the first of a greater key. -/
def Assoc.ins {α : Type} (l : List (Nat × α)) (k : Nat) (v : α) : List (Nat × α) :=
  match l with
  | [] => [(k, v)]
  | (k', v') :: r => if k < k' then (k, v) :: (k', v') :: r else (k', v') :: Assoc.ins r k v

/-- Store v at key k; storing what an unlisted key reads as removes the entry. -/
def Assoc.put {α : Type} [DecidableEq α] (l : List (Nat × α)) (k : Nat) (v d : α) : List (Nat × α) :=
  if v = d then Assoc.drop l k else Assoc.ins (Assoc.drop l k) k v

/-- The entries with keys below k. -/
def Assoc.below {α : Type} (l : List (Nat × α)) (k : Nat) : List (Nat × α) :=
  match l with
  | [] => []
  | (k', v) :: r => if k' < k then (k', v) :: Assoc.below r k else Assoc.below r k

/-- The entries with keys of k or more. -/
def Assoc.atLeast {α : Type} (l : List (Nat × α)) (k : Nat) : List (Nat × α) :=
  match l with
  | [] => []
  | (k', v) :: r => if k' < k then Assoc.atLeast r k else (k', v) :: Assoc.atLeast r k

/-- The list from its first key of k or more. -/
def Assoc.from {α : Type} (l : List (Nat × α)) (k : Nat) : List (Nat × α) :=
  match l with
  | [] => []
  | (k', v) :: r => if k' < k then Assoc.from r k else (k', v) :: r

/-- The values vs at consecutive keys from k, default values left out, followed by l. -/
def Assoc.run {α : Type} [DecidableEq α] (k : Nat) (vs : List α) (d : α) (l : List (Nat × α)) : List (Nat × α) :=
  match vs with
  | [] => l
  | v :: r => if v = d then Assoc.run (k + 1) r d l else (k, v) :: Assoc.run (k + 1) r d l

/-- Store the values vs at the consecutive keys from k. -/
def Assoc.splice {α : Type} [DecidableEq α] (l : List (Nat × α)) (k : Nat) (vs : List α) (d : α) : List (Nat × α) :=
  Assoc.below l k ++ Assoc.run k vs d (Assoc.atLeast l (k + vs.length))

/-- The values at the n consecutive keys from k. -/
def Assoc.slice {α : Type} (l : List (Nat × α)) (k n : Nat) (d : α) : List α :=
  match n with
  | 0 => []
  | n + 1 =>
    let l' := Assoc.from l k
    Assoc.get l' k d :: Assoc.slice l' (k + 1) n d

/-- Remove every entry with a key in [k, k + n). -/
def Assoc.clear {α : Type} (l : List (Nat × α)) (k n : Nat) : List (Nat × α) :=
  Assoc.below l k ++ Assoc.atLeast l (k + n)

/-- Every key of l is above k. -/
def Assoc.above {α : Type} (k : Nat) (l : List (Nat × α)) : Bool :=
  match l with
  | [] => true
  | (k', _) :: r => decide (k < k') && Assoc.above k r

/-- The canonical form: keys strictly rising, no entry equal to its default (dflt gives each key's). -/
def Assoc.wf {α : Type} [DecidableEq α] (dflt : Nat → α) (l : List (Nat × α)) : Bool :=
  match l with
  | [] => true
  | (k, v) :: r => decide (v ≠ dflt k) && Assoc.above k r && Assoc.wf dflt r

/-- Membership in a set of numbers, whose canonical form is strictly rising. -/
def NSet.mem (l : List Nat) (k : Nat) : Bool :=
  match l with
  | [] => false
  | k' :: r => if k' = k then true else NSet.mem r k

/-- Remove a number from a set. -/
def NSet.erase (l : List Nat) (k : Nat) : List Nat :=
  match l with
  | [] => []
  | k' :: r => if k' = k then NSet.erase r k else k' :: NSet.erase r k

/-- Insert a number before the first greater one. -/
def NSet.ins (l : List Nat) (k : Nat) : List Nat :=
  match l with
  | [] => [k]
  | k' :: r => if k < k' then k :: k' :: r else k' :: NSet.ins r k

/-- Insert a number into a set. -/
def NSet.insert (l : List Nat) (k : Nat) : List Nat := NSet.ins (NSet.erase l k) k

/-- Remove every number in [k, k + n). -/
def NSet.clear (l : List Nat) (k n : Nat) : List Nat := l.filter (fun x => decide (x < k ∨ k + n ≤ x))

/-- True when a number of the set lies in [k, k + n). -/
def NSet.any (l : List Nat) (k n : Nat) : Bool := l.any (fun x => decide (k ≤ x ∧ x < k + n))

/-- Add the numbers of a list to a set. -/
def NSet.insertAll (l : List Nat) (ks : List Nat) : List Nat := ks.foldl NSet.insert l

/-- The canonical form of a set: strictly rising. -/
def NSet.wf (l : List Nat) : Bool :=
  match l with
  | [] => true
  | [_] => true
  | a :: b :: r => decide (a < b) && NSet.wf (b :: r)

end Sys2Proof.Machine
end

