-- ==== Sys2Proof/Machine/State.lean ====
section
/-! DEFINITION. Everything the spec gives the package, as plain data. Registers of BAR0 are one sparse map keyed by their
offset; Panes, scratchpad, HBM, host memory and flash are sparse byte maps with the error and poison state of their
units; the rest are records per casement, logical tile, physical tile, function, port. A key absent from a sparse map
holds its reset value. -/

namespace Sys2Proof.Machine

/-- Why a step ends in a fault. The X576's own faults (R251) are NEXT states: no meaning raises a fault. -/
inductive Fault where
  /-- Raised by nobody. Safe. -/
  | neverRaised
  deriving DecidableEq, Repr

/-- Why a step has no meaning. -/
inductive Refusal where
  /-- Raised by an arm of exec whose command has no meaning yet. Safe. -/
  | notModelled (mnemonic : String)
  deriving DecidableEq, Repr

/-- A byte memory with units of a fixed size (8 bytes in a Pane and in the Transom, 32 in HBM). `cells`: the bytes as
stored, an unlisted address reading 0; `psn`: the numbers of the units whose poison is set; `err`: the code positions
in error of a unit, keyed unit * 128 + position (a bit of a SECDED word, a lane of an HBM chunk), with the error's
value. -/
structure Mem where
  cells : List (Nat × Byte)
  psn : List Nat
  err : List (Nat × Nat)
  deriving DecidableEq, Repr

def Mem.empty : Mem := ⟨[], [], []⟩

/-! ### Tiles -/

/-- A SEND that has issued (R277): source and destination tensors, destination tile, counter. -/
structure SendOp where
  src : Desc
  dst : Desc
  tgt : Nat
  cnt : Nat
  deriving DecidableEq, Repr

/-- A RED in tree form that has issued (R273): split index i of S, the level h it has reached, first tile and tile step, its
partial so far, the staging offset and the operands of the root. -/
structure RedOp where
  i : Nat
  splits : Nat
  h : Nat
  t0 : Nat
  ts : Nat
  part : List Nat
  stage : Nat
  src : Desc
  dst : Desc
  lp : Desc
  lv : Desc
  lrv : Bool
  acc : Bool
  iaddr : Nat
  iword : Nat
  ups : List Upset
  deriving DecidableEq, Repr

/-- What an incomplete instruction still waits for. -/
inductive IKind where
  | plain
  | recv (n c : Nat)
  | send (x : SendOp)
  | step
  | token
  | ared
  | red (x : RedOp)
  deriving DecidableEq, Repr

/-- An issued, incomplete instruction (R207): its number, the Pane ranges it reads and writes, the registers it writes
(scalars 0 to 31, descriptors 32 to 95, predicates 96 to 103), and what it waits for. -/
structure Inc where
  id : Nat
  rd : List (Nat × Nat)
  wr : List (Nat × Nat)
  wreg : List Nat
  kind : IKind
  deriving DecidableEq, Repr

/-- An instruction as its Die Sequencer delivered it: opcode, fields, and the hardware faults that strike it. -/
structure IBuf where
  op : Nat
  w : IFields
  ups : List Upset
  deriving DecidableEq, Repr

/-- Where a logical tile stands. -/
inductive LPhase where
  | off
  | boundary
  | running
  | ended
  | halted
  | stopped
  deriving DecidableEq, Repr

/-- A logical tile: the tile state record of R216 and what the Dispatcher and the Die Sequencer hold of it. -/
structure LTile where
  phase : LPhase
  sregs : List (Nat × Word)
  preds : BitVec 8
  tds : List (Nat × Desc)
  ac : List (Nat × Word)
  lr : List (Nat × Word)
  next : Nat
  astat : Word
  firstpos : Word
  phys : Option Nat
  bstart : Nat
  bend : Nat
  pc : Nat
  inc : List Inc
  nextId : Nat
  ibuf : List IBuf
  live : Nat
  waits : List (Nat × Nat)
  stepOpen : Bool
  stepAt : Nat
  haltReq : Bool
  deriving DecidableEq, Repr

def LTile.reset : LTile :=
  ⟨.off, [], 1#8, [], [], [], 0, 0, 0, none, 0, 0, 0, [], 0, [], 0, [], false, 0, false⟩

/-- What a physical tile holds beside its TIL registers: the logical tile bound to it (casement and index), boundaries since
its last test and since it was due (R380, R381), whether a forced test is due, whether it is failing and awaits a test
(R229), whether a test runs and whether it began on a spare (R230), the order in which it was last tested, the scrubber's word,
the stopped arrays (R198), the arrays that have passed a comparison since the tile's reset (R193), TIL_PWR_CTL in force (R209). -/
structure PTile where
  own : Option (Nat × Nat)
  bounds : Nat
  defer : Nat
  forced : Bool
  failing : Bool
  testing : Bool
  spareTest : Bool
  last : Nat
  scrub : Nat
  stopped : List Nat
  passed : List Nat
  pwr : Nat
  deriving DecidableEq, Repr

def PTile.reset : PTile := ⟨none, 0, 0, false, false, false, false, 0, 0, [0, 1, 2, 3], [], 0x2401⟩

/-! ### Casements -/

/-- The casement states of 14_host_interface.md. -/
inductive CPhase where
  | idle
  | loaded
  | running
  | stopped
  deriving DecidableEq, Repr

/-- Who is to get START's second record: function, SEQ, TAG and acceptance number. -/
structure StartRec where
  f : Nat
  seq : Nat
  tag : Nat
  aseq : Nat
  deriving DecidableEq, Repr

/-- A casement, keyed by its lowest die. hft: the host frame table, each supplied entry's address + 1 (0: unsupplied); pool: the
offload pool; hrefs: the indices that HOST pages reference (R312), orefs: those that paged-out copies reference (R411); wrote: the OFF pages written since they were allocated or paged in
(R315). -/
structure Cas where
  exist : Bool
  owner : Nat
  tag : Nat
  mask : Nat
  phase : CPhase
  held : Bool
  nlt : Nat
  gx : Nat
  gy : Nat
  entry : Nat
  plen : Nat
  pva : Nat
  ctxBase : Nat
  ctxFrames : Nat
  ptBase : Nat
  ptFrames : Nat
  ptNext : Nat
  traceBase : Nat
  freed : List Nat
  fresh : Nat
  freshEnd : Nat
  hft : List (Nat × Nat)
  pool : List Nat
  hrefs : List Nat
  orefs : List Nat
  outq : List Nat
  wrote : List Nat
  trace : List Nat
  traceOn : Bool
  recent : List Nat
  outs : List Nat
  ptr : Nat
  prot : List Nat
  stepPages : List Nat
  steps : Nat
  start : Option StartRec
  quiesce : Bool
  deriving DecidableEq, Repr

def Cas.reset : Cas :=
  ⟨false, 0, 0, 0, .idle, false, 0, 0, 0, 0, 0, 0, 0, 0, 0, 0, 0, 0, [], 0, 0, [], [], [], [], [], [], [], true, [], [], 0, [], [], 0,
   none, false⟩

/-! ### Layers (R137, R138, R177) -/

/-- A layer's sums of one step: active, patches measured and their ρ in units of 2^-32, patches not measured, QNT ratios and
their sum in the same units, elements, saturated elements and rejected outlier candidates, OVF and RETOOK events; whether an OPT contributed, its
updated and lost elements, MSAT, and the greatest exponent of m1. -/
structure LaySum where
  act : Bool
  peeps : Nat
  rho : Nat
  nfp : Nat
  nq : Nat
  mse : Nat
  elems : Nat
  sats : Nat
  rej : Nat
  ovf : Bool
  retook : Bool
  opt : Bool
  uelem : Nat
  ulost : Nat
  msat : Bool
  mexp : Option Int
  deriving DecidableEq, Repr

def LaySum.zero : LaySum := ⟨false, 0, 0, 0, 0, 0, 0, 0, 0, false, false, false, 0, 0, false, none⟩

/-- What the NUM block holds of a layer beside its registers: the sums of the step in force and of the step after it (from
tiles that have passed their STEP), the quiet count kept to 11 bits, the commits since a descent that has not been
followed by a climb, and whether GSX has been written since the last commit (R184). -/
structure Lay where
  cur : LaySum
  nxt : LaySum
  dwcnt : Nat
  since : Option Nat
  gsxw : Bool
  deriving DecidableEq, Repr

def Lay.reset : Lay := ⟨LaySum.zero, LaySum.zero, 0, none, false⟩

/-! ### Functions -/

/-- A command block in a function's queue (R400): its bytes and its acceptance number. -/
structure QBlk where
  bytes : List Nat
  aseq : Nat
  deriving DecidableEq, Repr

/-- A completion record not yet written (R413). -/
structure CRec where
  seq : Nat
  type : Nat
  status : Nat
  tag : Nat
  aseq : Nat
  result : Nat
  deriving DecidableEq, Repr

/-- A PCIe function: its command queue, whether the block at READ is to be examined (R400), whether the command at the front of
the queue executes (R403, R429), the records waiting for its completion ring, the phases of its rings, whether the
event ring lost records, whether the function is in D3hot; AER's status of uncorrectable errors and the logarithm of BAR4's size
(R393, R396). -/
structure FnSt where
  q : List QBlk
  exam : Bool
  busy : Bool
  recs : List CRec
  cqPhase : Bool
  evPhase : Bool
  lostf : Bool
  d3 : Bool
  aer : Nat
  bar4 : Nat
  deriving DecidableEq, Repr

def FnSt.reset : FnSt := ⟨[], false, false, [], true, true, false, false, 0, 41⟩

/-- The unlock state of one requester (R375). -/
structure Unlock where
  adr : Nat
  len : Nat
  open_ : Bool
  base : Nat
  span : Nat
  left : Nat
  deriving DecidableEq, Repr

def Unlock.reset : Unlock := ⟨0, 0, false, 0, 0, 0⟩

/-! ### The fabric (12_fabric.md) -/

/-- Chunks of a receiver's pool (R333): the floors M0 to M3 without escape, the escape part of M0's, the shared part. -/
structure Credits where
  floor : List Nat
  esc : Nat
  shared : Nat
  deriving DecidableEq, Repr

/-- The pool of 6,144 chunks at the default floors. -/
def Credits.full : Credits := ⟨[768, 256, 512, 256], 256, 4096⟩

/-- A Bronak port's link layer: next LSEQ expected, replay request pending, next LSEQ to send, frames sent and not yet
acknowledged, whether the peer asks for a replay, consecutive replays without an acknowledgement (R329), frames waiting to be sent,
frames received in order and not yet routed, frames delivered here and not yet consumed; the pool as the floors divide it since
the training, credits held towards the peer, what is free of this port's own pool (R333, R334); chunks to return by class;
whether discovery has found the peer (R338); whether a frame was dropped in this millisecond (R343); whether the port's logic
failed its test (R447). -/
structure Port where
  rxNext : Nat
  nak : Bool
  txNext : Nat
  unacked : List Frame
  replay : Bool
  replays : Nat
  txq : List Frame
  rxq : List Frame
  inbox : List Frame
  cap : Credits
  cr : Credits
  room : Credits
  ret : List Nat
  found : Bool
  drops : Bool
  bad : Bool
  deriving DecidableEq, Repr

def Port.reset : Port :=
  ⟨0, false, 0, [], false, 0, [], [], [], Credits.full, Credits.full, Credits.full, [0, 0, 0, 0], false, false, false⟩

/-- A piece of a contribution that waits for its GRANT or its ACK (R354): request number, group and group index, shard tag,
segment, piece, reducer's package, the handle its GRANT gave, its chunks and their poison. -/
structure FReq where
  reqid : Nat
  gidx : Nat
  gi : Nat
  shard : Nat
  seg : Nat
  piece : Nat
  tgt : Nat
  handle : Option Nat
  chunks : List Nat
  psn : List Nat
  deriving DecidableEq, Repr

/-- A delivery that this member expects (R354 step 6): return handle, shard, segment, piece, first chunk in the shard, number
of chunks, chunks received with their poison, digest mismatches so far. -/
structure FRet where
  ret : Nat
  gidx : Nat
  shard : Nat
  seg : Nat
  piece : Nat
  first : Nat
  count : Nat
  from_ : Nat
  chunks : List Nat
  psn : List Nat
  tries : Nat
  deriving DecidableEq, Repr

/-- A shard whose delivery is not complete: element count, target tile, counter, destination, pieces left. -/
structure FShard where
  gidx : Nat
  shard : Nat
  elems : Nat
  tile : Nat
  cnt : Nat
  desc : Desc
  left : Nat
  deriving DecidableEq, Repr

/-- A node of the tree of R355: its first leaf, its level, the partial sums by chunk and the poisoned chunks. -/
structure RedNode where
  leaf : Nat
  lvl : Nat
  chunks : List Nat
  psn : List Nat
  deriving DecidableEq, Repr

/-- One member's request at the reducer: group index, package, request number, return handle, the handle granted, whether it
has been folded, the piece received so far. -/
structure FMem where
  gi : Nat
  pkg : Nat
  reqid : Nat
  ret : Nat
  handle : Option Nat
  folded : Bool
  acked : Bool
  tries : Nat
  chunks : List Nat
  psn : List Nat
  deriving DecidableEq, Repr

/-- A piece under reduction at this member (R354 to R356): group, shard, segment, piece, port that holds it, members, element
count, chunks of the piece, the members' requests, the nodes of the tree, whether the result has been sent. -/
structure FRed where
  gidx : Nat
  shard : Nat
  seg : Nat
  piece : Nat
  port : Nat
  n : Nat
  elems : Nat
  count : Nat
  mems : List FMem
  nodes : List RedNode
  sent : Bool
  deriving DecidableEq, Repr

/-- What the ports of a casement hold for it; the epoch of a token that is held, what it waits for (0 a request, 1 a granted
piece, 2 a delivery sent, 3 a piece held folded), and the tile and the number of the TOKEN instruction that is out (R352). -/
structure Fab where
  reqs : List FReq
  rets : List FRet
  shards : List FShard
  reds : List FRed
  nextReq : Nat
  nextHandle : Nat
  tokHeld : Option Nat
  tokWait : List (Nat × Nat)
  tokOut : Option (Nat × Nat)
  deriving DecidableEq, Repr

def Fab.reset : Fab := ⟨[], [], [], [], 0, 0, none, [], none⟩

/-! ### Arbitration of a Transom slice, of an HBM controller and of the hub (R306 to R308) -/

/-- The current window of 64 grants of a slice or of a controller: grants made, those of classes C and B, C_CAP and B_FLOOR in force. -/
structure Louvre where
  n : Nat
  c : Nat
  b : Nat
  cap : Nat
  floor : Nat
  deriving DecidableEq, Repr

def Louvre.reset : Louvre := ⟨0, 0, 0, 16, 8⟩

/-- The current window of 64 grants of the hub's memory engine (R307): grants made, those of each casement, the casement served
last, HUB_FLOOR, HUB_CAP and HARD in force by casement. -/
structure HubWin where
  n : Nat
  got : List Nat
  last : Nat
  floor : List Nat
  cap : List Nat
  hard : List Bool
  deriving DecidableEq, Repr

def HubWin.reset : HubWin := ⟨0, [0, 0, 0, 0], 3, [0, 0, 0, 0], [64, 64, 64, 64], [false, false, false, false]⟩

/-! ### Hardened registers (R372) -/

/-- One of the three copies of a hardened register: the bits in which it differs from the value last written, and whether its parity bit
has flipped. -/
structure HCopy where
  diff : Nat
  par : Bool
  deriving DecidableEq, Repr

/-- Three good copies. -/
def HCopy.three : List HCopy := [⟨0, false⟩, ⟨0, false⟩, ⟨0, false⟩]

/-! ### What leaves the package -/

/-- What the package sends out. Requests to the host carry the requester ID of a function (R394): msix, host. -/
inductive Out where
  | msix (f addr data : Nat)
  | host (f : Nat) (wr : Bool) (addr n : Nat)
  | reg (rq : Req) (off width v : Nat)
  | bar4 (f off : Nat) (bytes : List Nat) (poisoned : Bool)
  | unsupported (f : Nat)
  | frame (p : Nat) (bytes : List Nat)
  | cfg (f : Nat) (rrs : Bool) (data : Nat)
  | drs
  | mgt (pcie : Bool) (cmd inst status : Nat) (body : List Nat)
  | mctp (pcie : Bool) (body : List Nat)
  | vout (d mv : Nat)
  deriving DecidableEq, Repr

/-! ### Firmware, life cycle, self-test (15_reset_and_bringup.md, 16_firmware_and_trust.md) -/

/-- The fuses (R434, R454, R462 to R464): serial number, life-cycle code in force and the one that the next reset of source 1 or
2 brings, anti-rollback counter, revoked vendor keys by bit, identity seed bytes, whether the identity key is destroyed. -/
structure Fuses where
  serial : Nat
  lcs : Nat
  pend : Nat
  svnctr : Nat
  revoked : Nat
  seed : List Nat
  dead : Bool
  deriving DecidableEq, Repr

def Fuses.reset : Fuses := ⟨0, 0, 0, 0, 0, [], false⟩

/-- The entry in force of the control journal (R455). -/
structure Jrn where
  seq : Nat
  st : Nat
  db : Bool
  svn : Nat
  ver : Nat
  len : Nat
  dig : List Nat
  ctag : Nat
  epoch : Nat
  deriving DecidableEq, Repr

def Jrn.reset : Jrn := ⟨0, 0, false, 0, 0, 0, [], 0, 0⟩

/-- The running image (R459): golden bank or not, version, security version, header digest. -/
structure RunImg where
  gold : Bool
  ver : Nat
  svn : Nat
  dig : List Nat
  deriving DecidableEq, Repr

def RunImg.reset : RunImg := ⟨false, 0, 0, []⟩

/-- Bring-up (R436, R437): steps 5 to 8 have completed since the last reset that reaches what they build; configuration space
is loaded; the PCIe link is up; DRS has been sent; dies lost for a cause other than their tiles (a bit mask). -/
structure Boot where
  built : Bool
  cfg : Bool
  link : Bool
  drs : Bool
  lost : Nat
  deriving DecidableEq, Repr

def Boot.reset : Boot := ⟨false, false, false, false, 0⟩

/-- A seal test in progress (R441 to R444): tests not yet admitted other than tiles, tiles not yet admitted, tests that run with
their power, in the numbers of the scheduler; SUPPLY_RSV_L has asserted. -/
structure SealSt where
  todo : List Nat
  tiles : Nat
  running : List (Nat × Nat)
  rsv : Bool
  deriving DecidableEq, Repr

def SealSt.reset : SealSt := ⟨[], 0, [], false⟩

/-! ### Power and the management path (17_pins_power_management.md) -/

/-- Power control (R474 to R479): by die, the voltage commanded in mV, steps lowered and not yet reversed, steps down that are
due, steps up that are due; dies throttled for temperature, regulators that do not respond (bit masks); TWARN may raise
its event; exponent of F; measured power of the last millisecond (R442); the power in force at the last measurement (R478). -/
structure Pwr where
  vcmd : List Nat
  low : List Nat
  down : List Nat
  up : List Nat
  hot : Nat
  held : Nat
  warn : Bool
  fexp : Nat
  watts : Nat
  force : Nat
  deriving DecidableEq, Repr

def Pwr.reset : Pwr := ⟨[0, 0, 0, 0], [0, 0, 0, 0], [0, 0, 0, 0], [0, 0, 0, 0], 0, 0, true, 0, 0, 3600⟩

/-- A result kept for POLL (R484): INST and transport of its request, bytes, how many of them have been collected, requests
answered since. -/
structure MRes where
  pcie : Bool
  inst : Nat
  bytes : List Nat
  got : Nat
  age : Nat
  deriving DecidableEq, Repr

/-- The management port: the queue with each request's transport, results kept, I3C address, MCTP endpoint IDs of both
transports. -/
structure Mgt where
  queue : List (Bool × MReq)
  results : List MRes
  addr : Nat
  eidI3c : Nat
  eidPcie : Nat
  deriving DecidableEq, Repr

def Mgt.reset : Mgt := ⟨[], [], 0, 0, 0⟩

/-! ### The package -/

/-- The state of the package. flash: the board's flash (R451), an unlisted byte erased; opts: the option words as loaded (R434); jrn:
the journal entry in force as the Package Controller holds it (R455); clines: the cached lines of 128 bytes, each with 1 + its slice
(R300); cfgs: words of configuration space that have been written, keyed function * 4096 + offset, each 1 + its value (R393); hcopy: the copies of hardened registers (R372), hpos: the register that the scrubber visited last (R373), wcopy: the bits in
which a unit's working copy of a register is upset, keyed offset * 1024 + unit (R376); louvres: the windows of slices 0 to 15 and of controllers at 16 + stack; cdirty: the dirty ones; cdata: their words. heldPane: live Pane bytes of held contexts (R492), a logical tile's byte `off` at
ltKey * 2^19 + off. -/
structure State where
  pending : List Instr
  regs : List (Nat × Word)
  staged : List (Nat × Option Word)
  arb : List (Nat × Nat)
  pane : Mem
  scratch : Mem
  hbm : Mem
  clines : List (Nat × Nat)
  cdirty : List Nat
  cdata : Mem
  host : Mem
  hbad : List (Nat × Nat × Nat)
  window : List (Nat × Byte)
  cas : List (Nat × Cas)
  lts : List (Nat × LTile)
  heldPane : Mem
  tiles : List (Nat × PTile)
  fns : List (Nat × FnSt)
  cfgs : List (Nat × Nat)
  unlock : List (Nat × Unlock)
  ports : List (Nat × Port)
  fabs : List (Nat × Fab)
  lays : List (Nat × Lay)
  louvres : List (Nat × Louvre)
  hub : HubWin
  tscrub : List (Nat × Nat)
  hscrub : List (Nat × Nat)
  mesh : List (Nat × Nat)
  hcopy : List (Nat × List HCopy)
  hpos : Nat
  wcopy : List (Nat × Nat)
  spares : List Nat
  shut : List Nat
  fenced : List Nat
  tests : Nat
  flash : List (Nat × Byte)
  opts : List (Nat × Byte)
  fuses : Fuses
  jrn : Jrn
  run : RunImg
  boot : Boot
  sealing : SealSt
  trnRep : List (Nat × Nat)
  rseq : Nat
  pwr : Pwr
  mgt : Mgt
  free : Nat
  out : List Out
  deriving DecidableEq, Repr

def State.reset : State where
  pending := []
  regs := []
  staged := []
  arb := []
  pane := Mem.empty
  scratch := Mem.empty
  hbm := Mem.empty
  clines := []
  cdirty := []
  cdata := Mem.empty
  host := Mem.empty
  hbad := []
  window := []
  cas := []
  lts := []
  heldPane := Mem.empty
  tiles := []
  fns := []
  cfgs := []
  unlock := []
  ports := []
  fabs := []
  lays := []
  louvres := []
  hub := HubWin.reset
  tscrub := []
  hscrub := []
  mesh := []
  hcopy := []
  hpos := 0
  wcopy := []
  spares := []
  shut := []
  fenced := []
  tests := 0
  flash := []
  opts := []
  fuses := Fuses.reset
  jrn := Jrn.reset
  run := RunImg.reset
  boot := Boot.reset
  sealing := SealSt.reset
  trnRep := []
  rseq := 0
  pwr := Pwr.reset
  mgt := Mgt.reset
  free := 0
  out := []

end Sys2Proof.Machine
end

