-- ==== Sys2Proof/Machine/RegTable.lean ====
section
/-! DEFINITION. The BAR0 register table: every register of every chapter, its offset, how often it repeats, and its fields
with type (R8) and reset value. Generated from the register tables of spec/; the comment names the rule. -/

namespace Sys2Proof.Machine

/-- R8: the type of a field. -/
inductive RTy where
  | ro | rw | rw1c | rw1s | wo | rc | ros | hrw
  deriving DecidableEq, Repr

/-- A field: bits [hi:lo], type and reset value. -/
structure RField where
  hi : Nat
  lo : Nat
  ty : RTy
  rst : Nat
  deriving DecidableEq, Repr

/-- A register or an array of registers: n1 copies st1 bytes apart, each of n2 registers st2 bytes apart. -/
structure RRow where
  base : Nat
  st1 : Nat
  n1 : Nat
  st2 : Nat
  n2 : Nat
  fields : List RField
  deriving DecidableEq, Repr

/-- The IDN block. -/
def regsIDN : List RRow := [
  ⟨0x0000000, 4, 1, 0, 1, [⟨15, 0, .ro, 0x576⟩, ⟨19, 16, .ro, 0⟩, ⟨23, 20, .ro, 1⟩]⟩,  -- IDN_PART, R469
  ⟨0x0000010, 4, 4, 0, 1, [⟨31, 0, .ro, 0⟩]⟩,  -- IDN_SERIALn, R469
  ⟨0x0000100, 4, 1, 0, 1, [⟨3, 0, .ro, 4⟩, ⟨11, 4, .ro, 0x90⟩, ⟨19, 12, .ro, 0x10⟩, ⟨31, 20, .ro, 0x240⟩]⟩,  -- IDN_SIZE_PKG, R213
  ⟨0x0000104, 4, 1, 0, 1, [⟨9, 0, .ro, 0x200⟩, ⟨17, 10, .ro, 0x40⟩, ⟨25, 18, .ro, 0x40⟩, ⟨28, 26, .ro, 4⟩]⟩,  -- IDN_SIZE_TILE, R213
  ⟨0x0000108, 4, 1, 0, 1, [⟨7, 0, .ro, 0x18⟩, ⟨19, 8, .ro, 0x600⟩, ⟨31, 20, .ro, 0x180⟩]⟩,  -- IDN_SIZE_MEM, R213
  ⟨0x000010C, 4, 1, 0, 1, [⟨12, 0, .ro, 0x1000⟩, ⟨17, 13, .ro, 0x10⟩, ⟨22, 18, .ro, 0x10⟩, ⟨25, 23, .ro, 4⟩]⟩,  -- IDN_SIZE_LIM, R213
  ⟨0x0000110, 4, 1, 0, 1, [⟨3, 0, .ro, 0xF⟩]⟩  -- IDN_SIZE_DIEAV, R213
]

/-- The RST block. -/
def regsRST : List RRow := [
  ⟨0x0010000, 4, 1, 0, 1, [⟨3, 0, .ros, 1⟩, ⟨15, 8, .ros, 1⟩, ⟨23, 16, .ros, 0⟩, ⟨24, 24, .ro, 0⟩]⟩,  -- RST_CAUSE, R449
  ⟨0x0010010, 4, 1, 0, 1, [⟨15, 0, .rw, 0x64⟩]⟩,  -- RST_SHT_CTL, R449
  ⟨0x0010014, 4, 1, 0, 1, [⟨3, 0, .ro, 0⟩, ⟨13, 4, .ro, 0⟩, ⟨14, 14, .rw1c, 0⟩]⟩,  -- RST_SHT_STAT, R449
  ⟨0x0010018, 4, 1, 0, 1, [⟨15, 0, .rc, 0⟩, ⟨31, 16, .rc, 0⟩]⟩,  -- RST_SHT_CNT, R449
  ⟨0x0010020, 4, 1, 0, 1, [⟨15, 0, .hrw, 0x1F4⟩]⟩,  -- RST_WDT, R449
  ⟨0x0010024, 4, 1, 0, 1, [⟨31, 0, .wo, 0⟩]⟩,  -- RST_WDT_FEED, R449
  ⟨0x0010100, 4, 20, 0, 1, [⟨31, 0, .rw1s, 0⟩]⟩,  -- RST_TILEn, R449
  ⟨0x0010150, 4, 1, 0, 1, [⟨3, 0, .rw1s, 0⟩]⟩,  -- RST_DSQ, R449
  ⟨0x0010154, 4, 1, 0, 1, [⟨23, 0, .rw1s, 0⟩]⟩,  -- RST_MEM, R449
  ⟨0x0010158, 4, 1, 0, 1, [⟨15, 0, .rw1s, 0⟩]⟩,  -- RST_TRN, R449
  ⟨0x001015C, 4, 1, 0, 1, [⟨7, 0, .rw1s, 0⟩]⟩,  -- RST_FAB, R449
  ⟨0x0010160, 4, 1, 0, 1, [⟨0, 0, .rw1s, 0⟩]⟩  -- RST_ITK, R449
]

/-- The LCB block. -/
def regsLCB : List RRow := [
  ⟨0x0020000, 4, 1, 0, 1, [⟨2, 0, .ro, 0⟩, ⟨5, 3, .ro, 0⟩]⟩,  -- LCB_LCS, R469
  ⟨0x0020004, 4, 1, 0, 1, [⟨2, 0, .wo, 0⟩, ⟨3, 3, .wo, 0⟩]⟩,  -- LCB_LC_CMD, R469
  ⟨0x0020008, 4, 1, 0, 1, [⟨0, 0, .ro, 0⟩, ⟨1, 1, .ro, 0⟩, ⟨2, 2, .ro, 0⟩]⟩,  -- LCB_KH_STAT, R469
  ⟨0x0020800, 4, 1, 0, 1, [⟨0, 0, .wo, 0⟩]⟩,  -- LCB_SEAL_CTL, R450
  ⟨0x0020804, 4, 1, 0, 1, [⟨2, 0, .ro, 0⟩, ⟨11, 8, .ro, 0⟩, ⟨23, 16, .ro, 0⟩]⟩,  -- LCB_SEAL_STAT, R450
  ⟨0x0020808, 4, 1, 0, 1, [⟨3, 0, .ro, 1⟩, ⟨6, 4, .ro, 0⟩, ⟨7, 7, .ro, 0⟩, ⟨8, 8, .ro, 0⟩]⟩,  -- LCB_BOOT_STAT, R450
  ⟨0x002080C, 4, 1, 0, 1, [⟨11, 0, .hrw, 0x4B0⟩]⟩,  -- LCB_BIST_CAP, R450
  ⟨0x0020810, 4, 1, 0, 1, [⟨7, 0, .ro, 0⟩]⟩,  -- LCB_SAFE_CAUSE, R450
  ⟨0x0020814, 4, 1, 0, 1, [⟨31, 0, .ro, 0⟩]⟩,  -- LCB_BIST_DUR, R450
  ⟨0x0020818, 4, 1, 0, 1, [⟨31, 0, .ro, 0⟩]⟩  -- LCB_SEAL_NO, R450
]

/-- The FWU block. -/
def regsFWU : List RRow := [
  ⟨0x0030000, 4, 1, 0, 1, [⟨3, 0, .wo, 0⟩]⟩,  -- FWU_CMD, R468
  ⟨0x0030004, 4, 1, 0, 1, [⟨0, 0, .ro, 0⟩, ⟨3, 1, .ro, 0⟩, ⟨7, 4, .ro, 0⟩, ⟨8, 8, .ro, 0⟩, ⟨9, 9, .ro, 0⟩, ⟨10, 10, .ro, 0⟩, ⟨13, 11, .ro, 0⟩, ⟨14, 14, .ros, 0⟩]⟩,  -- FWU_STAT, R468
  ⟨0x0030008, 4, 1, 0, 1, [⟨31, 0, .rw, 0⟩]⟩,  -- FWU_ADDRL, R468
  ⟨0x003000C, 4, 1, 0, 1, [⟨31, 0, .rw, 0⟩]⟩,  -- FWU_ADDRH, R468
  ⟨0x0030010, 4, 1, 0, 1, [⟨23, 0, .rw, 0⟩]⟩,  -- FWU_LEN, R468
  ⟨0x0030014, 4, 1, 0, 1, [⟨15, 0, .rw, 0⟩, ⟨16, 16, .rw, 0⟩]⟩,  -- FWU_ARM, R468
  ⟨0x0030018, 4, 1, 0, 1, [⟨31, 0, .rw, 0⟩]⟩,  -- FWU_EPOCH, R468
  ⟨0x0030020, 4, 1, 0, 1, [⟨31, 0, .ro, 0⟩]⟩,  -- FWU_VER, R468
  ⟨0x0030024, 4, 1, 0, 1, [⟨15, 0, .ro, 0⟩, ⟨31, 16, .ro, 0⟩]⟩,  -- FWU_SVN, R468
  ⟨0x0030040, 4, 16, 0, 1, [⟨31, 0, .rw, 0⟩]⟩  -- FWU_NONCEn, R468
]

/-- The ITK block. -/
def regsITK : List RRow := [
  ⟨0x0040000, 0x100, 16, 0, 1, [⟨0, 0, .ro, 0⟩, ⟨1, 1, .ro, 0⟩, ⟨2, 2, .rw1c, 0⟩]⟩,  -- ITK_STATf, R419
  ⟨0x0040004, 0x100, 16, 0, 1, [⟨31, 0, .ro, 0⟩]⟩,  -- ITK_NEXTf, R419
  ⟨0x0040008, 0x100, 16, 0, 1, [⟨19, 0, .ro, 0⟩]⟩,  -- ITK_READf, R419
  ⟨0x004000C, 0x100, 16, 0, 1, [⟨15, 0, .rc, 0⟩, ⟨31, 16, .rc, 0⟩]⟩,  -- ITK_CNTf, R419
  ⟨0x0040010, 0x100, 16, 0, 1, [⟨31, 12, .rw, 0⟩]⟩,  -- ITK_CQBLf, R419
  ⟨0x0040014, 0x100, 16, 0, 1, [⟨31, 0, .rw, 0⟩]⟩,  -- ITK_CQBHf, R419
  ⟨0x0040018, 0x100, 16, 0, 1, [⟨3, 0, .rw, 0⟩, ⟨4, 4, .rw, 0⟩, ⟨14, 8, .rw, 0⟩]⟩,  -- ITK_CQCTLf, R419
  ⟨0x004001C, 0x100, 16, 0, 1, [⟨15, 0, .rw, 0⟩, ⟨16, 16, .rw1s, 0⟩]⟩,  -- ITK_CQHEADf, R419
  ⟨0x0040020, 0x100, 16, 0, 1, [⟨15, 0, .ro, 0⟩]⟩,  -- ITK_CQTAILf, R419
  ⟨0x0041000, 4, 1, 0, 1, [⟨1, 0, .rw, 0⟩, ⟨2, 2, .rw, 0⟩]⟩  -- ITK_B4SEL, R419
]

/-- The EVT block. -/
def regsEVT : List RRow := [
  ⟨0x0050010, 0x100, 16, 0, 1, [⟨31, 12, .rw, 0⟩]⟩,  -- EVT_RBLf, R419
  ⟨0x0050014, 0x100, 16, 0, 1, [⟨31, 0, .rw, 0⟩]⟩,  -- EVT_RBHf, R419
  ⟨0x0050018, 0x100, 16, 0, 1, [⟨3, 0, .rw, 0⟩, ⟨4, 4, .rw, 0⟩, ⟨14, 8, .rw, 1⟩]⟩,  -- EVT_RCTLf, R419
  ⟨0x005001C, 0x100, 16, 0, 1, [⟨15, 0, .rw, 0⟩, ⟨16, 16, .rw1s, 0⟩]⟩,  -- EVT_HEADf, R419
  ⟨0x0050020, 0x100, 16, 0, 1, [⟨15, 0, .ro, 0⟩]⟩,  -- EVT_TAILf, R419
  ⟨0x0050024, 0x100, 16, 0, 1, [⟨31, 0, .rc, 0⟩]⟩  -- EVT_LOSTf, R419
]

/-- The INT block. -/
def regsINT : List RRow := [
  ⟨0x0060000, 4, 1, 0, 1, [⟨15, 0, .rc, 0⟩, ⟨31, 16, .rc, 0⟩]⟩,  -- INT_HSTAT, R375
  ⟨0x0060010, 4, 1, 0, 1, [⟨24, 2, .rw, 0⟩]⟩,  -- INT_HUNLK_ADR, R375
  ⟨0x0060014, 4, 1, 0, 1, [⟨17, 0, .rw, 0⟩]⟩,  -- INT_HUNLK_LEN, R375
  ⟨0x0060018, 4, 1, 0, 1, [⟨31, 0, .wo, 0⟩]⟩,  -- INT_HUNLK_KEY, R375
  ⟨0x006001C, 4, 1, 0, 1, [⟨0, 0, .ro, 0⟩, ⟨18, 1, .ro, 0⟩]⟩,  -- INT_HUNLK_STAT, R375
  ⟨0x0060100, 4, 1, 0, 1, [⟨7, 0, .hrw, 0⟩, ⟨8, 8, .hrw, 0⟩, ⟨9, 9, .hrw, 0⟩]⟩,  -- INT_INJ_CTL, R371
  ⟨0x0060104, 4, 1, 0, 1, [⟨15, 0, .hrw, 0⟩]⟩,  -- INT_INJ_TGT, R371
  ⟨0x0060108, 4, 1, 0, 1, [⟨31, 0, .hrw, 0⟩]⟩,  -- INT_INJ_PAT, R371
  ⟨0x006010C, 4, 1, 0, 1, [⟨0, 0, .ro, 0⟩, ⟨1, 1, .rw1c, 0⟩, ⟨2, 2, .rw1c, 0⟩]⟩,  -- INT_INJ_STAT, R371
  ⟨0x0060200, 4, 1, 0, 1, [⟨0, 0, .hrw, 1⟩, ⟨5, 1, .hrw, 0x16⟩, ⟨12, 6, .hrw, 0x40⟩, ⟨15, 13, .hrw, 2⟩]⟩,  -- INT_IFT_CTL, R381
  ⟨0x0060210, 4, 4, 0, 1, [⟨11, 0, .rc, 0⟩, ⟨19, 12, .rc, 0⟩, ⟨31, 20, .rc, 0⟩]⟩,  -- INT_IFT_CNTd, R381
  ⟨0x0060300, 4, 1, 0, 1, [⟨3, 0, .ro, 0⟩, ⟨19, 4, .ro, 0⟩]⟩,  -- INT_DIS_LOG, R378
  ⟨0x0060304, 4, 1, 0, 1, [⟨15, 0, .rc, 0⟩]⟩,  -- INT_DIS_CNT, R378
  ⟨0x0060400, 4, 4, 0, 1, [⟨15, 0, .rc, 0⟩]⟩,  -- INT_MESH_ERRd, R381
  ⟨0x0060500, 4, 8, 0, 1, [⟨15, 0, .rc, 0⟩, ⟨31, 16, .rc, 0⟩]⟩,  -- INT_RDCHKp, R381
  ⟨0x0061000, 0x40, 8, 0, 1, [⟨1, 0, .rw, 0⟩, ⟨2, 2, .ro, 0⟩]⟩,  -- INT_CVUu_CTL, R392
  ⟨0x0061004, 0x40, 8, 0, 1, [⟨31, 0, .rw, 0⟩]⟩,  -- INT_CVUu_VALLO, R392
  ⟨0x0061008, 0x40, 8, 0, 1, [⟨31, 0, .rw, 0⟩]⟩,  -- INT_CVUu_VALHI, R392
  ⟨0x006100C, 0x40, 8, 0, 1, [⟨7, 0, .wo, 0⟩]⟩,  -- INT_CVUu_FEED8, R392
  ⟨0x0061010, 0x40, 8, 0, 1, [⟨15, 0, .wo, 0⟩]⟩,  -- INT_CVUu_FEED16, R392
  ⟨0x0061014, 0x40, 8, 0, 1, [⟨31, 0, .wo, 0⟩]⟩,  -- INT_CVUu_FEED32, R392
  ⟨0x0061018, 0x40, 8, 0, 1, [⟨31, 0, .rw, 0⟩]⟩,  -- INT_CVUu_CMBLO, R392
  ⟨0x006101C, 0x40, 8, 0, 1, [⟨31, 0, .rw, 0⟩]⟩,  -- INT_CVUu_CMBHI, R392
  ⟨0x0061020, 0x40, 8, 0, 1, [⟨31, 0, .rw, 0⟩]⟩,  -- INT_CVUu_CMBLEN, R392
  ⟨0x0061024, 0x40, 8, 0, 1, [⟨15, 0, .rw, 0⟩]⟩,  -- INT_CVUu_CMBLENH, R392
  ⟨0x0061028, 0x40, 8, 0, 1, [⟨1, 0, .wo, 0⟩]⟩  -- INT_CVUu_CMD, R392
]

/-- The NUM block. -/
def regsNUM : List RRow := [
  ⟨0x0070100, 4, 4, 0, 1, [⟨0, 0, .rw, 1⟩, ⟨7, 4, .rw, 0xA⟩]⟩,  -- NUM_QNT_CTLd, R115
  ⟨0x0070110, 4, 4, 0, 1, [⟨31, 0, .rc, 0⟩]⟩,  -- NUM_QNT_RTKd, R115
  ⟨0x0070120, 4, 4, 0, 1, [⟨31, 0, .rc, 0⟩]⟩,  -- NUM_QNT_SATd, R115
  ⟨0x0070200, 4, 4, 0, 1, [⟨0, 0, .rw, 1⟩, ⟨4, 1, .rw, 8⟩, ⟨9, 5, .rw, 3⟩, ⟨10, 10, .rw, 1⟩]⟩,  -- NUM_PEEP_CTLd, R141
  ⟨0x0070220, 4, 4, 0, 1, [⟨0, 0, .rw, 1⟩]⟩,  -- NUM_LAD_CTLd, R141
  ⟨0x0070240, 4, 4, 0, 1, [⟨11, 0, .hrw, 0⟩]⟩,  -- NUM_LAY_BASEd, R141
  ⟨0x0070250, 4, 4, 0, 1, [⟨12, 0, .hrw, 0⟩]⟩,  -- NUM_LAY_CNTd, R141
  ⟨0x0070260, 4, 4, 0, 1, [⟨31, 0, .ro, 0⟩]⟩,  -- NUM_LAD_STEPd, R142
  ⟨0x0070300, 0x20, 4, 0, 1, [⟨4, 0, .rw, 6⟩, ⟨9, 5, .rw, 0⟩, ⟨14, 10, .rw, 5⟩, ⟨19, 15, .rw, 0⟩, ⟨24, 20, .rw, 16⟩]⟩,  -- NUM_LAD_THRd_0, R140,R142
  ⟨0x0070304, 0x20, 4, 0, 1, [⟨4, 0, .rw, 6⟩, ⟨9, 5, .rw, 9⟩, ⟨14, 10, .rw, 5⟩, ⟨19, 15, .rw, 8⟩, ⟨24, 20, .rw, 16⟩]⟩,  -- NUM_LAD_THRd_1, R140,R142
  ⟨0x0070308, 0x20, 4, 0, 1, [⟨4, 0, .rw, 6⟩, ⟨9, 5, .rw, 9⟩, ⟨14, 10, .rw, 5⟩, ⟨19, 15, .rw, 8⟩, ⟨24, 20, .rw, 16⟩]⟩,  -- NUM_LAD_THRd_2, R140,R142
  ⟨0x007030C, 0x20, 4, 0, 1, [⟨4, 0, .rw, 6⟩, ⟨9, 5, .rw, 10⟩, ⟨14, 10, .rw, 0⟩, ⟨19, 15, .rw, 8⟩, ⟨24, 20, .rw, 16⟩]⟩,  -- NUM_LAD_THRd_3, R140,R142
  ⟨0x0070310, 0x20, 4, 0, 1, [⟨4, 0, .rw, 6⟩, ⟨9, 5, .rw, 12⟩, ⟨14, 10, .rw, 5⟩, ⟨19, 15, .rw, 11⟩, ⟨24, 20, .rw, 20⟩]⟩,  -- NUM_LAD_THRd_4, R140,R142
  ⟨0x0070314, 0x20, 4, 0, 1, [⟨4, 0, .rw, 0⟩, ⟨9, 5, .rw, 16⟩, ⟨14, 10, .rw, 0⟩, ⟨19, 15, .rw, 15⟩, ⟨24, 20, .rw, 0⟩]⟩,  -- NUM_LAD_THRd_5, R140,R142
  ⟨0x0070400, 8, 4, 0, 1, [⟨31, 0, .hrw, 0⟩]⟩,  -- NUM_RNG_KEYLOd, R151
  ⟨0x0070404, 8, 4, 0, 1, [⟨31, 0, .hrw, 0⟩]⟩,  -- NUM_RNG_KEYHId, R151
  ⟨0x0070500, 4, 4, 0, 1, [⟨3, 0, .rw, 4⟩, ⟨7, 4, .rw, 4⟩]⟩,  -- NUM_UPD_CTLd, R182
  ⟨0x0070F00, 4, 1, 0, 1, [⟨3, 0, .rw, 0⟩]⟩,  -- NUM_PLUMB_CTL, R85
  ⟨0x0080000, 0x20, 4096, 0, 1, [⟨2, 0, .ro, 0⟩, ⟨5, 3, .rw, 0⟩, ⟨8, 6, .rw, 5⟩, ⟨9, 9, .rw, 0⟩, ⟨12, 10, .rw, 0⟩, ⟨13, 13, .rw, 0⟩, ⟨17, 14, .rw, 6⟩, ⟨21, 18, .rw, 8⟩, ⟨24, 22, .ro, 0⟩, ⟨28, 25, .rw, 3⟩]⟩,  -- NUM_LAYn_CFG, R143
  ⟨0x0080004, 0x20, 4096, 0, 1, [⟨31, 0, .rw, 0⟩]⟩,  -- NUM_LAYn_SSTR, R143
  ⟨0x0080008, 0x20, 4096, 0, 1, [⟨31, 0, .rw, 0⟩]⟩,  -- NUM_LAYn_SSTP, R143
  ⟨0x008000C, 0x20, 4096, 0, 1, [⟨0, 0, .rw1c, 0⟩, ⟨1, 1, .rw1c, 0⟩, ⟨2, 2, .rw1c, 0⟩, ⟨3, 3, .rw1c, 0⟩, ⟨4, 4, .rw1c, 0⟩, ⟨6, 5, .ro, 0⟩, ⟨14, 7, .ro, 0⟩, ⟨30, 15, .ro, 0⟩]⟩,  -- NUM_LAYn_STAT, R143
  ⟨0x0080010, 0x20, 4096, 0, 1, [⟨31, 0, .ro, 0⟩]⟩,  -- NUM_LAYn_PEEPS, R143
  ⟨0x0080014, 0x20, 4096, 0, 1, [⟨31, 0, .ro, 0⟩]⟩,  -- NUM_LAYn_RHO, R143
  ⟨0x0080018, 0x20, 4096, 0, 1, [⟨31, 0, .ro, 0⟩]⟩,  -- NUM_LAYn_MSE, R143
  ⟨0x008001C, 0x20, 4096, 0, 1, [⟨31, 0, .ro, 0⟩]⟩,  -- NUM_LAYn_SATR, R143
  ⟨0x00A0000, 0x10, 4096, 0, 1, [⟨15, 0, .rw, 0x3F80⟩, ⟨23, 16, .rw, 0⟩, ⟨24, 24, .rw, 1⟩, ⟨26, 25, .rw, 2⟩, ⟨27, 27, .ro, 0⟩]⟩,  -- NUM_UPDn_CFG, R183
  ⟨0x00A0004, 0x10, 4096, 0, 1, [⟨0, 0, .rw1c, 0⟩, ⟨1, 1, .rw1c, 0⟩, ⟨2, 2, .rw1c, 0⟩, ⟨15, 8, .ro, 0x80⟩]⟩,  -- NUM_UPDn_STAT, R183
  ⟨0x00A0008, 0x10, 4096, 0, 1, [⟨31, 0, .ro, 0⟩]⟩,  -- NUM_UPDn_ELEM, R183
  ⟨0x00A000C, 0x10, 4096, 0, 1, [⟨31, 0, .ro, 0⟩]⟩  -- NUM_UPDn_LOST, R183
]

/-- The MEM block. -/
def regsMEM : List RRow := [
  ⟨0x0100000, 0x1000, 24, 0, 1, [⟨0, 0, .ro, 0⟩, ⟨1, 1, .ro, 0⟩, ⟨9, 2, .ro, 0⟩, ⟨15, 10, .ro, 0⟩, ⟨23, 16, .ro, 0⟩]⟩,  -- MEM_STAT, R296
  ⟨0x0100010, 0x1000, 24, 0, 1, [⟨15, 0, .rc, 0⟩, ⟨31, 16, .rc, 0⟩]⟩,  -- MEM_ECC_CNT, R296
  ⟨0x0100014, 0x1000, 24, 0, 1, [⟨30, 0, .ro, 0⟩, ⟨31, 31, .ro, 0⟩]⟩,  -- MEM_ECC_ADDR, R296
  ⟨0x0100018, 0x1000, 24, 0, 1, [⟨5, 0, .ro, 0⟩, ⟨11, 6, .ro, 0⟩]⟩,  -- MEM_ECC_LOC, R296
  ⟨0x0100020, 0x1000, 24, 0, 1, [⟨0, 0, .rw, 1⟩, ⟨7, 4, .rw, 4⟩]⟩,  -- MEM_SCRUB_CTL, R296
  ⟨0x0100100, 0x1000, 24, 4, 32, [⟨6, 0, .ro, 0x7F⟩, ⟨13, 7, .ro, 0x7F⟩, ⟨20, 14, .ro, 0x7F⟩, ⟨27, 21, .ro, 0x7F⟩]⟩,  -- MEM_CHREPn, R296
  ⟨0x0100200, 0x1000, 24, 4, 8, [⟨4, 0, .ro, 0⟩, ⟨7, 7, .ro, 0⟩, ⟨12, 8, .ro, 0⟩, ⟨15, 15, .ro, 0⟩, ⟨20, 16, .ro, 0⟩, ⟨23, 23, .ro, 0⟩, ⟨28, 24, .ro, 0⟩, ⟨31, 31, .ro, 0⟩]⟩  -- MEM_CAREPk, R296
]

/-- The TRN block. -/
def regsTRN : List RRow := [
  ⟨0x0180000, 4, 4, 0, 1, [⟨4, 0, .hrw, 0⟩]⟩,  -- TRN_PARTd, R303
  ⟨0x0180010, 4, 4, 0, 1, [⟨6, 0, .rw, 0x10⟩, ⟨14, 8, .rw, 8⟩]⟩,  -- TRN_LVRd, R307
  ⟨0x0180020, 4, 4, 0, 1, [⟨6, 0, .hrw, 0⟩, ⟨14, 8, .hrw, 0x40⟩, ⟨15, 15, .hrw, 0⟩]⟩,  -- TRN_HUBd, R307
  ⟨0x0180100, 4, 16, 0, 1, [⟨15, 0, .rc, 0⟩, ⟨31, 16, .rc, 0⟩]⟩  -- TRN_ECCs, R304
]

/-- The PGA block. -/
def regsPGA : List RRow := [
  ⟨0x01C0000, 0x100, 4, 0, 1, [⟨31, 12, .hrw, 0⟩]⟩,  -- PGA_PTBASE_LO, R326
  ⟨0x01C0004, 0x100, 4, 0, 1, [⟨15, 0, .hrw, 0⟩]⟩,  -- PGA_PTBASE_HI, R326
  ⟨0x01C0008, 0x100, 4, 0, 1, [⟨19, 0, .ro, 0⟩]⟩,  -- PGA_FREE, R326
  ⟨0x01C000C, 0x100, 4, 0, 1, [⟨15, 0, .rw, 0x100⟩, ⟨31, 16, .rw, 0x140⟩]⟩,  -- PGA_WM, R326
  ⟨0x01C0010, 0x100, 4, 0, 1, [⟨0, 0, .rw, 1⟩, ⟨11, 4, .rw, 0x10⟩]⟩,  -- PGA_PF_CTL, R326
  ⟨0x01C0014, 0x100, 4, 0, 1, [⟨31, 0, .rc, 0⟩]⟩,  -- PGA_OUTS, R326
  ⟨0x01C0018, 0x100, 4, 0, 1, [⟨31, 0, .rc, 0⟩]⟩,  -- PGA_DINS, R326
  ⟨0x01C001C, 0x100, 4, 0, 1, [⟨31, 0, .rc, 0⟩]⟩,  -- PGA_PINS, R326
  ⟨0x01C0020, 0x100, 4, 0, 1, [⟨0, 0, .rw1c, 0⟩, ⟨1, 1, .rw1c, 0⟩, ⟨2, 2, .rw1c, 0⟩, ⟨3, 3, .rw1c, 0⟩]⟩  -- PGA_STAT, R326
]

/-- The FAB block. -/
def regsFAB : List RRow := [
  ⟨0x0200000, 4, 1, 0, 1, [⟨15, 0, .hrw, 0⟩, ⟨16, 16, .ro, 0⟩]⟩,  -- FAB_PKGID, R363
  ⟨0x0200004, 4, 1, 0, 1, [⟨7, 0, .rw, 8⟩, ⟨31, 16, .rw, 0x3E8⟩]⟩,  -- FAB_TMR, R363
  ⟨0x0200008, 4, 1, 0, 1, [⟨7, 0, .hrw, 0x20⟩, ⟨15, 8, .hrw, 8⟩, ⟨23, 16, .hrw, 0x10⟩, ⟨31, 24, .hrw, 8⟩]⟩,  -- FAB_FLOOR, R363
  ⟨0x0201000, 0x100, 8, 0, 1, [⟨2, 0, .ro, 0⟩, ⟨6, 3, .ro, 0⟩, ⟨23, 8, .ro, 0⟩, ⟨27, 24, .ro, 0⟩]⟩,  -- FAB_PSTATp, R363
  ⟨0x0201004, 0x100, 8, 0, 1, [⟨0, 0, .rw, 1⟩, ⟨1, 1, .wo, 0⟩]⟩,  -- FAB_PCTLp, R363
  ⟨0x0201008, 0x100, 8, 0, 1, [⟨15, 0, .rc, 0⟩, ⟨31, 16, .rc, 0⟩]⟩,  -- FAB_PERRp, R363
  ⟨0x020100C, 0x100, 8, 0, 1, [⟨15, 0, .rc, 0⟩, ⟨31, 16, .rc, 0⟩]⟩,  -- FAB_PDROPp, R363
  ⟨0x0201010, 0x100, 8, 0, 1, [⟨31, 0, .ro, 0⟩]⟩,  -- FAB_PRSEQLp, R363
  ⟨0x0201014, 0x100, 8, 0, 1, [⟨15, 0, .ro, 0⟩]⟩,  -- FAB_PRSEQHp, R363
  ⟨0x0202000, 0x40, 4, 0, 1, [⟨15, 0, .hrw, 0⟩]⟩,  -- FAB_CTAGd, R363
  ⟨0x0202004, 0x40, 4, 0, 1, [⟨11, 0, .hrw, 0⟩, ⟨24, 12, .hrw, 0⟩]⟩,  -- FAB_MEMd, R363
  ⟨0x0202008, 0x40, 4, 0, 1, [⟨11, 0, .hrw, 0⟩, ⟨24, 12, .hrw, 0⟩]⟩,  -- FAB_GRPd, R363
  ⟨0x020200C, 0x40, 4, 0, 1, [⟨15, 0, .hrw, 0⟩, ⟨27, 16, .hrw, 0⟩]⟩,  -- FAB_MASTERd, R363
  ⟨0x0202010, 0x40, 4, 0, 1, [⟨31, 0, .ro, 0⟩]⟩,  -- FAB_EPOCHd, R363
  ⟨0x0202014, 0x40, 4, 0, 1, [⟨2, 0, .wo, 0⟩]⟩,  -- FAB_CMDd, R363
  ⟨0x0202018, 0x40, 4, 0, 1, [⟨1, 0, .ro, 0⟩, ⟨7, 4, .ro, 0⟩, ⟨11, 8, .ro, 0⟩, ⟨27, 16, .ro, 0⟩]⟩,  -- FAB_CSTATd, R363
  ⟨0x0210000, 4, 4096, 0, 1, [⟨15, 0, .hrw, 0⟩, ⟨16, 16, .hrw, 0⟩]⟩,  -- FAB_MEMBERn, R364
  ⟨0x0218000, 8, 4096, 0, 1, [⟨11, 0, .hrw, 0⟩, ⟨23, 12, .hrw, 0⟩, ⟨31, 24, .hrw, 0⟩]⟩,  -- FAB_GROUPn_LO, R364
  ⟨0x0218004, 8, 4096, 0, 1, [⟨3, 0, .hrw, 0⟩, ⟨4, 4, .hrw, 0⟩]⟩,  -- FAB_GROUPn_HI, R364
  ⟨0x0400000, 8, 65536, 0, 1, [⟨3, 0, .hrw, 0⟩, ⟨7, 4, .hrw, 0⟩, ⟨8, 8, .hrw, 0⟩, ⟨9, 9, .hrw, 0⟩, ⟨31, 16, .hrw, 0⟩]⟩,  -- FAB_ROUTEn_LO, R340
  ⟨0x0400004, 8, 65536, 0, 1, []⟩  -- FAB_ROUTEn_HI, R340
]

/-- The TIL block. -/
def regsTIL : List RRow := [
  ⟨0x0800000, 0x1000, 640, 0, 1, [⟨9, 0, .ro, 0⟩, ⟨11, 10, .ro, 0⟩, ⟨13, 12, .ro, 1⟩, ⟨28, 16, .ro, 0x1FFF⟩]⟩,  -- TIL_ID, R209
  ⟨0x0800004, 0x1000, 640, 0, 1, [⟨0, 0, .rw1c, 0⟩, ⟨1, 1, .rw1c, 0⟩, ⟨2, 2, .rw1c, 0⟩]⟩,  -- TIL_ASTAT, R209
  ⟨0x0800008, 0x1000, 640, 0, 1, [⟨31, 0, .ro, 0⟩]⟩,  -- TIL_FIRSTPOS, R209
  ⟨0x0800010, 0x1000, 640, 0, 1, [⟨3, 0, .hrw, 4⟩]⟩,  -- TIL_CHK_CTL, R209
  ⟨0x0800014, 0x1000, 640, 0, 1, [⟨15, 0, .rc, 0⟩, ⟨31, 16, .rc, 0⟩]⟩,  -- TIL_CHK_CNT, R209
  ⟨0x0800018, 0x1000, 640, 0, 1, [⟨31, 0, .rc, 0⟩]⟩,  -- TIL_CHK_SKIP, R209
  ⟨0x080001C, 0x1000, 640, 0, 1, [⟨7, 0, .ro, 0⟩, ⟨15, 8, .ro, 0⟩, ⟨23, 16, .ro, 0⟩, ⟨31, 24, .ro, 0⟩]⟩,  -- TIL_CHK_ARR, R209
  ⟨0x0800020, 0x1000, 640, 0, 1, [⟨0, 0, .rw, 1⟩, ⟨11, 4, .rw, 0x40⟩, ⟨15, 12, .rw, 2⟩]⟩,  -- TIL_PWR_CTL, R209
  ⟨0x0800030, 0x1000, 640, 0, 1, [⟨15, 0, .rc, 0⟩, ⟨31, 16, .rc, 0⟩]⟩,  -- TIL_PANE_ECC, R209
  ⟨0x0800034, 0x1000, 640, 0, 1, [⟨18, 0, .ro, 0⟩, ⟨31, 31, .ro, 0⟩]⟩,  -- TIL_PANE_ADDR, R209
  ⟨0x0800038, 0x1000, 640, 0, 1, [⟨0, 0, .rw, 1⟩, ⟨7, 4, .rw, 6⟩]⟩,  -- TIL_SCRUB_CTL, R209
  ⟨0x0800040, 0x1000, 640, 0, 1, [⟨15, 0, .rc, 0⟩, ⟨31, 16, .rc, 0⟩]⟩  -- TIL_TWIN_CNT, R209
]

/-- The MGT block. -/
def regsMGT : List RRow := [
  ⟨0x1000000, 4, 1, 0, 1, [⟨11, 0, .hrw, 0xE10⟩, ⟨23, 12, .hrw, 0x960⟩]⟩,  -- MGT_PWR_CAP, R487
  ⟨0x1000004, 4, 1, 0, 1, [⟨11, 0, .ro, 0⟩, ⟨12, 12, .ro, 0⟩, ⟨13, 13, .ro, 0⟩, ⟨14, 14, .ro, 0⟩, ⟨15, 15, .ro, 0⟩]⟩,  -- MGT_PWR_STAT, R487
  ⟨0x1000008, 4, 1, 0, 1, [⟨7, 0, .hrw, 0x69⟩, ⟨15, 8, .hrw, 0x64⟩, ⟨16, 16, .ro, 0⟩]⟩,  -- MGT_THERM, R487
  ⟨0x1000010, 4, 1, 0, 1, [⟨9, 0, .hrw, 0x28A⟩, ⟨19, 10, .hrw, 0x384⟩]⟩,  -- MGT_VLIM, R487
  ⟨0x1000014, 4, 1, 0, 1, [⟨0, 0, .ro, 0⟩, ⟨1, 1, .ro, 0⟩, ⟨2, 2, .ro, 0⟩, ⟨3, 3, .ro, 0⟩, ⟨4, 4, .ro, 0⟩, ⟨5, 5, .ro, 0⟩, ⟨6, 6, .ro, 0⟩]⟩,  -- MGT_PIN_STAT, R487
  ⟨0x1000018, 4, 1, 0, 1, [⟨15, 0, .rc, 0⟩, ⟨31, 16, .rc, 0⟩]⟩,  -- MGT_MREQ, R487
  ⟨0x1000100, 4, 4, 0, 1, [⟨11, 0, .ro, 0⟩, ⟨21, 12, .ro, 0⟩, ⟨29, 22, .ro, 0⟩]⟩  -- MGT_DIEd, R487
]

/-- The MSIX block. -/
def regsMSIX : List RRow := [
  ⟨0x3FF0000, 0x10, 128, 0, 1, [⟨31, 2, .rw, 0⟩]⟩,  -- MSIX_ADDRL, R418
  ⟨0x3FF0004, 0x10, 128, 0, 1, [⟨31, 0, .rw, 0⟩]⟩,  -- MSIX_ADDRH, R418
  ⟨0x3FF0008, 0x10, 128, 0, 1, [⟨31, 0, .rw, 0⟩]⟩,  -- MSIX_DATA, R418
  ⟨0x3FF000C, 0x10, 128, 0, 1, [⟨0, 0, .rw, 1⟩]⟩,  -- MSIX_VCTL, R418
  ⟨0x3FF8000, 4, 4, 0, 1, [⟨31, 0, .ro, 0⟩]⟩  -- MSIX_PBA, R418
]

/-- Every register of BAR0, block by block (R397). -/
def regTable : List RRow :=
  regsIDN ++ regsRST ++ regsLCB ++ regsFWU ++ regsITK ++ regsEVT ++ regsINT ++ regsNUM ++ regsMEM ++ regsTRN ++ regsPGA ++ regsFAB ++ regsTIL ++ regsMGT ++ regsMSIX

end Sys2Proof.Machine
end

