-- ==== Sys2Proof/Machine/Ops.lean ====
section
/-! DEFINITION. The named operations on registers, arbiters and the records of the state. Every later file reads and
writes the state through them. -/

namespace Sys2Proof.Machine

/-! ### Registers (R7 to R13) -/

/-- The row of the table that holds offset o, if any. -/
def RRow.holds (r : RRow) (o : Nat) : Bool :=
  decide (r.base ≤ o) &&
  (let x := o - r.base
   let i := x / r.st1
   let y := x % r.st1
   decide (i < r.n1) && (if r.n2 ≤ 1 then y == 0 else y % r.st2 == 0 && decide (y / r.st2 < r.n2)))

/-- The register table's row of an offset. -/
def rowAt (o : Nat) : Option RRow := regTable.find? (fun r => r.holds o)

/-- The bits of the fields of a row that satisfy p. -/
def RRow.mask (r : RRow) (p : RTy → Bool) : Nat :=
  r.fields.foldl (fun m f => if p f.ty then m + (2 ^ (f.hi + 1 - f.lo) - 1) * 2 ^ f.lo else m) 0

/-- The reset value of a row's fields. -/
def RRow.rst (r : RRow) : Nat := r.fields.foldl (fun m f => m + f.rst * 2 ^ f.lo) 0

/-- The die that holds tile position p (R16). -/
def dieOfTile (p : Nat) : Nat := 2 * (p / 32 / 10) + (p % 32) / 16

/-- The reset value of the register at a key (R13): the table's, and the position and die of TIL_ID (R208). -/
def regReset (k : Nat) : Word :=
  let o := k % 2 ^ 26
  match rowAt o with
  | none => 0
  | some r =>
    let p := (o - 0x0800000) / 0x1000
    BitVec.ofNat 32 (r.rst + (if r.base = 0x0800000 then p + dieOfTile p * 2 ^ 10 else 0))

/-- The value of the register with the given key. -/
def State.reg (s : State) (k : Nat) : Word := Assoc.get s.regs k (regReset k)

/-- Set a register. -/
def State.setReg (s : State) (k : Nat) (v : Word) : State := { s with regs := Assoc.put s.regs k v (regReset k) }

/-- Bits [hi:lo] of a register. -/
def State.rf (s : State) (k hi lo : Nat) : Nat := rfld (s.reg k) hi lo

/-- Set bits [hi:lo] of a register. -/
def State.setRf (s : State) (k hi lo v : Nat) : State := s.setReg k (rset (s.reg k) hi lo v)

/-- Add n to a counter field that stops at its maximum. -/
def State.count (s : State) (k hi lo n : Nat) : State := s.setRf k hi lo (satAdd (hi + 1 - lo) (s.rf k hi lo) n)

/-- Set one bit of a register (a hardware set of an RW1C bit, R9). -/
def State.raise (s : State) (k n : Nat) : State := s.setRf k n n 1

/-- Registers in [a, a + n) back to their reset values. -/
def State.resetRegs (s : State) (a n : Nat) : State :=
  { s with regs := Assoc.clear s.regs a n, staged := Assoc.clear s.staged a n }

/-- The bits of a register that software writes (RW and HRW). -/
def rwMask (k : Nat) : Nat :=
  match rowAt (k % 2 ^ 26) with
  | some r => r.mask (fun t => t == .rw || t == .hrw)
  | none => 0

/-- x with the bits of mask m taken from v. -/
def mergeBits (x v m : Nat) : Nat := (x - (x &&& m)) + (v &&& m)

/-- A register with the write that waits for a commit, if there is one (R139, R152, R184). -/
def State.merged (s : State) (k : Nat) : Word :=
  match Assoc.get s.staged k none with
  | some v => BitVec.ofNat 32 (mergeBits (s.reg k).toNat v.toNat (rwMask k))
  | none => s.reg k

/-- NUM_UPDn_CFG (R183). -/
def isUpdCfg (k : Nat) : Bool := decide (0x00A0000 ≤ k ∧ k < 0x00B0000) && k % 0x10 == 0

/-- The value a read of a register whose writes wait for a commit returns: the one last written (R152; log 26), but GSX as it is
in force (R183). -/
def State.shown (s : State) (k : Nat) : Word :=
  if isUpdCfg k then rset (s.merged k) 23 16 (s.rf k 23 16) else s.merged k

/-- A commit brings a staged write into force. -/
def State.unstage (s : State) (k : Nat) : State :=
  match Assoc.get s.staged k none with
  | some _ => { s.setReg k (s.merged k) with staged := Assoc.put s.staged k none none }
  | none => s

/-- Hold a write until the next commit. -/
def State.stage (s : State) (k : Nat) (v : Word) : State := { s with staged := Assoc.put s.staged k (some v) none }

/-! ### Arbiters (R27) -/

/-- The arbiters that number their grants: 0 the event arbiter, 1 the acceptance arbiter, 2 + n the register arbiter of block
n of R397, 32 + d the placement arbiter of Dispatcher d, 40 + p the reduction arbiter of port p. -/
def arbEvent : Nat := 0
def arbAccept : Nat := 1
def arbPlace (d : Nat) : Nat := 32 + d
def arbPort (p : Nat) : Nat := 40 + p

/-- The block of R397 that holds an offset, numbered in the map's order (IDN 0 to MGT 13; 14 the MSI-X tables). -/
def blockOf (o : Nat) : Nat :=
  let o := o % 2 ^ 26
  if o < 0x10000 then 0 else if o < 0x20000 then 1 else if o < 0x30000 then 2 else if o < 0x40000 then 3
  else if o < 0x50000 then 4 else if o < 0x60000 then 5 else if o < 0x70000 then 6 else if o < 0xB0000 then 7
  else if o < 0x180000 then 8 else if o < 0x1C0000 then 9 else if o < 0x200000 then 10
  else if o < 0x800000 then 11 else if o < 0x1000000 then 12 else if o < 0x3FF0000 then 13 else 14

def arbReg (o : Nat) : Nat := 2 + blockOf o

/-- The number of an arbiter's next grant. -/
def State.arbN (s : State) (a : Nat) : Nat := Assoc.get s.arb a 0

/-- The number of an arbiter's last grant. -/
def State.arbLast (s : State) (a : Nat) : Nat := (s.arbN a + (2 ^ 48 - 1)) % 2 ^ 48

/-- One grant of an arbiter: its number rises by one, modulo 2^48 (R27). -/
def State.grant (s : State) (a : Nat) : State :=
  { s with arb := Assoc.put s.arb a ((s.arbN a + 1) % 2 ^ 48) 0 }

/-! ### Records -/

def State.casement (s : State) (d : Nat) : Cas := Assoc.get s.cas d Cas.reset
def State.setCas (s : State) (d : Nat) (c : Cas) : State := { s with cas := Assoc.put s.cas d c Cas.reset }
def ltKey (d t : Nat) : Nat := d * 4096 + t
def State.lt (s : State) (d t : Nat) : LTile := Assoc.get s.lts (ltKey d t) LTile.reset
def State.setLt (s : State) (d t : Nat) (x : LTile) : State :=
  { s with lts := Assoc.put s.lts (ltKey d t) x LTile.reset }
def State.tile (s : State) (p : Nat) : PTile := Assoc.get s.tiles p PTile.reset
def State.setTile (s : State) (p : Nat) (x : PTile) : State := { s with tiles := Assoc.put s.tiles p x PTile.reset }
def State.fn (s : State) (f : Nat) : FnSt := Assoc.get s.fns f FnSt.reset
def State.setFn (s : State) (f : Nat) (x : FnSt) : State := { s with fns := Assoc.put s.fns f x FnSt.reset }
def State.port (s : State) (p : Nat) : Port := Assoc.get s.ports p Port.reset
def State.setPort (s : State) (p : Nat) (x : Port) : State := { s with ports := Assoc.put s.ports p x Port.reset }
def State.fab (s : State) (d : Nat) : Fab := Assoc.get s.fabs d Fab.reset
def State.setFab (s : State) (d : Nat) (x : Fab) : State := { s with fabs := Assoc.put s.fabs d x Fab.reset }
def State.lay (s : State) (n : Nat) : Lay := Assoc.get s.lays n Lay.reset
def State.setLay (s : State) (n : Nat) (x : Lay) : State := { s with lays := Assoc.put s.lays n x Lay.reset }
def State.emit (s : State) (o : Out) : State := { s with out := s.out ++ [o] }
/-- Take the next free value's number (the values themselves are Config's). -/
def State.draw (s : State) : State := { s with free := s.free + 1 }

/-- Arrival counter n (R220). -/
def LTile.acnt (x : LTile) (n : Nat) : Nat := (Assoc.get x.ac n 0).toNat
def LTile.setAc (x : LTile) (n v : Nat) : LTile := { x with ac := Assoc.put x.ac n (BitVec.ofNat 32 v) 0 }

/-- The dies of a mask in ascending order. -/
def diesOf (mask : Nat) : List Nat := (List.range 4).filter (fun d => bit mask d)

/-- The lowest die of the casement that holds die x, if any. -/
def State.casOfDie (s : State) (x : Nat) : Option Nat :=
  (List.range 4).find? (fun d => (s.casement d).exist && bit (s.casement d).mask x)

/-- The lowest die of the casement whose tag is g, if any. -/
def State.casOfTag (s : State) (g : Nat) : Option Nat :=
  (List.range 4).find? (fun d => (s.casement d).exist && (s.casement d).tag == g)

/-- The casements a function owns, by lowest die. -/
def State.casesOf (s : State) (f : Nat) : List Nat :=
  (List.range 4).filter (fun d => (s.casement d).exist && (s.casement d).owner == f)

/-! ### TIL register offsets (R16, R208) -/

def rTil (p o : Nat) : Nat := 0x0800000 + p * 0x1000 + o
/-- STATE of TIL_ID (R209). -/
def State.tilState (s : State) (p : Nat) : Nat := s.rf (rTil p 0) 13 12
def State.setTilState (s : State) (p v : Nat) : State := s.setRf (rTil p 0) 13 12 v

end Sys2Proof.Machine
end

