-- ==== Sys2Proof/Machine/Flash.lean ====
section
/-! DEFINITION. The board's SPI NOR flash (R451, R452) and the control journal that lies in it (R455). -/

namespace Sys2Proof.Machine

/-! ### Flash (R451): an erased byte is 0xFF -/

def State.flashRead (s : State) (a n : Nat) : List Nat := (Assoc.slice s.flash a n 0xFF).map BitVec.toNat
def State.flashWrite (s : State) (a : Nat) (bs : List Nat) : State :=
  { s with flash := Assoc.splice s.flash a (bs.map (BitVec.ofNat 8)) 0xFF }
def State.flashErase (s : State) (a n : Nat) : State := { s with flash := Assoc.clear s.flash a n }

/-- The regions of R451: option words, journals A and B, identity certificate, banks. -/
def optBase : Nat := 0x00000000
def jrnA : Nat := 0x00030000
def jrnB : Nat := 0x00040000
def certBase : Nat := 0x00050000
def sectorSize : Nat := 0x00010000
def bankActive : Nat := 0x00100000
def bankSill : Nat := 0x00900000
def bankGolden : Nat := 0x01100000
def bankSize : Nat := 0x00800000

/-- Field [o, o + n) of a byte list as a number. -/
def leAt (b : List Nat) (o n : Nat) : Nat := leNat ((b.drop o).take n)

def ascii (x : String) : List Nat := x.toList.map Char.toNat

/-- R452: bytes programmed from outside (the board, the keyhole); those of the golden bank only in the Raw, Provisioned and
Diagnostic states. -/
def State.flashBoard (s : State) (a : Nat) (bs : List Nat) : State :=
  if s.fuses.lcs = 0 ∨ s.fuses.lcs = 1 ∨ s.fuses.lcs = 3 then s.flashWrite a bs
  else
    let gold := s.flashRead bankGolden bankSize
    if a + bs.length ≤ bankGolden ∨ bankGolden + bankSize ≤ a then s.flashWrite a bs else (s.flashWrite a bs).flashWrite bankGolden gold

/-! ### The control journal (R455) -/

/-- An entry's 64 bytes; R455 gives the fields and their order, the model their offsets (DESIGN CHOICE, log 60). -/
def Jrn.bytes (j : Jrn) : List Nat :=
  let b := ascii "DZJ1" ++ leBytes 4 j.seq ++ [j.st, b2n j.db, 0, 0] ++ leBytes 4 j.svn ++ leBytes 4 j.ver ++ leBytes 4 j.len ++
    (List.range 16).map (fun i => j.dig.getD i 0) ++ leBytes 4 j.ctag ++ leBytes 4 j.epoch ++ List.replicate 12 0
  b ++ leBytes 4 (crc32c b)

/-- The entry at an address, if its MAGIC and its CRC are good. -/
def State.jrnAt (s : State) (a : Nat) : Option Jrn :=
  let b := s.flashRead a 64
  if b.take 4 == ascii "DZJ1" && leAt b 60 4 == crc32c (b.take 60) then
    some ⟨leAt b 4 4, leAt b 8 1, leAt b 9 1 == 1, leAt b 12 4, leAt b 16 4, leAt b 20 4, (b.drop 24).take 16, leAt b 40 4, leAt b 44 4⟩
  else none

/-- The places of the journals that have been programmed, each the address of an entry. -/
def State.jrnPlaces (s : State) : List Nat :=
  (((s.flash.filter (fun c => decide (jrnA ≤ c.1 ∧ c.1 < jrnB + sectorSize))).map (fun c => c.1 / 64 * 64))).eraseDups

/-- The entry in force and its address: the highest SEQ whose CRC matches. -/
def State.jrnForce (s : State) : Option (Nat × Jrn) :=
  s.jrnPlaces.foldl (fun best a =>
    match s.jrnAt a, best with
    | some j, some (_, i) => if i.seq < j.seq then some (a, j) else best
    | some j, none => some (a, j)
    | none, _ => best) none

/-- R459: the entry in force is read at step 3; with none, the update state is EMPTY. -/
def State.jrnLoad (s : State) : State := { s with jrn := (s.jrnForce.map (·.2)).getD Jrn.reset }

/-- Places used of the journal at base. -/
def State.jrnUsed (s : State) (base : Nat) : Nat :=
  (s.jrnPlaces.filter (fun a => decide (base ≤ a ∧ a < base + sectorSize))).foldl (fun m a => max m ((a - base) / 64 + 1)) 0

/-- R455: an entry is appended to the journal that does not hold the entry in force; one that has filled is erased first, the entry in
force standing in the other. -/
def State.jrnAppend (s : State) (j : Jrn) : State :=
  let base := match s.jrnForce with
    | some (a, _) => if a < jrnB then jrnB else jrnA
    | none => jrnA
  if s.jrnUsed base < 1024 then s.flashWrite (base + 64 * s.jrnUsed base) j.bytes
  else (s.flashErase base sectorSize).flashWrite base j.bytes

/-- A new entry, which is the one in force; FWU_STAT shows its STATE and DB. -/
def State.journal (s : State) (j : Jrn) : State :=
  let j1 := { j with seq := s.jrn.seq + 1 }
  let s1 := { s.jrnAppend j1 with jrn := j1 }
  (s1.setRf 0x0030004 13 11 j.st).setRf 0x0030004 10 10 (b2n j.db)

end Sys2Proof.Machine
end

