-- ==== Sys2Proof/Machine/Frames.lean ====
section
/-! DEFINITION. The Bronak frame as it stands on the link (R331): a header of 28 bytes, payload chunks of 32 bytes, a CRC-32C over
both. -/

namespace Sys2Proof.Machine

/-- The message class of a frame type (R331). -/
def frameCls (b : FBody) : Nat :=
  match b with
  | .grant _ _ | .ack _ _ | .err _ _ => 0
  | .idle | .hello _ _ | .token _ | .hold _ => 1
  | .piece _ _ _ _ | .digest _ _ | .deliver _ _ _ _ => 2
  | .preq _ _ _ _ _ _ _ _ _ => 3
  | .other _ _ => 0

/-- TYPE. -/
def frameType (b : FBody) : Nat :=
  match b with
  | .idle => 0x01
  | .hello _ _ => 0x02
  | .grant _ _ => 0x10
  | .ack _ _ => 0x11
  | .err _ _ => 0x12
  | .token _ => 0x20
  | .hold _ => 0x21
  | .piece _ _ _ _ => 0x30
  | .digest _ _ => 0x31
  | .deliver _ _ _ _ => 0x32
  | .preq _ _ _ _ _ _ _ _ _ => 0x40
  | .other t _ => t

/-- TSF, from its bit 152 of the header on; unused bits are 0. -/
def frameTsf (b : FBody) : Nat :=
  match b with
  | .idle | .hello _ _ | .other _ _ => 0
  | .grant r h => r % 2 ^ 16 + h % 2 ^ 16 * 2 ^ 16
  | .ack h nak => h % 2 ^ 16 + (if nak then 2 ^ 16 else 0)
  | .err r c => r % 2 ^ 16 + c % 2 ^ 8 * 2 ^ 16
  | .token e => e % 2 ^ 32
  | .hold c => c % 2 ^ 4
  | .piece h off last _ | .deliver h off last _ => h % 2 ^ 16 + off % 2 ^ 11 * 2 ^ 16 + (if last then 2 ^ 27 else 0)
  | .digest h _ => h % 2 ^ 16
  | .preq r _ _ _ _ _ _ _ _ => r % 2 ^ 16

/-- The payload chunks, as 32-byte numbers. A PREQ's two: GROUP, group index, SHARD, piece, E, tile, return handle in the first,
the delivery descriptor in the second (R354 names them; their places are the model's, log 70). -/
def framePay (b : FBody) : List Nat :=
  match b with
  | .hello id port => [id % 2 ^ 16 + port % 16 * 2 ^ 16]
  | .piece _ _ _ cs | .deliver _ _ _ cs => cs
  | .digest _ crc => [crc % 2 ^ 64]
  | .preq _ g gi sh pc e tile ret desc =>
    [g % 2 ^ 16 + gi % 2 ^ 16 * 2 ^ 16 + sh % 2 ^ 32 * 2 ^ 32 + pc % 2 ^ 32 * 2 ^ 64 + e % 2 ^ 64 * 2 ^ 96 + tile % 2 ^ 16 * 2 ^ 160
      + ret % 2 ^ 16 * 2 ^ 176, desc % 2 ^ 256]
  | .other _ cs => cs
  | _ => []

/-- The chunks a frame's payload takes (NCH). -/
def frameChunks (b : FBody) : Nat := (framePay b).length

/-- The 28 bytes of the header. -/
def frameHdr (f : Frame) : List Nat :=
  let n := fun (b : Bool) (k : Nat) => if b then 2 ^ k else 0
  leBytes 28 (frameType f.body % 2 ^ 8 + f.cls % 4 * 2 ^ 8 + n f.esc 10 + n f.downed 11 + n f.nak 12 + frameChunks f.body % 2 ^ 5 * 2 ^ 13 +
    f.dest % 2 ^ 16 * 2 ^ 32 + f.src % 2 ^ 16 * 2 ^ 48 + f.ctag % 2 ^ 16 * 2 ^ 64 + f.psn % 2 ^ 16 * 2 ^ 80 + f.lseq % 2 ^ 12 * 2 ^ 96 +
    f.lack % 2 ^ 12 * 2 ^ 108 + leNat (f.cret.take 4) * 2 ^ 120 + frameTsf f.body * 2 ^ 152)

/-- A frame's bytes with their CRC-32C. -/
def wireBytes (f : Frame) : List Nat :=
  let b := frameHdr f ++ (framePay f.body).flatMap (leBytes 32)
  b ++ leBytes 4 (crc32c b)

/-- The body of a frame of a TYPE with its TSF and its payload chunks; a TYPE that is not assigned, or a payload of another length
than the TYPE's, is no frame of a known kind (R331; log 70). -/
def frameBody (type tsf : Nat) (cs : List Nat) : FBody :=
  match type, cs with
  | 0x01, [] => .idle
  | 0x02, [c] => .hello (fld c 15 0) (fld c 19 16)
  | 0x10, [] => .grant (fld tsf 15 0) (fld tsf 31 16)
  | 0x11, [] => .ack (fld tsf 15 0) (bit tsf 16)
  | 0x12, [] => .err (fld tsf 15 0) (fld tsf 23 16)
  | 0x20, [] => .token (fld tsf 31 0)
  | 0x21, [] => .hold (fld tsf 3 0)
  | 0x30, c :: r => .piece (fld tsf 15 0) (fld tsf 26 16) (bit tsf 27) (c :: r)
  | 0x31, [c] => .digest (fld tsf 15 0) (fld c 63 0)
  | 0x32, c :: r => .deliver (fld tsf 15 0) (fld tsf 26 16) (bit tsf 27) (c :: r)
  | 0x40, [c, x] => .preq (fld tsf 15 0) (fld c 15 0) (fld c 31 16) (fld c 63 32) (fld c 95 64) (fld c 159 96) (fld c 175 160) (fld c 191 176) x
  | t, cs => .other t cs

/-- A frame read from its bytes, and whether its CRC and its length are right (R329, R331). -/
def readFrame (b : List Nat) : Frame × Bool :=
  let h := leNat (b.take 28)
  let n := fld h 17 13
  let cs := (List.range n).map (fun i => leNat ((b.drop (28 + 32 * i)).take 32))
  (⟨frameBody (fld h 7 0) (fld h 223 152) cs, fld h 9 8, bit h 10, bit h 11, bit h 12, fld h 47 32, fld h 63 48, fld h 79 64, fld h 95 80,
    fld h 107 96, fld h 119 108, leBytes 4 (fld h 151 120)⟩,
   b.length == 32 + 32 * n && leNat (b.drop (b.length - 4)) == crc32c (b.take (b.length - 4)))

end Sys2Proof.Machine
end

