-- ==== Sys2Proof/Machine/Events.lean ====
section
/-! DEFINITION. What the package writes to host memory of its own accord: rings, MSI-X, event records (14_host_interface.md
R413 to R419, R493), and the firing of an armed injection (R370). -/

namespace Sys2Proof.Machine

/-! ### Host memory -/

/-- Write bytes to host memory at a bus address. -/
def State.hostWrite (s : State) (f a : Nat) (bs : List Nat) : State :=
  { s with host := { s.host with cells := Assoc.splice s.host.cells a (bs.map (BitVec.ofNat 8)) 0 } }.emit (.host f true a bs.length)

/-- R394: a read request of n bytes of host memory, on behalf of function f. -/
def State.hostAsk (s : State) (f a n : Nat) : State := s.emit (.host f false a n)

/-- R393: AER's status of function f takes a bit (PRESUMED, log 7: PCIe's bit numbers). -/
def State.aerSet (s : State) (f k : Nat) : State := s.setFn f { s.fn f with aer := (s.fn f).aer ||| 2 ^ k }
/-- Poisoned TLP received, completion timeout, Unsupported Request. -/
def aerPoison : Nat := 12
def aerTimeout : Nat := 14
def aerUr : Nat := 20

/-- A request of function f completes with Unsupported Request. -/
def State.refuseTlp (s : State) (f : Nat) : State := (s.emit (.unsupported f)).aerSet f aerUr

/-- Read n bytes of host memory. -/
def State.hostRead (s : State) (a n : Nat) : List Nat :=
  (Assoc.slice s.host.cells a n 0).map BitVec.toNat

/-- How the host answers a read of [a, a + n): 0 with data, 1 with an error completion or not at all, 2 with a poisoned
TLP (R489). -/
def State.hostAnswer (s : State) (a n : Nat) : Nat :=
  let hit := fun k => s.hbad.any (fun r => r.2.2 == k && overlap a n r.1 r.2.1)
  if hit 1 then 1 else if hit 2 then 2 else 0

/-! ### Rings (R415, R419) -/

/-- The window of function f's ring registers: the completion ring's or the event ring's. -/
def ringWin (f : Nat) (evt : Bool) : Nat := (if evt then 0x50000 else 0x40000) + 0x100 * f

def State.ringBase (s : State) (f : Nat) (evt : Bool) : Nat :=
  (s.reg (ringWin f evt + 0x10)).toNat + (s.reg (ringWin f evt + 0x14)).toNat * 2 ^ 32
def State.ringSize (s : State) (f : Nat) (evt : Bool) : Nat := 64 * 2 ^ min (s.rf (ringWin f evt + 0x18) 3 0) 10
def State.ringEn (s : State) (f : Nat) (evt : Bool) : Bool := s.rf (ringWin f evt + 0x18) 4 4 == 1
def State.ringVec (s : State) (f : Nat) (evt : Bool) : Nat := s.rf (ringWin f evt + 0x18) 14 8
def State.ringHead (s : State) (f : Nat) (evt : Bool) : Nat := s.rf (ringWin f evt + 0x1C) 15 0
def State.ringArmed (s : State) (f : Nat) (evt : Bool) : Bool := s.rf (ringWin f evt + 0x1C) 16 16 == 1
def State.ringTail (s : State) (f : Nat) (evt : Bool) : Nat := s.rf (ringWin f evt + 0x20) 15 0

/-- R415: full when (TAIL + 1) mod size equals HEAD. -/
def State.ringFull (s : State) (f : Nat) (evt : Bool) : Bool :=
  (s.ringTail f evt + 1) % s.ringSize f evt == s.ringHead f evt

/-- A record can be written (R415). -/
def State.ringReady (s : State) (f : Nat) (evt : Bool) : Bool := s.ringEn f evt && !s.ringFull f evt

def State.ringPhase (s : State) (f : Nat) (evt : Bool) : Bool := if evt then (s.fn f).evPhase else (s.fn f).cqPhase
def State.setRingPhase (s : State) (f : Nat) (evt b : Bool) : State :=
  s.setFn f (if evt then { s.fn f with evPhase := b } else { s.fn f with cqPhase := b })

/-! ### MSI-X (R418) -/

/-- The offset of entry v of a function's MSI-X table, as a register key (the tables are the function's own). -/
def msixKey (f v : Nat) : Nat := f * 2 ^ 26 + 0x3FF0000 + 16 * v
def pbaKey (f v : Nat) : Nat := f * 2 ^ 26 + 0x3FF8000 + 4 * (v / 32)

/-- Send vector v of function f, or set its pending bit when it is masked. -/
def State.sendVec (s : State) (f v : Nat) : State :=
  if s.rf (msixKey f v + 12) 0 0 = 1 then s.raise (pbaKey f v) (v % 32)
  else s.emit (.msix f ((s.reg (msixKey f v)).toNat + (s.reg (msixKey f v + 4)).toNat * 2 ^ 32)
    (s.reg (msixKey f v + 8)).toNat)

/-- R418: an armed ring with an unread record sends its vector once and clears ARM. -/
def State.ringSignal (s : State) (f : Nat) (evt : Bool) : State :=
  if s.ringArmed f evt && s.ringHead f evt != s.ringTail f evt then
    (s.setRf (ringWin f evt + 0x1C) 16 16 0).sendVec f (s.ringVec f evt)
  else s

/-- Write one record at TAIL, then advance TAIL, inverting PHASE after each pass (R413, R415). -/
def State.ringWrite (s : State) (f : Nat) (evt : Bool) (bs : List Nat) : State :=
  let tail := s.ringTail f evt
  let s1 := s.hostWrite f (s.ringBase f evt + tail * bs.length) bs
  let next := (tail + 1) % s.ringSize f evt
  let s2 := s1.setRf (ringWin f evt + 0x20) 15 0 next
  let s3 := if next = 0 then s2.setRingPhase f evt (!(s.ringPhase f evt)) else s2
  s3.ringSignal f evt

/-! ### Events (R416, R417, R493) -/

/-- An event before the event arbiter grants it. -/
structure Ev where
  kind : Nat
  det : Nat := 0
  unit : Nat := 0
  ctag : Nat := 0
  inj : Bool := false
  arbseq : Nat := 0
  info : Nat := 0
  frec : Nat := 0
  deriving DecidableEq, Repr

/-- R416: the 512 bits of an event record. -/
def Ev.bits (e : Ev) (eseq : Nat) (phase lostf : Bool) : Nat :=
  eseq + e.kind * 2 ^ 48 + e.det * 2 ^ 56 + e.unit % 2 ^ 16 * 2 ^ 64 + e.ctag % 2 ^ 16 * 2 ^ 80 + b2n e.inj * 2 ^ 96
    + b2n phase * 2 ^ 97 + b2n lostf * 2 ^ 98 + e.arbseq * 2 ^ 128 + e.info % 2 ^ 80 * 2 ^ 176 + e.frec * 2 ^ 256

/-- Write an event to one function's ring, or drop it and count it in LOST (R417). -/
def State.ringEvent (s : State) (f : Nat) (e : Ev) (eseq : Nat) : State :=
  if s.ringReady f true then
    let s1 := s.ringWrite f true (leBytes 64 (e.bits eseq (s.ringPhase f true) (s.fn f).lostf))
    s1.setFn f { s1.fn f with lostf := false }
  else
    let s1 := s.count (ringWin f true + 0x24) 31 0 1
    s1.setFn f { s1.fn f with lostf := true }

/-- The owner of the casement an event names, if any. -/
def State.evOwner (s : State) (e : Ev) : Option Nat :=
  if e.ctag = 0 then none else (s.casOfTag e.ctag).map (fun d => (s.casement d).owner)

/-- R417: raise an event: the event arbiter's number, the owner's ring and the PF's. -/
def State.post (s : State) (e : Ev) : State :=
  let eseq := s.arbN arbEvent
  let s1 := s.grant arbEvent
  let s2 := match s.evOwner e with
    | some f => if f = 0 then s1 else s1.ringEvent f e eseq
    | none => s1
  s2.ringEvent 0 e eseq

/-- Raise an event that a grant of arbiter a raised: ARBSEQ is that grant's number (R27). -/
def State.postArb (s : State) (a : Nat) (e : Ev) : State := (s.grant a).post { e with arbseq := s.arbN a }

/-- The tag of casement d. -/
def State.tagOf (s : State) (d : Nat) : Nat := (s.casement d).tag

/-- The tag of the casement that holds die x, or 0. -/
def State.dieTag (s : State) (x : Nat) : Nat :=
  match s.casOfDie x with
  | some d => s.tagOf d
  | none => 0

/-! ### Injection (R370, R371) -/

/-- True when an injection for this detector and unit is armed and the life cycle is not Retired. -/
def State.injArmed (s : State) (det unit : Nat) : Bool :=
  s.rf 0x006010C 0 0 == 1 && s.rf 0x0060100 7 0 == det &&
  (det == 0x0C || s.rf 0x0060104 15 0 == unit) && s.rf 0x0020000 2 0 != 4

/-- The PAT of the armed injection. -/
def State.injPat (s : State) : Nat := (s.reg 0x0060108).toNat
def State.injPersist (s : State) : Bool := s.rf 0x0060100 9 9 == 1

/-- R370: the injection fires: FIRED is set, ARMED and ARM are cleared. -/
def State.injFire (s : State) : State :=
  ((s.setRf 0x006010C 0 0 0).raise 0x006010C 1).setRf 0x0060100 8 8 0

/-- R370: a reset of the target block before the injection fires sets DROPPED and clears ARMED. -/
def State.injDrop (s : State) : State :=
  if s.rf 0x006010C 0 0 = 1 then ((s.setRf 0x006010C 0 0 0).raise 0x006010C 2).setRf 0x0060100 8 8 0 else s

end Sys2Proof.Machine
end

