-- ==== Sys2Proof/Machine/Gf.lean ====
section
/-! DEFINITION. The HBM device code (R290, R291): a Reed-Solomon codeword of 36 symbols over GF(2^8), three check symbols,
decoded for at most one symbol in error. -/

namespace Sys2Proof.Machine

/-- v times x in GF(2^8) under x^8 + x^4 + x^3 + x^2 + 1 (R290). -/
def gfx (v : Nat) : Nat := if bit v 7 then (2 * v % 256) ^^^ 0x1D else 2 * v

/-- The product in GF(2^8), bit k-1 of b first. -/
def gfMulFrom (a b : Nat) : Nat → Nat → Nat
  | 0, acc => acc
  | k + 1, acc => gfMulFrom a b k (gfx acc ^^^ (if bit b k then a else 0))

def gfMul (a b : Nat) : Nat := gfMulFrom a b 8 0

/-- alpha^n with alpha = 0x02. -/
def gfPow : Nat → Nat
  | 0 => 1
  | n + 1 => gfx (gfPow n)

/-- The value of the polynomial whose coefficients, highest power first, are the list, at point p (Horner). -/
def gfEval (l : List Nat) (p : Nat) : Nat := l.foldl (fun acc c => gfMul acc p ^^^ c) 0

/-- R290: the three syndromes of a stored word, at alpha^0, alpha^1 and alpha^2. -/
def rsSyndromes (w : List Nat) : List Nat := [gfEval w 1, gfEval w 2, gfEval w 4]

/-- R290: the remainder of m(x) * x^3 by g(x) = (x+1)(x+2)(x+4), as three symbols, highest power first. One message symbol
is shifted in at a time; g(x) = x^3 + 7 x^2 + 14 x + 8. -/
def rsRem (msg : List Nat) : List Nat :=
  let step := fun (r : Nat × Nat × Nat) (c : Nat) =>
    let f := r.1 ^^^ c
    (r.2.1 ^^^ gfMul f 7, r.2.2 ^^^ gfMul f 14, gfMul f 8)
  let r := msg.foldl step (0, 0, 0)
  [r.1, r.2.1, r.2.2]

/-- R290: the stored 36 symbols of 32 data bytes and the poison symbol. -/
def rsEncode (data : List Nat) (p : Nat) : List Nat :=
  let msg := data ++ [p]
  msg ++ rsRem msg

/-- What the decoder finds (R291). -/
inductive RsResult where
  | clean (w : List Nat)
  | corrected (w : List Nat) (lane : Nat)
  | uncorrectable
  deriving DecidableEq, Repr

/-- The lane whose single error of value S0 gives the syndromes, if any: lane j carries the power 35 - j. -/
def rsLocate (s0 s1 s2 : Nat) : Option Nat :=
  (List.range 36).find? (fun j =>
    let x := gfPow (35 - j)
    gfMul s0 x == s1 && gfMul s1 x == s2)

/-- R291: the decoding of a stored word. A decoded P other than 0x00 and 0xFF is uncorrectable. -/
def rsDecode (w : List Nat) : RsResult :=
  match rsSyndromes w with
  | [s0, s1, s2] =>
    let okP := fun (l : List Nat) => nth l 32 0 == 0 || nth l 32 0 == 0xFF
    if s0 = 0 ∧ s1 = 0 ∧ s2 = 0 then (if okP w then .clean w else .uncorrectable)
    else if s0 = 0 then .uncorrectable
    else match rsLocate s0 s1 s2 with
      | some j =>
        let w' := w.set j (nth w j 0 ^^^ s0)
        if okP w' then .corrected w' j else .uncorrectable
      | none => .uncorrectable
  | _ => .uncorrectable

end Sys2Proof.Machine
end

