-- ==== Sys2Proof/Machine/Mem.lean ====
section
/-! DEFINITION. The physical memories: bytes with the poison and the error state of their units (R200 to R203, R290 to
R292, R297 to R302, R321, R322). A read first visits the units in error (correcting, counting, poisoning), then takes
the bytes as stored. -/

namespace Sys2Proof.Machine

/-- A byte with the poison it carries. -/
abbrev PByte := Nat × Bool

def pvals (l : List PByte) : List Nat := l.map (·.1)
def ppsn (l : List PByte) : Bool := l.any (·.2)
/-- Clean bytes. -/
def clean (l : List Nat) : List PByte := l.map (fun b => (b, false))

/-! ### Bytes and units -/

/-- The n bytes from key a. -/
def Mem.read (m : Mem) (a n : Nat) : List Nat := (Assoc.slice m.cells a n 0).map BitVec.toNat

/-- The bytes with the poison of their u-byte units. -/
def Mem.readP (m : Mem) (u a n : Nat) : List PByte :=
  (m.read a n).zip ((List.range n).map (fun i => NSet.mem m.psn ((a + i) / u)))

/-- The bytes a write of bs at a brings to each unit of u bytes: unit number, whether the whole unit is written, whether any
of its bytes carries poison. -/
def unitsOf (u : Nat) : Nat → Nat → List PByte → List (Nat × Bool × Bool)
  | 0, _, _ => []
  | n + 1, a, bs =>
    match bs with
    | [] => []
    | b :: r =>
      let k := u - a % u
      let part := (b :: r).take k
      (a / u, a % u == 0 && part.length == u, ppsn part) :: unitsOf u n (a + k) ((b :: r).drop k)

/-- Remove the errors of unit k. -/
def Mem.clearErr (m : Mem) (k : Nat) : Mem := { m with err := Assoc.clear m.err (k * 128) 128 }

/-- Set or clear the poison of unit k. -/
def Mem.setPsn (m : Mem) (k : Nat) (b : Bool) : Mem :=
  { m with psn := if b then NSet.insert m.psn k else NSet.erase m.psn k }

/-- Write bytes at key a: a whole unit takes the poison of its data, a unit written in part stays poisoned if it was
(R202, R292, R322); fresh check bits in every unit written. -/
def Mem.writeP (m : Mem) (u a : Nat) (bs : List PByte) : Mem :=
  let m1 := { m with cells := Assoc.splice m.cells a ((pvals bs).map (BitVec.ofNat 8)) 0 }
  (unitsOf u (bs.length + 1) a bs).foldl
    (fun m x => (m.clearErr x.1).setPsn x.1 (x.2.2 || (!x.2.1 && NSet.mem m.psn x.1))) m1

/-- Write zeros with clean check bits and poison clear to [a, a + n), whole units of u bytes (R218, R303, R407). -/
def Mem.zero (m : Mem) (u a n : Nat) : Mem :=
  { cells := Assoc.clear m.cells a n
    psn := NSet.clear m.psn (a / u) (n / u)
    err := Assoc.clear m.err (a / u * 128) (n / u * 128) }

/-- The bytes that out names become undefined on occasion n: each keeps its value or becomes zero, and none is poisoned (R218,
R319). -/
def Mem.stale (m : Mem) (u n : Nat) (out : Nat → Bool) : Mem :=
  { m with cells := m.cells.filter (fun c => !out c.1 || Config.stays n c.1)
           psn := m.psn.filter (fun k => !out (k * u)) }

/-- The units in [k, k + n) that hold an error. -/
def Mem.errUnits (m : Mem) (k n : Nat) : List Nat :=
  ((m.err.map (fun e => e.1 / 128)).filter (fun x => decide (k ≤ x ∧ x < k + n))).eraseDups

/-- The errors of unit k as (position, value). -/
def Mem.errsOf (m : Mem) (k : Nat) : List (Nat × Nat) :=
  (m.err.filter (fun e => decide (e.1 / 128 = k))).map (fun e => (e.1 % 128, e.2))

/-! ### SECDED words (R200, R201) -/

/-- Invert bit pos of the stored data of word k (positions 64 to 71 are check bits and hold no data). -/
def Mem.invert (m : Mem) (k pos : Nat) : Mem :=
  if pos < 64 then
    let a := k * 8 + pos / 8
    { m with cells := Assoc.put m.cells a (Assoc.get m.cells a 0 ^^^ BitVec.ofNat 8 (2 ^ (pos % 8))) 0 }
  else m

/-- A bit of word k is upset; v marks where the upset comes from (1 the environment, 2 an injection). -/
def Mem.upset (m : Mem) (k pos v : Nat) : Mem :=
  let key := k * 128 + pos % 72
  let m1 := m.invert k (pos % 72)
  { m1 with err := Assoc.put m.err key (if Assoc.get m.err key 0 = 0 then v else 0) 0 }

/-- R201: the code of word k is checked: 0 no error, 1 corrected and written back, 2 uncorrectable and poisoned; the flag
says that an injection caused it. -/
def Mem.secded (m : Mem) (k : Nat) : Mem × Nat × Bool :=
  match m.errsOf k with
  | [] => (m, 0, false)
  | [(pos, v)] => ((m.invert k pos).clearErr k, 1, v == 2)
  | l => (m.setPsn k true, 2, l.any (fun e => e.2 == 2))

/-! ### Units that take no work (R378, R428) -/

/-- Block numbers of the reset controller: class * 1024 + index; 0 tile, 1 Die Sequencer, 2 HBM controller, 3 Transom slice,
4 Bronak port, 5 intake engine (R449). -/
def blkNo (cls idx : Nat) : Nat := cls * 1024 + idx

/-- The block is in its shutter or fenced. -/
def State.blkDown (s : State) (cls idx : Nat) : Bool := NSet.mem s.shut (blkNo cls idx) || NSet.mem s.fenced (blkNo cls idx)

/-- R428: a refused request: REFUSED counts it; the bytes that come back are free values (log 5). -/
def State.refuse (s : State) : State := (s.count 0x0010018 31 16 1).draw

/-- R428: a refused read completes with poison. -/
def State.refused (s : State) (n : Nat) : List PByte :=
  (List.range n).map (fun i => ((Config.freeByte (s.free + i)).toNat, true))

/-! ### Grants of slices and controllers (R305, R306, R308) -/

/-- R305: the class of a request: 0 C, 1 S, 2 B. -/
def tkClass : TKind → Nat
  | .fetch | .walk | .record | .demandIn => 0
  | .move | .bar4Read => 1
  | _ => 2

/-- The kind writes. -/
def tkWrites : TKind → Bool
  | .demandIn | .write | .writeBack | .prefetchIn | .bar4Write => true
  | _ => false

/-- The class that the next grant goes to (R306), given which classes have a request: 0 C, 1 S, 2 B. -/
def Louvre.choose (l : Louvre) (c st b : Bool) : Nat :=
  if b && decide (64 - l.n ≤ l.floor - l.b) then 2
  else if c && decide (l.c < l.cap) then 0
  else if st then 1
  else if b then 2
  else 0

/-- R306: one grant to class k; a full window ends. -/
def Louvre.took (l : Louvre) (k : Nat) : Louvre :=
  ⟨(l.n + 1) % 64, if l.n = 63 then 0 else l.c + b2n (k == 0), if l.n = 63 then 0 else l.b + b2n (k == 2), l.cap, l.floor⟩

/-- R308: at the first grant of a window of unit u the louvre of the casement of its die comes into force. -/
def State.louvre (s : State) (u d : Nat) : Louvre :=
  let l := Assoc.get s.louvres u Louvre.reset
  if l.n = 0 then
    { l with cap := min 64 (max 1 (s.rf (0x0180010 + 4 * d) 6 0)), floor := min 63 (s.rf (0x0180010 + 4 * d) 14 8) }
  else l

/-- The window of unit u (a slice, or 16 + a stack) of a die; that of a die without a casement goes on as it stands. -/
def State.unitLouvre (s : State) (u die : Nat) : Louvre :=
  match s.casOfDie die with
  | some d => s.louvre u d
  | none => Assoc.get s.louvres u Louvre.reset

/-- Unit u of a die grants one request. -/
def State.unitGrant (s : State) (u die : Nat) (k : TKind) : State :=
  { s with louvres := Assoc.put s.louvres u ((s.unitLouvre u die).took (tkClass k)) Louvre.reset }

/-! ### The hub's memory engine (R307, R308) -/

/-- The first of l in round-robin order after casement last. -/
def roundRobin (last : Nat) (l : List Nat) : Option Nat := ((List.range 4).map (fun i => (last + 1 + i) % 4)).find? l.contains

/-- R307: the casement that the next grant goes to; none where every one that waits is at a hard limit. -/
def HubWin.pick (h : HubWin) (wait : List Nat) : Option Nat :=
  let got := fun (d : Nat) => h.got.getD d 0
  let low := wait.filter (fun d => decide (got d < h.floor.getD d 0))
  let mid := wait.filter (fun d => decide (got d < h.cap.getD d 64))
  if !low.isEmpty then (if 64 < h.floor.foldl (· + ·) 0 then (List.range 4).find? low.contains else roundRobin h.last low)
  else if !mid.isEmpty then roundRobin h.last mid
  else roundRobin h.last (wait.filter (fun d => !h.hard.getD d false))

/-- One grant of the window passes: casement d's, or nobody's. -/
def HubWin.took (h : HubWin) (d : Option Nat) : HubWin :=
  let got := match d with
    | some d => setNth h.got d (h.got.getD d 0 + 1)
    | none => h.got
  { h with n := (h.n + 1) % 64, got := if h.n = 63 then [0, 0, 0, 0] else got, last := d.getD h.last }

/-- R308: TRN_HUBd come into force at the first grant of a window. -/
def State.hubWin (s : State) : HubWin :=
  if s.hub.n = 0 then
    let f := fun (hi lo : Nat) => (List.range 4).map (fun d => s.rf (0x0180020 + 4 * d) hi lo)
    { s.hub with floor := f 6 0, cap := f 14 8, hard := (f 15 15).map (· == 1) }
  else s.hub

/-- R307: a request of casement d at the hub's memory engine, beside those of others: whether it is served, and the window after it.
A grant that hard limits leave to nobody passes (DESIGN CHOICE, log 67); a fenced TRN block grants none (R374). -/
def State.hubGrant (s : State) (d : Nat) (others : List Nat) : Bool × State :=
  if s.blkDown 7 9 then (false, s) else match s.hubWin.pick (d :: others) with
  | some e => if e = d then (true, { s with hub := s.hubWin.took (some d) }) else (false, s)
  | none => (false, { s with hub := s.hubWin.took none })

/-! ### Panes -/

def paneKey (p off : Nat) : Nat := p * 2 ^ 19 + off

/-- R201: a read visits word w of the Pane of tile p. -/
def State.paneVisit (s : State) (p w : Nat) : State :=
  match s.pane.secded (p * 65536 + w) with
  | (m, r, inj) =>
    if r = 0 then s
    else
      let s1 := { s with pane := m }
      let s2 := if r = 1 then s1.count (rTil p 0x30) 15 0 1 else s1.count (rTil p 0x30) 31 16 1
      let s3 := s2.setReg (rTil p 0x34) (BitVec.ofNat 32 (w * 8 + b2n (r == 2) * 2 ^ 31))
      s3.post { kind := 2, det := 0x05, unit := p, ctag := s.dieTag (dieOfTile p), inj := inj }

/-- Visit every word of [off, off + n) that holds an error. -/
def State.paneTouch (s : State) (p off n : Nat) : State :=
  if n = 0 then s
  else if s.blkDown 0 p then s.refuse
  else
    let w := off / 8
    (s.pane.errUnits (p * 65536 + w) ((off + n - 1) / 8 + 1 - w)).foldl (fun s k => s.paneVisit p (k % 65536)) s

def State.paneRead (s : State) (p off n : Nat) : List PByte :=
  if s.blkDown 0 p then s.refused n else s.pane.readP 8 (paneKey p off) n

/-- R371, code 0x05: the upset of an armed injection in a write of its word. -/
def State.paneInject (s : State) (p off n : Nat) : State :=
  let pat := s.injPat
  let w := fld pat 15 0
  if s.injArmed 0x05 p && overlap off n (8 * w) 8 then
    let m1 := s.pane.upset (p * 65536 + w) (fld pat 21 16) 2
    let m2 := if bit pat 22 then m1.upset (p * 65536 + w) (fld pat 28 23) 2 else m1
    { s with pane := m2 }.injFire
  else s

/-- R202: a write to the Pane of tile p: the words written in part are read first. -/
def State.paneWrite (s : State) (p off : Nat) (bs : List PByte) : State :=
  let n := bs.length
  if n = 0 then s
  else if s.blkDown 0 p then s.refuse
  else
    let s1 := if off % 8 = 0 then s else s.paneTouch p off 1
    let s2 := if (off + n) % 8 = 0 ∨ (off % 8 ≠ 0 ∧ off / 8 = (off + n - 1) / 8) then s1 else s1.paneTouch p (off + n - 1) 1
    { s2 with pane := s2.pane.writeP 8 (paneKey p off) bs }.paneInject p off n

/-- The whole Pane of tile p is written to zero with clean check bits and poison clear (R218); an armed injection meets
its word in it (R371). -/
def State.paneZero (s : State) (p : Nat) : State :=
  if s.blkDown 0 p then s.refuse else { s with pane := s.pane.zero 8 (paneKey p 0) (2 ^ 19) }.paneInject p 0 (2 ^ 19)

/-- R218: every byte of the Pane of tile p outside the ranges of live becomes undefined. -/
def State.paneStale (s : State) (p : Nat) (live : List (Nat × Nat)) : State :=
  { s with pane := s.pane.stale 8 s.free (fun k => k / 2 ^ 19 == p && !live.any (fun r => decide (r.1 ≤ k % 2 ^ 19 ∧ k % 2 ^ 19 < r.1 + r.2))) }.draw

/-! ### Transom words: scratchpad and cached lines (R297) -/

/-- Count what a visit of a word of slice sl found (R297 as R201). -/
def State.trnCount (s : State) (sl r : Nat) (inj : Bool) : State :=
  if r = 0 then s
  else
    let k := 0x0180100 + 4 * sl
    let s1 := if r = 1 then s.count k 15 0 1 else s.count k 31 16 1
    s1.post { kind := 2, det := 0x06, unit := sl, ctag := s.dieTag (sl / 4), inj := inj }

def scratchKey (sl off : Nat) : Nat := sl * 2 ^ 25 + off

def State.scratchVisit (s : State) (k : Nat) : State :=
  match s.scratch.secded k with
  | (m, r, inj) => { s with scratch := m }.trnCount (k / 2 ^ 22) r inj

def State.scratchTouch (s : State) (key n : Nat) : State :=
  if n = 0 then s
  else if s.blkDown 3 (key / 2 ^ 25) then s.refuse
  else (s.scratch.errUnits (key / 8) ((key + n - 1) / 8 + 1 - key / 8)).foldl State.scratchVisit s

/-- R371, code 0x06: an armed injection in a write of its word of a slice. -/
def State.scratchInject (s : State) (key n : Nat) : State :=
  let pat := s.injPat
  let sl := key / 2 ^ 25
  let w := fld pat 21 0
  if s.injArmed 0x06 sl && overlap (key % 2 ^ 25) n (8 * w) 8 then
    let m1 := s.scratch.upset (sl * 2 ^ 22 + w) 0 2
    let m2 := if bit pat 22 then m1.upset (sl * 2 ^ 22 + w) 1 2 else m1
    { s with scratch := m2 }.injFire
  else s

/-- Scratchpad words as a read returns them. -/
def State.scratchRead (s : State) (key n : Nat) : List PByte :=
  if s.blkDown 3 (key / 2 ^ 25) then s.refused n else s.scratch.readP 8 key n

def State.scratchWrite (s : State) (key : Nat) (bs : List PByte) : State :=
  let n := bs.length
  if n = 0 then s
  else if s.blkDown 3 (key / 2 ^ 25) then s.refuse
  else
    let s1 := if key % 8 = 0 then s else s.scratchTouch key 1
    let s2 := if (key + n) % 8 = 0 ∨ (key % 8 ≠ 0 ∧ key / 8 = (key + n - 1) / 8) then s1 else s1.scratchTouch (key + n - 1) 1
    { s2 with scratch := s2.scratch.writeP 8 key bs }.scratchInject key n

/-! ### HBM chunks (R290 to R292) -/

def hbmKey (stack off : Nat) : Nat := stack * 2 ^ 36 + off
def rMem (stack o : Nat) : Nat := 0x0100000 + stack * 0x1000 + o

/-- The stored word of chunk k: its bytes as stored, the poison symbol and the check symbols, with the symbols in error. -/
def Mem.rsWord (m : Mem) (k : Nat) : List Nat :=
  let raw := m.read (k * 32) 32
  let es := m.errsOf k
  let e := fun j => (es.foldl (fun a x => if x.1 = j then a ^^^ x.2 % 256 else a) 0)
  let data := raw.mapIdx (fun j b => b ^^^ e j)
  let w := rsEncode data (if NSet.mem m.psn k then 0xFF else 0)
  w.mapIdx (fun j b => b ^^^ e j)

/-- A symbol of chunk k is in error by x (nonzero); v marks an injection (R287: lane j carries symbol j). -/
def Mem.symErr (m : Mem) (k lane x : Nat) (inj : Bool) : Mem :=
  let lane := lane % 36
  let x := x % 256
  let key := k * 128 + lane
  let old := Assoc.get m.err key 0
  let e := (old % 256) ^^^ x
  let c := if lane < 32 then
      let a := k * 32 + lane
      Assoc.put m.cells a (Assoc.get m.cells a 0 ^^^ BitVec.ofNat 8 x) 0
    else m.cells
  { m with cells := c, err := Assoc.put m.err key (if e = 0 then 0 else e + b2n (inj || decide (256 ≤ old)) * 256) 0 }

/-- R291: a visit of chunk k: decode, correct or poison, write back: 0 clean, 1 corrected (and the lane), 2 uncorrectable. -/
def Mem.rsVisit (m : Mem) (k : Nat) : Mem × Nat × Nat × Bool :=
  let inj := (m.errsOf k).any (fun e => decide (256 ≤ e.2))
  let back := fun (m : Mem) (w : List Nat) (p : Bool) =>
    ({ m with cells := Assoc.splice m.cells (k * 32) ((w.take 32).map (BitVec.ofNat 8)) 0 }.clearErr k).setPsn k p
  match rsDecode (m.rsWord k) with
  | .clean w => (back m w (nth w 32 0 == 0xFF), 0, 0, inj)
  | .corrected w lane => (back m w (nth w 32 0 == 0xFF), 1, lane, inj)
  | .uncorrectable => (back m (m.read (k * 32) 32) true, 2, 0, inj)

/-- R291 with its counters and registers (R296). -/
def State.hbmVisit (s : State) (k : Nat) : State :=
  match s.hbm.rsVisit k with
  | (m, r, lane, inj) =>
    let s1 := { s with hbm := m }
    if r = 0 then s1
    else
      let st := k / 2 ^ 31
      let off := k % 2 ^ 31
      let s2 := if r = 1 then s1.count (rMem st 0x10) 15 0 1 else s1.count (rMem st 0x10) 31 16 1
      let s3 := s2.setReg (rMem st 0x14) (BitVec.ofNat 32 (off + b2n (r == 2) * 2 ^ 31))
      let s4 := if r = 1 then s3.setReg (rMem st 0x18) (BitVec.ofNat 32 (off / 8 % 64 + lane * 64)) else s3
      s4.post { kind := 2, det := 0x07, unit := st, ctag := s.dieTag (st / 6), inj := inj }

def State.hbmTouch (s : State) (key n : Nat) : State :=
  if n = 0 then s
  else if s.blkDown 2 (key / 2 ^ 36) then s.refuse
  else (s.hbm.errUnits (key / 32) ((key + n - 1) / 32 + 1 - key / 32)).foldl State.hbmVisit s

/-- Chunks as a read returns them. -/
def State.hbmGet (s : State) (key n : Nat) : List PByte :=
  if s.blkDown 2 (key / 2 ^ 36) then s.refused n else s.hbm.readP 32 key n

/-- R371, code 0x07: an armed injection in a write of [key, key + n): the first chunk of its pseudo-channel. -/
def State.hbmInject (s : State) (key n : Nat) : State :=
  let pat := s.injPat
  let st := key / 2 ^ 36
  let first := key / 256 + (fld pat 5 0 + 64 - key % 2 ^ 36 / 256 % 64) % 64
  let k := if first = key / 256 then key / 32 else first * 8
  if s.injArmed 0x07 st && decide (first ≤ (key + n - 1) / 256) then
    let word := s.hbm.rsWord k
    let comp := fun (m : Mem) (lane : Nat) => if nth word lane 0 < 256 then m.symErr k lane 0xFF true else m
    let m1 := comp s.hbm (fld pat 11 6)
    let m2 := if bit pat 12 then comp m1 (fld pat 18 13) else m1
    { s with hbm := m2 }.injFire
  else s

/-- R371, code 0x07, in the zeroing of the 16 KiB or more at key: each pseudo-channel takes one write of it. -/
def State.hbmZeroInject (s : State) (key : Nat) : State := s.hbmInject key (2 ^ 14)

/-- R292: a write to a stack at the controller. -/
def State.hbmPut (s : State) (key : Nat) (bs : List PByte) : State :=
  let n := bs.length
  if n = 0 then s
  else if s.blkDown 2 (key / 2 ^ 36) then s.refuse
  else
    let s1 := if key % 32 = 0 then s else s.hbmTouch key 1
    let s2 := if (key + n) % 32 = 0 ∨ (key % 32 ≠ 0 ∧ key / 32 = (key + n - 1) / 32) then s1 else s1.hbmTouch (key + n - 1) 1
    { s2 with hbm := s2.hbm.writeP 32 key bs }.hbmInject key n

/-! ### Cached lines (R297, R298, R300): lines of 128 bytes, keyed by stack and offset -/

def lineOf (key : Nat) : Nat := key / 128
/-- The line is cached. -/
def State.lineHeld (s : State) (l : Nat) : Bool := Assoc.get s.clines l 0 != 0
def State.lineDirty (s : State) (l : Nat) : Bool := NSet.mem s.cdirty l

/-- The home slice of a line of stack key st (R300, with the line's casement physical address X). -/
def homeSlice (stack x : Nat) : Nat := stack / 6 * 4 + x / 4096 % 4

/-- The lines that slice sl holds, in ascending order. -/
def State.linesOf (s : State) (sl : Nat) : List Nat := (s.clines.filter (fun x => x.2 == sl + 1)).map (·.1)
/-- The dirty ones. -/
def State.dirtyOf (s : State) (sl : Nat) : List Nat := (s.linesOf sl).filter s.lineDirty

/-- R298: the cache ways of slice sl. -/
def State.waysOf (s : State) (sl : Nat) : Nat :=
  match s.casOfDie (sl / 4) with
  | some d => 16 - min 16 (s.rf (0x0180000 + 4 * d) 4 0)
  | none => 16

/-- The scratchpad words of slice sl. -/
def State.scrWords (s : State) (sl : Nat) : Nat := (16 - s.waysOf sl) * 196608

/-- The part of a cached line's check that a visit makes (R297). -/
def State.lineTouch (s : State) (sl key n : Nat) : State :=
  if n = 0 then s
  else (s.cdata.errUnits (key / 8) ((key + n - 1) / 8 + 1 - key / 8)).foldl
    (fun s k => match s.cdata.secded k with
      | (m, r, inj) => { s with cdata := m }.trnCount sl r inj) s

/-- Drop a line without writing it back (R303). -/
def State.lineDrop (s : State) (l : Nat) : State :=
  { s with clines := Assoc.drop s.clines l, cdirty := NSet.erase s.cdirty l, cdata := s.cdata.zero 8 (l * 128) 128 }

/-- Write a dirty line back to HBM (R300): each chunk takes the poison of its words (R321). The line leaves the cache. -/
def State.lineBack (s : State) (sl l : Nat) : State :=
  if s.lineDirty l then
    let s1 := s.lineTouch sl (l * 128) 128
    let bs := s1.cdata.readP 8 (l * 128) 128
    (s1.hbmPut (l * 128) bs).lineDrop l
  else s.lineDrop l

/-- R297, R300: room for line l in its set of slice sl: at most one line a way; set index and replacement are the slice's own. -/
def State.lineRoom (s : State) (sl l : Nat) : State :=
  let w := s.waysOf sl
  let all := s.linesOf sl
  if all.length < w then s
  else
    let mine := all.filter (fun k => Config.cacheSet k % 12288 == Config.cacheSet l % 12288)
    if mine.length < w then s else (s.lineBack sl (nth mine (Config.cacheVictim s.free % mine.length) 0)).draw

/-- A line is allocated without its contents (R300: a whole line is about to be written). -/
def State.lineAlloc (s : State) (sl l : Nat) : State :=
  if s.lineHeld l then s
  else let s1 := s.lineRoom sl l; { s1 with clines := Assoc.put s1.clines l (sl + 1) 0 }

/-- Allocate a line from HBM (R300): its chunks are read and its words take their poison (R321). -/
def State.lineFill (s : State) (sl l : Nat) : State :=
  if s.lineHeld l then s
  else
    let s1 := (s.lineAlloc sl l).hbmTouch (l * 128) 128
    { s1 with cdata := s1.cdata.writeP 8 (l * 128) (s1.hbmGet (l * 128) 128) }

/-- A read of [key, key + n) inside one line allocates it (R300). With no cache way left (R298), or with its controller in a shutter
(R428), HBM answers alone. -/
def State.lineReadTouch (s : State) (sl key n : Nat) : State :=
  if s.blkDown 3 sl then s.refuse
  else if s.lineHeld (lineOf key) then s.lineTouch sl key n
  else if s.waysOf sl = 0 ∨ s.blkDown 2 (key / 2 ^ 36) = true then s.hbmTouch key n
  else (s.lineFill sl (lineOf key)).lineTouch sl key n

def State.lineRead (s : State) (sl key n : Nat) : List PByte :=
  if s.blkDown 3 sl then s.refused n
  else if s.lineHeld (lineOf key) then s.cdata.readP 8 key n else s.hbmGet key n

/-- R371, code 0x06: an armed injection in a write of its word of a cached line. The slice's words are its scratchpad's, then those of
the lines it holds in ascending order (DESIGN CHOICE, log 14). -/
def State.lineInject (s : State) (sl key n : Nat) : State :=
  let pat := s.injPat
  let w := s.scrWords sl + (s.linesOf sl).idxOf (lineOf key) * 16 + key % 128 / 8
  if s.injArmed 0x06 sl && decide (w ≤ fld pat 21 0 ∧ fld pat 21 0 < w + ((key + n - 1) / 8 + 1 - key / 8)) then
    let k := key / 8 + (fld pat 21 0 - w)
    let m1 := s.cdata.upset k 0 2
    let m2 := if bit pat 22 then m1.upset k 1 2 else m1
    { s with cdata := m2 }.injFire
  else s

/-- A write inside one line: a whole line allocates without reading HBM, a part fills and merges (R300); words written in part are
read first (R202). -/
def State.lineWrite (s : State) (sl key : Nat) (bs : List PByte) : State :=
  let n := bs.length
  if s.blkDown 3 sl then s.refuse
  else if s.waysOf sl = 0 then s.hbmPut key bs
  else
    let l := lineOf key
    let s1 := if key % 128 = 0 ∧ n = 128 then s.lineAlloc sl l else s.lineFill sl l
    let s2 := if key % 8 = 0 then s1 else s1.lineTouch sl key 1
    let s3 := if (key + n) % 8 = 0 ∨ (key % 8 ≠ 0 ∧ key / 8 = (key + n - 1) / 8) then s2 else s2.lineTouch sl (key + n - 1) 1
    { s3 with cdirty := NSet.insert s3.cdirty l, cdata := s3.cdata.writeP 8 key bs }.lineInject sl key n

end Sys2Proof.Machine
end

