-- ==== Sys2Proof/Machine/Space.lean ====
section
/-! DEFINITION. The address spaces of a casement (11_memory_system.md): physical space over stacks and home slices (R288,
R300), scratchpad (R299), page tables (R309 to R311), frames (R312 to R314), page-out and page-in (R315 to R320). -/

namespace Sys2Proof.Machine

/-! ### Mapping -/

/-- The stacks of a die mask in ascending number (R22, R288). -/
def stacksOf (mask : Nat) : List Nat := (diesOf mask).flatMap (fun d => rangeFrom (6 * d) 6)
/-- The slices of a die mask in ascending number (R22, R299). -/
def slicesOf (mask : Nat) : List Nat := (diesOf mask).flatMap (fun d => rangeFrom (4 * d) 4)

/-- R288: the stack and offset of casement physical address x, as a key. -/
def paKey (mask x : Nat) : Nat :=
  let st := stacksOf mask
  let u := x / 16384
  hbmKey (nth st (u % max 1 st.length) 0) (u / max 1 st.length * 16384 + x % 16384)

/-- The size of a casement's physical space. -/
def paSize (mask : Nat) : Nat := (stacksOf mask).length * 2 ^ 36

/-- The casement physical address that a key of its stacks stands for (R288). -/
def paOf (mask key : Nat) : Nat :=
  let st := stacksOf mask
  (key % 2 ^ 36 / 16384 * st.length + st.idxOf (key / 2 ^ 36)) * 16384 + key % 16384

/-- R300: the home slice of casement physical address x. -/
def paSlice (mask x : Nat) : Nat := homeSlice (paKey mask x / 2 ^ 36) x

/-- [a, a + n) cut at multiples of g. -/
def pieces (g : Nat) : Nat → Nat → Nat → List (Nat × Nat)
  | 0, _, _ => []
  | k + 1, a, n =>
    if n = 0 then []
    else
      let m := min n (g - a % g)
      (a, m) :: pieces g k (a + m) (n - m)

/-- [a, a + n) cut at multiples of g. -/
def cuts (g a n : Nat) : List (Nat × Nat) := pieces g (n / g + 2) a n

/-- Write a byte list piece by piece. -/
def foldPieces {σ : Type} (f : σ → Nat → List PByte → σ) : List (Nat × Nat) → List PByte → σ → σ
  | [], _, s => s
  | (a, n) :: r, bs, s => foldPieces f r (bs.drop n) (f s a (bs.take n))

/-! ### Casement physical space through the home slices (R301) -/

def State.mask (s : State) (d : Nat) : Nat := (s.casement d).mask

/-- R305, R306: slice sl grants a request of its casement; a slice in its shutter grants none (R428). -/
def State.sliceGrant (s : State) (sl : Nat) (k : TKind) : State := if s.blkDown 3 sl then s else s.unitGrant sl (sl / 4) k

/-- A read's grants and visits, line by line. -/
def State.paTouch (s : State) (d x n : Nat) (k : TKind := .move) : State :=
  (cuts 128 x n).foldl (fun s r =>
    (s.sliceGrant (paSlice (s.mask d) r.1) k).lineReadTouch (paSlice (s.mask d) r.1) (paKey (s.mask d) r.1) r.2) s

def State.paRead (s : State) (d x n : Nat) : List PByte :=
  (cuts 128 x n).flatMap (fun r => s.lineRead (paSlice (s.mask d) r.1) (paKey (s.mask d) r.1) r.2)

def State.paWrite (s : State) (d x : Nat) (bs : List PByte) (k : TKind := .write) : State :=
  foldPieces (fun s a b => (s.sliceGrant (paSlice (s.mask d) a) k).lineWrite (paSlice (s.mask d) a) (paKey (s.mask d) a) b)
    (cuts 128 x bs.length) bs s

/-- Zero, clean, [x, x + n) of a casement's physical space, x and n multiples of 16 KiB; cached lines of it are dropped. -/
def State.paZero (s : State) (d x n : Nat) : State :=
  (cuts 16384 x n).foldl (fun s r =>
    let k := paKey (s.mask d) r.1
    if s.blkDown 2 (k / 2 ^ 36) then s.refuse
    else { s with hbm := s.hbm.zero 32 k r.2, cdata := s.cdata.zero 8 k r.2,
                  clines := Assoc.clear s.clines (k / 128) (r.2 / 128), cdirty := NSet.clear s.cdirty (k / 128) (r.2 / 128) }.hbmZeroInject k) s

/-- R319: every byte of [x, x + n) becomes undefined. -/
def State.paStale (s : State) (d x n : Nat) : State :=
  let out := fun k => (stacksOf (s.mask d)).contains (k / 2 ^ 36) && decide (x ≤ paOf (s.mask d) k ∧ paOf (s.mask d) k < x + n)
  { s with hbm := s.hbm.stale 32 s.free out, cdata := s.cdata.stale 8 s.free out }.draw

/-! ### Scratchpad (R298, R299) -/

def State.spw (s : State) (d : Nat) : Nat := min 16 (s.rf (0x0180000 + 4 * d) 4 0)
/-- R298: the bytes of a casement's scratchpad partition. -/
def State.partSize (s : State) (d : Nat) : Nat := s.spw d * 6 * 2 ^ 20 * (diesOf (s.mask d)).length

/-- R299: the slice word store's key of scratchpad offset y. -/
def trnKey (mask y : Nat) : Nat :=
  let sl := slicesOf mask
  let n := max 1 sl.length
  scratchKey (nth sl (y / 4096 % n) 0) (y / (4096 * n) * 4096 + y % 4096)

def State.spadTouch (s : State) (d y n : Nat) (k : TKind := .move) : State :=
  (cuts 4096 y n).foldl (fun s r =>
    (s.sliceGrant (trnKey (s.mask d) r.1 / 2 ^ 25) k).scratchTouch (trnKey (s.mask d) r.1) r.2) s
def State.spadRead (s : State) (d y n : Nat) : List PByte :=
  (cuts 4096 y n).flatMap (fun r => s.scratchRead (trnKey (s.mask d) r.1) r.2)
def State.spadWrite (s : State) (d y : Nat) (bs : List PByte) : State :=
  foldPieces (fun s a b => (s.sliceGrant (trnKey (s.mask d) a / 2 ^ 25) .write).scratchWrite (trnKey (s.mask d) a) b)
    (cuts 4096 y bs.length) bs s
/-- R303: the scratchpad and the cache ways of a slice after its reset: zero, invalid. -/
def State.sliceZero (s : State) (sl : Nat) : State :=
  { s with scratch := s.scratch.zero 8 (scratchKey sl 0) (2 ^ 25) }

/-! ### Page tables (R309 to R311) -/

def rPga (d o : Nat) : Nat := 0x01C0000 + 0x100 * d + o
def State.ptRoot (s : State) (d : Nat) : Nat :=
  (s.reg (rPga d 0)).toNat + s.rf (rPga d 4) 15 0 * 2 ^ 32

/-- The fields of a leaf entry (R311). -/
def leV (e : Nat) : Bool := bit e 0
def leHost (e : Nat) : Bool := bit e 1
def leRes (e : Nat) : Bool := bit e 2
def leOff (e : Nat) : Bool := bit e 3
def leSteps (e : Nat) : Bool := bit e 4
def lePsn (e : Nat) : Bool := bit e 5
def leRo (e : Nat) : Bool := bit e 6
def leFrame (e : Nat) : Nat := fld e 47 21
def frameNone : Nat := 2 ^ 27 - 1
/-- The same entry with another FRAME, RES and PSN. -/
def leSet (e frame : Nat) (res psn : Bool) : Nat :=
  setFld (setFld (setFld e 47 21 frame) 2 2 (b2n res)) 5 5 (b2n psn)

/-- What a walk finds: no valid entry, a poisoned entry's address (R324), or the leaf entry and its address. -/
inductive Walk where
  | bad
  | poison (x : Nat)
  | leaf (x e : Nat)
  deriving DecidableEq, Repr

/-- The entry at casement physical address x. -/
def State.entryAt (s : State) (d x : Nat) : List PByte := s.paRead d x 8

/-- R310: the walk of one level: the next table's base. -/
def State.level (s : State) (d x : Nat) : Walk :=
  let b := s.entryAt d x
  if ppsn b then .poison x
  else
    let e := leNat (pvals b)
    if leV e then .leaf x e else .bad

/-- R310: the three-level walk for virtual address va. -/
def State.walk (s : State) (d va : Nat) : Walk :=
  match s.level d (s.ptRoot d + 8 * fld va 47 39) with
  | .leaf _ e1 =>
    match s.level d (fld e1 47 12 * 4096 + 8 * fld va 38 30) with
    | .leaf _ e2 => s.level d (fld e2 47 12 * 4096 + 8 * fld va 29 21)
    | r => r
  | r => r

/-- The checks of the words that a walk reads (R291, R297). -/
def State.walkTouch (s : State) (d va : Nat) : State :=
  let x1 := s.ptRoot d + 8 * fld va 47 39
  let s := s.paTouch d x1 8 .walk
  match s.level d x1 with
  | .leaf _ e1 =>
    let x2 := fld e1 47 12 * 4096 + 8 * fld va 38 30
    let s := s.paTouch d x2 8 .walk
    match s.level d x2 with
    | .leaf _ e2 => s.paTouch d (fld e2 47 12 * 4096 + 8 * fld va 29 21) 8 .walk
    | _ => s
  | _ => s

def State.putEntry (s : State) (d x e : Nat) : State := s.paWrite d x (clean (leBytes 8 e))

/-! ### Frames (R312, R313) -/

def State.freeFrames (s : State) (d : Nat) : Nat :=
  let c := s.casement d
  c.freed.length + (c.freshEnd - c.fresh)

/-- PGA_FREE shows the free frames. -/
def State.showFree (s : State) (d : Nat) : State := s.setRf (rPga d 8) 19 0 (s.freeFrames d)

def State.pushFrame (s : State) (d fr : Nat) : State :=
  let c := s.casement d
  (s.setCas d { c with freed := fr :: c.freed }).showFree d

/-- R313: the most recently freed frame. -/
def State.popFrame (s : State) (d : Nat) : Option (State × Nat) :=
  let c := s.casement d
  match c.freed with
  | fr :: r => some ((s.setCas d { c with freed := r }).showFree d, fr)
  | [] =>
    if c.fresh < c.freshEnd then some ((s.setCas d { c with fresh := c.fresh + 1 }).showFree d, c.fresh)
    else none

def frameBytes : Nat := 2 ^ 21

/-- The host bus address of host frame table entry i (R312). -/
def State.hostFrame (s : State) (d i : Nat) : Nat := Assoc.get (s.casement d).hft i 0 - 1

/-- R324: an entry of a free list that reads as poisoned is dropped, with an event; frames of fr, host frames of hf. -/
def State.dropEntries (s : State) (d : Nat) (fr hf : List Nat) : State :=
  let c := s.casement d
  let a := c.freed.filter fr.contains
  let b := c.pool.filter hf.contains
  let s1 := (s.setCas d { c with freed := c.freed.filter (fun x => !fr.contains x), pool := c.pool.filter (fun x => !hf.contains x) }).showFree d
  (a ++ b).foldl (fun s x => s.post { kind := 7, unit := d, ctag := c.tag, info := x }) s1

/-- R312: the pool with host frame h back in it, unless a HOST page or a paged-out copy references it. -/
def Cas.give (c : Cas) (h : Nat) : Cas :=
  if c.hrefs.contains h || c.orefs.contains h || c.pool.contains h then c else { c with pool := h :: c.pool }

/-! ### Page-out (R315 to R317) -/

/-- R316: the pages that page-outs take, in order; pages of keep are passed over. -/
def Cas.victims (c : Cas) (keep : List Nat) : List Nat :=
  c.outq.filter (fun v => !c.prot.contains v && !keep.contains v) ++ c.prot.filter (fun v => c.outq.contains v && !keep.contains v)

/-- R324: the poisoned entry that the walks for the next n page-outs meet first. -/
def State.victimPoison (s : State) (d n : Nat) (keep : List Nat) : Option Nat :=
  ((s.casement d).victims keep).take n |>.findSome? (fun v => match s.walk d (v * frameBytes) with | .poison x => some x | _ => none)

/-- R317: one page-out, whole: the page leaves its frame for a host frame of the pool. -/
def State.pageOut (s : State) (d : Nat) (keep : List Nat := []) : State :=
  let c := s.casement d
  match c.victims keep with
  | [] => s
  | v :: _ =>
    match c.pool with
    | [] => s.raise (rPga d 0x20) 0
    | h :: pool' =>
      let s0 := s.walkTouch d (v * frameBytes)
      match s0.walk d (v * frameBytes) with
      | .leaf x e =>
        let fx := leFrame e * frameBytes
        let s1 := s0.paTouch d fx frameBytes .pageOutRead
        let bs := s1.paRead d fx frameBytes
        let s2 := s1.hostWrite c.owner (s1.hostFrame d h) (pvals bs)
        let s3 := s2.putEntry d x (leSet e h false (ppsn bs))
        let c3 := s3.casement d
        let s4 := s3.setCas d { c3 with outq := c3.outq.filter (· != v), prot := c3.prot.filter (· != v),
                                        wrote := NSet.erase c3.wrote v, pool := pool', orefs := h :: c3.orefs, outs := NSet.insert c3.outs v }
        ((s4.pushFrame d (leFrame e)).count (rPga d 0x14) 31 0 1).post
          { kind := 7, unit := d, ctag := c.tag, info := v }
      | _ => s0

/-- R313: an allocation: a free frame, or the one a page-out frees. -/
def State.allocFrame (s : State) (d : Nat) (keep : List Nat := []) : Option (State × Nat) :=
  match s.popFrame d with
  | some r => some r
  | none => (s.pageOut d keep).popFrame d

/-- R313: the frames that allocations can get: the free ones, and those of pages that can be paged out. -/
def State.frameRoom (s : State) (d : Nat) (keep : List Nat) : Nat :=
  let c := s.casement d
  s.freeFrames d + min c.pool.length (c.victims keep).length

/-- R324: the access at va needs a frame that only a page-out can free, whose walk meets a poisoned entry. -/
def State.allocPoison (s : State) (d va : Nat) : Option Nat :=
  match s.walk d va with
  | .leaf _ e =>
    if leHost e || leRes e || leFrame e != frameNone || s.freeFrames d != 0 then none else s.victimPoison d 1 []
  | _ => none

/-- R313: an allocation could succeed. -/
def State.canAlloc (s : State) (d : Nat) : Bool := decide (0 < s.frameRoom d [])

/-- R313, R317: no frame can be had: NOFR is set, and NOHF too when candidates remain and host frames do not. -/
def State.noFrame (s : State) (d : Nat) (keep : List Nat := []) : State :=
  let c := s.casement d
  let s1 := if c.pool.length < (c.victims keep).length then s.raise (rPga d 0x20) 0 else s
  s1.raise (rPga d 0x20) 1

/-- R313: an access at va lacks a frame for its page where none can be had. -/
def State.lackFrame (s : State) (d va : Nat) : State :=
  match s.walk d va with
  | .leaf _ e => if leHost e || leRes e || s.canAlloc d then s else s.noFrame d
  | _ => s

/-! ### Page-in (R318, R320, R489) -/

/-- The bytes of host memory, with the poison that the host's answers give them by unit of u bytes (R489): the chunk of a page-in; for
an instruction each byte, which poisons the whole unit that it fills (R321). -/
def State.hostChunks (s : State) (u a n : Nat) (all : Bool) : List PByte :=
  (cuts u a n).flatMap (fun r =>
    let bad := all || s.hostAnswer r.1 r.2 != 0
    (s.hostRead r.1 r.2).map (fun b => (b, bad)))

/-- A read of host memory for casement d, with its owner's requester ID (R394); one event of KIND 0x07 for each range the host
answers badly (R489), which AER notes where it is a poisoned TLP. -/
def State.hostReadFor (s : State) (d a n : Nat) : State :=
  let f := (s.casement d).owner
  (s.hbad.filter (fun r => overlap a n r.1 r.2.1)).foldl
    (fun s r => (if r.2.2 = 2 then s.aerSet f aerPoison else s).post { kind := 7, ctag := s.tagOf d, info := a }) (s.hostAsk f a n)

/-- R318: the page of a non-resident OFF entry comes back; demand or prefetch. None when no frame can be had. -/
def State.pageIn (s : State) (d v : Nat) (demand : Bool) : Option State :=
  match s.walk d (v * frameBytes) with
  | .leaf _ _ =>
    match s.allocFrame d with
    | none => none
    | some (s1, fr) =>
      match s1.walk d (v * frameBytes) with
      | .leaf x e =>
        let h := leFrame e
        let a := s1.hostFrame d h
        let bs := s1.hostChunks 32 a frameBytes (lePsn e)
        let s2 := (s1.hostReadFor d a frameBytes).paWrite d (fr * frameBytes) bs (if demand then .demandIn else .prefetchIn)
        let s3 := s2.putEntry d x (leSet e fr true false)
        let c := s3.casement d
        let s4 := s3.setCas d ({ c with outq := c.outq ++ [v], wrote := NSet.erase c.wrote v, orefs := c.orefs.erase h
                                        prot := if demand then c.prot else v :: c.prot }.give h)
        let s5 := if ppsn bs then s4.raise (rPga d 0x20) 3 else s4
        some ((s5.count (rPga d (if demand then 0x18 else 0x1C)) 31 0 1).post
          { kind := 7, unit := d, ctag := c.tag, info := v })
      | _ => some s1
  | _ => some s

/-! ### Accesses (R309, R311, R315, R320) -/

/-- What an access check finds: nothing wrong, an address that raises the address fault, a poisoned entry or word, or a page
that must first be paged in (R318). -/
inductive ARes where
  | ok
  | addr (a : Nat)
  | poison (a : Nat)
  | wait (a : Nat)
  deriving DecidableEq, Repr

/-- R309, R311, R318: the page of virtual address va for an access in space sp. -/
def State.pageCheck (s : State) (d va sp : Nat) (wr : Bool) : ARes :=
  if 2 ^ 48 ≤ va then .addr va
  else
    match s.walk d va with
    | .bad => .addr va
    | .poison x => .poison x
    | .leaf _ e =>
      if leHost e != (sp == 3) then .addr va
      else if wr && leRo e then .addr va
      else if leHost e || leRes e then .ok
      else if leFrame e = frameNone then (if s.canAlloc d then .ok else .addr va)
      else if s.canAlloc d then .wait va else .addr va

/-- The first result that is not ok. -/
def firstBad : List ARes → ARes
  | [] => .ok
  | .ok :: r => firstBad r
  | x :: _ => x

/-- The check of a range in a space (R247): sp 0 the Pane, 1 scratchpad, 2 HBM, 3 host pages. -/
def State.spCheck (s : State) (d sp a n : Nat) (wr : Bool) : ARes :=
  if n = 0 then .ok
  else
    match sp with
    | 0 => if a + n ≤ 524288 then .ok else .addr (max a 524288)
    | 1 => if a + n ≤ s.partSize d then .ok else .addr (max a (s.partSize d))
    | _ => firstBad ((cuts frameBytes a n).map (fun r => s.pageCheck d r.1 sp wr))

/-- R311, R313: the first access of a page without backing allocates a frame of zeros; R315: a written OFF page joins the
queue; R320: a page is in the step's trace once, at its first read after it was paged out, unless it is written again. -/
def State.pageUse (s : State) (d va : Nat) (wr : Bool) (keep : List Nat := []) : State :=
  let v := va / frameBytes
  match s.walk d va with
  | .leaf x e =>
    let s1 :=
      if leHost e || leRes e then s
      else if leFrame e = frameNone then
        match s.allocFrame d keep with
        | some (s', fr) => (s'.paZero d (fr * frameBytes) frameBytes).putEntry d x (leSet e fr true false)
        | none => s.noFrame d keep
      else s
    if leOff e && !leHost e then
      let c := s1.casement d
      if wr then
        s1.setCas d { c with outq := if NSet.mem c.wrote v then c.outq else c.outq.filter (· != v) ++ [v]
                             wrote := NSet.insert c.wrote v
                             outs := NSet.erase c.outs v
                             recent := c.recent.filter (· != v) }
      else
        let first := NSet.mem c.outs v && c.traceOn && !c.recent.contains v
        let full := decide (65536 ≤ c.recent.length)
        let s2 := s1.setCas d { c with
          outs := NSet.erase c.outs v
          recent := if first && !full then c.recent ++ [v] else c.recent
          traceOn := c.traceOn && !(first && full)
          prot := c.prot.filter (· != v)
          ptr := if c.trace.contains v then max c.ptr (c.trace.idxOf v + 1) else c.ptr }
        if first && full then s2.raise (rPga d 0x20) 2 else s2
    else s1
  | _ => s

/-- What an access does before its data moves: walks are checked, pages are allocated and noted (SPACE 2 and 3). -/
def State.spUse (s : State) (d sp a n : Nat) (wr : Bool) (keep : List Nat := []) : State :=
  if sp ≤ 1 then s
  else (cuts frameBytes a n).foldl (fun s r => (s.walkTouch d r.1).pageUse d r.1 wr keep) s

/-- Where a virtual address lies: in an HBM frame (casement physical address) or on the host (bus address, PSN). -/
inductive Place where
  | pa (x : Nat)
  | bus (a : Nat) (psn : Bool)
  | none
  deriving DecidableEq, Repr

def State.place (s : State) (d va : Nat) : Place :=
  match s.walk d va with
  | .leaf _ e =>
    if leHost e then .bus (s.hostFrame d (leFrame e) + va % frameBytes) (lePsn e)
    else if leRes e then .pa (leFrame e * frameBytes + va % frameBytes)
    else .none
  | _ => .none

/-- The grants and the ECC visits of a range before it is read, by a request of kind k (R305). -/
def State.spTouch (s : State) (d p sp a n : Nat) (k : TKind := .move) : State :=
  match sp with
  | 0 => s.paneTouch p a n
  | 1 => s.spadTouch d a n k
  | _ => (cuts frameBytes a n).foldl (fun s r =>
      match s.place d r.1 with
      | .pa x => s.paTouch d x r.2 k
      | .bus b _ => s.hostReadFor d b r.2
      | .none => s) s

/-- The bytes of a range with their poison. -/
def State.spRead (s : State) (d p sp a n : Nat) : List PByte :=
  match sp with
  | 0 => s.paneRead p a n
  | 1 => s.spadRead d a n
  | _ => (cuts frameBytes a n).flatMap (fun r =>
      match s.place d r.1 with
      | .pa x => s.paRead d x r.2
      | .bus b psn => s.hostChunks 1 b r.2 psn
      | .none => clean (List.replicate r.2 0))

/-- R321, R322: a write to a host page sets PSN when it carries poison; a whole clean page clears it. -/
def State.hostPagePsn (s : State) (d va : Nat) (bs : List PByte) : State :=
  match s.walk d va with
  | .leaf x e =>
    if ppsn bs then (if lePsn e then s else s.putEntry d x (leSet e (leFrame e) (leRes e) true))
    else if bs.length = frameBytes && lePsn e then s.putEntry d x (leSet e (leFrame e) (leRes e) false)
    else s
  | _ => s

/-- Write bytes with their poison to a range. -/
def State.spWrite (s : State) (d p sp a : Nat) (bs : List PByte) : State :=
  match sp with
  | 0 => s.paneWrite p a bs
  | 1 => s.spadWrite d a bs
  | _ => foldPieces (fun s va b =>
      match s.place d va with
      | .pa x => s.paWrite d x b
      | .bus h _ => (s.hostWrite (s.casement d).owner h (pvals b)).hostPagePsn d va b
      | .none => s) (cuts frameBytes a bs.length) bs s

/-- The address of the first poisoned byte of a range. -/
def firstPoison (a : Nat) : List PByte → Option Nat
  | [] => none
  | b :: r => if b.2 then some a else firstPoison (a + 1) r

end Sys2Proof.Machine
end

