-- ==== Sys2Proof/Machine/FabBase.lean ====
section
/-! DEFINITION. The parts of the fabric that everything else needs (12_fabric.md): which ports a casement holds, routing
(R340 to R343), handing a frame to a port's transmitter (R329, R334), and entering HOLD (R359, R360). -/

namespace Sys2Proof.Machine

/-! ### Ports and casements -/

/-- R327: the die of port p (N, E, S, W, U0 to U3). -/
def portDie (p : Nat) : Nat := nth [0, 1, 3, 2, 0, 1, 2, 3] p 0
def rPort (p o : Nat) : Nat := 0x0201000 + 0x100 * p + o
def rFab (d o : Nat) : Nat := 0x0202000 + 0x40 * d + o
def State.portState (s : State) (p : Nat) : Nat := s.rf (rPort p 0) 2 0
def State.portUp (s : State) (p : Nat) : Bool := s.portState p == 2
/-- The ports of a casement's dies in the order N, E, S, W, U0 to U3 (R353). -/
def portsOf (mask : Nat) : List Nat := (List.range 8).filter (fun p => bit mask (portDie p))
def State.pkgId (s : State) : Nat := s.rf 0x0200000 15 0
def State.fabState (s : State) (d : Nat) : Nat := s.rf (rFab d 0x18) 1 0

/-- R347: the valid members of casement d in ascending member index, as (index, package). -/
def State.members (s : State) (d : Nat) : List (Nat × Nat) :=
  let mb := s.rf (rFab d 4) 11 0
  let mc := s.rf (rFab d 4) 24 12
  ((List.range mc).map (fun m => (m, s.reg (0x0210000 + 4 * (mb + m))))).filterMap
    (fun x => if rfld x.2 16 16 = 1 then some (x.1, rfld x.2 15 0) else none)

/-- R348: the packages of a group's valid members in ascending rank. -/
def State.groupPkgs (s : State) (d g : Nat) : List Nat :=
  let k := 0x0218000 + 8 * (s.rf (rFab d 8) 11 0 + g)
  let first := s.rf k 11 0
  let count := s.rf k 23 12
  let stride := s.rf k 31 24 + s.rf (k + 4) 3 0 * 256
  let ms := s.members d
  (List.range count).filterMap (fun j => (ms.find? (fun m => m.1 == first + j * stride)).map (·.2))

/-- R347: the ring successor of this package. -/
def State.successor (s : State) (d : Nat) : Nat :=
  let ms := (s.members d).map (·.2)
  match ms.idxOf? s.pkgId with
  | some i => nth ms ((i + 1) % ms.length) s.pkgId
  | none => s.pkgId

/-! ### Routing (R340 to R343) -/

def routeKey (id : Nat) : Nat := 0x0400000 + 8 * id

/-- What R342 does with a frame. -/
inductive Route where
  | deliver
  | drop
  | fwd (p : Nat) (esc : Bool)
  deriving DecidableEq, Repr

/-- R346: the tag that casement d's frames carry: FAB_CTAGd. -/
def State.fabTag (s : State) (d : Nat) : Nat := s.rf (rFab d 0) 15 0

/-- The casement whose fabric tag is g, if any (R342, R346). -/
def State.fabOf (s : State) (g : Nat) : Option Nat := (List.range 4).find? (fun d => (s.casement d).exist && s.fabTag d == g)

/-- R342, rules 2 to 7, and rule 1 for the package's own ID. -/
def State.route (s : State) (dest ctag : Nat) (downed : Bool) : Route :=
  if dest = s.pkgId then (if (s.fabOf ctag).isSome then .deliver else .drop)
  else if downed then .drop
  else
    let k := routeKey dest
    let port := s.rf k 3 0
    let alt := s.rf k 7 4
    if s.rf k 8 8 = 0 ∨ port = 15 then .drop
    else if s.rf k 9 9 = 1 ∧ s.rf k 31 16 ≠ ctag then .drop
    else if 1 ≤ port ∧ port ≤ 8 ∧ s.portUp (port - 1) then .fwd (port - 1) false
    else if 5 ≤ alt ∧ alt ≤ 8 ∧ s.portUp (alt - 1) then .fwd (alt - 1) true
    else .drop

/-! ### The transmitter (R329, R334) -/

/-- R333: the pool of 6,144 chunks as FAB_FLOOR divides it, M0's floor with its 256 escape chunks. -/
def State.pool (s : State) : Credits :=
  let v := (s.reg 0x0200008).toNat
  let f := [32 * fld v 7 0 - 256, 32 * fld v 15 8, 32 * fld v 23 16, 32 * fld v 31 24]
  ⟨f, 256, 6144 - 256 - f.foldl (· + ·) 0⟩

/-- The chunks that a frame takes (R334). -/
def frameNeed (fr : Frame) : Nat := frameChunks fr.body + 1

/-- R334: the credits a frame spends: an ESC frame escape credits, another its class's floor, then shared; none when they are not
enough. -/
def Credits.spend (x : Credits) (fr : Frame) : Option Credits :=
  let need := frameNeed fr
  if fr.esc then (if need ≤ x.esc then some { x with esc := x.esc - need } else none)
  else
    let fl := nth x.floor fr.cls 0
    if need ≤ fl then some { x with floor := setNth x.floor fr.cls (fl - need) }
    else if need ≤ fl + x.shared then
      some { x with floor := setNth x.floor fr.cls 0, shared := x.shared - (need - fl) }
    else none

/-- The class under which a frame's chunks come back: escape chunks are part of M0's floor (R333; log 33). -/
def retCls (fr : Frame) : Nat := if fr.esc then 0 else fr.cls

/-- R334: n chunks of class c come back: the floor first, for M0 then its escape part, then the shared pool. -/
def Credits.refill (x cap : Credits) (c n : Nat) : Credits :=
  let fl := nth x.floor c 0
  let a := min n (nth cap.floor c 0 - fl)
  let e := if c = 0 then min (n - a) (cap.esc - x.esc) else 0
  ⟨setNth x.floor c (fl + a), x.esc + e, min cap.shared (x.shared + (n - a - e))⟩

/-- Chunks of a received frame are free again: the pool has room, and they go back to the sender by class. -/
def Port.giveBack (x : Port) (fr : Frame) : Port :=
  { x with room := x.room.refill x.cap (retCls fr) (frameNeed fr)
           ret := setNth x.ret (retCls fr) (nth x.ret (retCls fr) 0 + frameNeed fr) }

/-- The port at the start of a training (R328, R333): the pool as the floors in force divide it; what it had received stays. -/
def Port.fresh (x : Port) (pool : Credits) : Port :=
  { Port.reset with rxq := x.rxq, inbox := x.inbox.filter (fun f => match f.body with | .hello _ _ => false | _ => true)
                    cap := pool, cr := pool, room := pool, found := x.found, drops := x.drops, bad := x.bad }

/-- A PIECE with bit 0 of its payload chunk 0 inverted (R371). -/
def flipBody (b : FBody) : FBody :=
  match b with
  | .piece h o l (c :: r) => .piece h o l ((c ^^^ 1) :: r)
  | x => x

/-- The kinds of frame. -/
def isPreq (b : FBody) : Bool := match b with | .preq _ _ _ _ _ _ _ _ _ => true | _ => false
def isGrant (b : FBody) : Bool := match b with | .grant _ _ => true | _ => false
def isDeliver (b : FBody) : Bool := match b with | .deliver _ _ _ _ => true | _ => false
def isDigest (b : FBody) : Bool := match b with | .digest _ _ => true | _ => false
def isAck (b : FBody) : Bool := match b with | .ack _ _ => true | _ => false
def isErr (b : FBody) : Bool := match b with | .err _ _ => true | _ => false
def isToken (b : FBody) : Bool := match b with | .token _ => true | _ => false
def isHold (b : FBody) : Bool := match b with | .hold _ => true | _ => false
def isHello (b : FBody) : Bool := match b with | .hello _ _ => true | _ => false
def isPiece (b : FBody) : Bool := match b with | .piece _ _ _ _ => true | _ => false

/-- Bit 0 of byte 28 of a frame inverted: bit 0 of payload chunk 0, or of the CRC where there is no payload (R371; log 51). -/
def flipBytes (b : List Nat) : List Nat := b.mapIdx (fun i x => if i = 28 then x ^^^ 1 else x)

/-- R329: a frame leaves port p with its link fields: LSEQ, LACK, NAK and the credits returned, at most 255 chunks a class; an
armed injection of code 0x09 spoils it after its CRC is formed, one of code 0x0A a PIECE after its digest is formed (R371). -/
def State.sendNow (s : State) (p : Nat) (x : Port) (fr : Frame) : State :=
  let dig := s.injArmed 0x0A p && isPiece fr.body
  let line := s.injArmed 0x09 p
  let out := { fr with body := if dig then flipBody fr.body else fr.body
                       lseq := x.txNext, lack := (x.rxNext + 4095) % 4096, nak := x.nak, cret := x.ret.map (min 255) }
  let s1 := if dig || line then s.injFire else s
  (s1.setPort p { x with txNext := (x.txNext + 1) % 4096, unacked := x.unacked ++ [out], nak := false
                         ret := x.ret.map (fun n => n - min 255 n) }).emit
    (.frame p (if line then flipBytes (wireBytes out) else wireBytes out))

/-- The next frame that may be sent: in order within each class and kind of credit, passing over those whose credits are not enough
(R334, R335); with the credits left and the frames that go on waiting. -/
def Credits.pick (x : Credits) : List (Nat × Bool) → List Frame → Option (Frame × Credits × List Frame)
  | _, [] => none
  | no, fr :: r =>
    if no.contains (fr.cls, fr.esc) then (Credits.pick x no r).map (fun y => (y.1, y.2.1, fr :: y.2.2))
    else match x.spend fr with
      | some c => some (fr, c, r)
      | none => (Credits.pick x ((fr.cls, fr.esc) :: no) r).map (fun y => (y.1, y.2.1, fr :: y.2.2))

/-- The transmitters are electrically idle: sealed, or in the safe state (R432, R448). -/
def State.txIdle (s : State) : Bool := s.rf 0x0020808 8 8 == 1 || s.rf 0x0020804 2 0 == 2 || s.rf 0x0020804 2 0 == 5

/-- Send waiting frames while the link is up, credits last and fewer than 2,048 frames are unacknowledged; fuel is the number of
frames at most. -/
def State.pumpTx (s : State) (p : Nat) : Nat → State
  | 0 => s
  | n + 1 =>
    let x := s.port p
    if !s.portUp p || s.txIdle || decide (2048 ≤ x.unacked.length) then s
    else match x.cr.pick [] x.txq with
      | some (fr, c, r) => State.pumpTx (s.sendNow p { x with cr := c, txq := r } fr) p n
      | none => s

/-- Hand a frame to port p's transmitter. -/
def State.tx (s : State) (p : Nat) (fr : Frame) : State :=
  let x := s.port p
  (s.setPort p { x with txq := x.txq ++ [fr] }).pumpTx p (x.txq.length + 1)

/-- A frame of this package's own. -/
def State.ownFrame (s : State) (dest ctag psn : Nat) (b : FBody) : Frame :=
  ⟨b, frameCls b, false, false, false, dest, s.pkgId, ctag, psn, 0, 0, [0, 0, 0, 0]⟩

/-- Send a frame to another package; false when no route takes it (R342). -/
def State.sendTo (s : State) (dest ctag psn : Nat) (b : FBody) : State × Bool :=
  let fr := s.ownFrame dest ctag psn b
  match s.route dest ctag false with
  | .fwd p esc => (s.tx p { fr with esc := esc }, true)
  | _ => (s, false)

/-! ### The arm (R457) -/

/-- R457: an ARMED entry becomes RIPE when the casement of its CTAG has reached its EPOCH. n: the number of the register arbiter's
grant that brought it there, 0 where none did (R27). -/
def State.ripen (s : State) (d : Nat) (n : Nat := 0) : State :=
  if s.jrn.st = 3 ∧ s.tagOf d = s.jrn.ctag ∧ s.jrn.epoch ≤ (s.reg (rFab d 0x10)).toNat then
    (s.journal { s.jrn with st := 4 }).post { kind := 9, ctag := s.tagOf d, arbseq := n }
  else s

/-- R457: the casement of the arm's CTAG ends. -/
def State.disarmEnd (s : State) (d : Nat) : State :=
  if s.jrn.st = 3 ∧ s.tagOf d = s.jrn.ctag then (s.journal { s.jrn with st := 2 }).post { kind := 9, ctag := s.tagOf d } else s

/-! ### Ending a program, and HOLD (R250, R359, R360) -/

/-- Every issued instruction that waits on another tile or on the fabric is abandoned; the others stay to run to
completion; nothing more issues (R250 step 4, R360). -/
def LTile.stop (x : LTile) : LTile :=
  match x.phase with
  | .running | .ended | .boundary =>
    { x with phase := .stopped, ibuf := [], inc := x.inc.filter (fun i => decide (i.kind = .plain)) }
  | _ => x

/-- An instruction of logical tile t waits on the fabric: an ARED, a TOKEN, a RECV whose count is not met and whose counter a shard
still to be delivered to the tile would raise (R280). -/
def LTile.onFabric (x : LTile) (f : Fab) (t : Nat) (k : IKind) : Bool :=
  match k with
  | .ared | .token => true
  | .recv n c => decide (x.acnt n < c) && f.shards.any (fun h => h.tile == t && h.cnt == n)
  | .plain | .send _ | .red _ | .step => false

/-- R360: as LTile.stop, but only instructions that wait on the fabric, which held f, are abandoned. -/
def LTile.holdStop (f : Fab) (t : Nat) (x : LTile) : LTile :=
  match x.phase with
  | .running | .ended | .boundary =>
    { x with phase := .stopped, ibuf := [], inc := x.inc.filter (fun i => !x.onFabric f t i.kind) }
  | _ => x

/-- The logical tiles of casement d, each changed by f with its index. -/
def State.mapIdxLts (s : State) (d : Nat) (f : Nat → LTile → LTile) : State :=
  (List.range (s.casement d).nlt).foldl (fun s t => s.setLt d t (f t (s.lt d t))) s

/-- The logical tiles of casement d. -/
def State.mapLts (s : State) (d : Nat) (f : LTile → LTile) : State := s.mapIdxLts d (fun _ => f)

/-- R250, R360, R409: the program of casement d ends, its tiles stopping as f says, with the event of number eseq; START's second
record will say STOPPED. -/
def State.endBy (s : State) (f : Nat → LTile → LTile) (d eseq : Nat) : State :=
  let c := s.casement d
  if c.phase = .running then
    let s1 := (s.mapIdxLts d f).setCas d { c with phase := .stopped, quiesce := false, start := none }
    match c.start with
    | some r =>
      let x := s1.fn r.f
      s1.setFn r.f { x with recs := x.recs ++ [⟨r.seq, 0x21, 0x05, r.tag, r.aseq, eseq⟩] }
    | none => s1
  else s

/-- R250, R409: the program ends and every wait is abandoned. -/
def State.endProgram (s : State) (d eseq : Nat) : State := s.endBy (fun _ => LTile.stop) d eseq

/-- R360: the program ends by a HOLD; f is what the ports held of the casement. -/
def State.endHeld (s : State) (d eseq : Nat) (f : Fab) : State := s.endBy (LTile.holdStop f) d eseq

/-- R360: the member's ports discard every piece, grant and partial of the casement. -/
def State.fabDiscard (s : State) (d : Nat) : State :=
  let f := s.fab d
  s.setFab d { Fab.reset with nextReq := f.nextReq, nextHandle := f.nextHandle }

/-- R359, R360: a LIVE member enters HOLD with a cause, sends HOLD to every other valid member, and ends its program. n: the number
of the register arbiter's grant that asked for it, 0 where none did (R27). -/
def State.enterHold (s : State) (d cause : Nat) (n : Nat := 0) : State :=
  if s.fabState d = 1 then
    let f := s.fab d
    let s1 := (s.setRf (rFab d 0x18) 1 0 2).setRf (rFab d 0x18) 11 8 cause
    let s2 := s1.fabDiscard d
    let own := s2.pkgId
    let s3 := (((s2.members d).map (·.2)).filter (· != own)).foldl
      (fun s m => (s.sendTo m (s.fabTag d) 0 (.hold cause)).1) s2
    let eseq := s3.arbN arbEvent
    (s3.post { kind := 4, unit := d, ctag := s3.tagOf d, arbseq := n, info := cause }).endHeld d eseq f
  else s

end Sys2Proof.Machine
end

