-- ==== Sys2Proof/Machine/Num.lean ====
section
/-! DEFINITION. Exact numbers and rounding. Every product and sum of the X576's formats is exact before it is rounded (R68,
R74, R84, R100), so values are dyadic numbers, rounded once where the manual says. rne, ru and the stochastic rule all
cut the same exact quotient. -/

namespace Sys2Proof.Machine

/-- An exact dyadic number m * 2^e. -/
structure Dy where
  m : Int
  e : Int
  deriving DecidableEq, Repr

/-- An exact value or a special, as a product or a sum before rounding (R80). It has no signed zero. -/
inductive XV where
  | fin (d : Dy)
  | inf (neg : Bool)
  | nan
  deriving DecidableEq, Repr

/-- A value of a floating format: sign, magnitude m * 2^e, or a special (R42, R44). Zeros carry a sign. -/
inductive FV where
  | fin (neg : Bool) (m : Nat) (e : Int)
  | inf (neg : Bool)
  | nan
  deriving DecidableEq, Repr

def Dy.zero : Dy := ⟨0, 0⟩

/-- 2^n as an integer for n >= 0. -/
def pow2 (n : Int) : Int := ((2 ^ n.toNat : Nat) : Int)

def Dy.add (a b : Dy) : Dy :=
  if a.m = 0 then b else if b.m = 0 then a
  else
    let e := min a.e b.e
    ⟨a.m * pow2 (a.e - e) + b.m * pow2 (b.e - e), e⟩

def Dy.neg (a : Dy) : Dy := ⟨-a.m, a.e⟩
def Dy.sub (a b : Dy) : Dy := a.add b.neg
def Dy.mul (a b : Dy) : Dy := ⟨a.m * b.m, a.e + b.e⟩
def Dy.abs (a : Dy) : Dy := ⟨(a.m.natAbs : Int), a.e⟩
def Dy.isZero (a : Dy) : Bool := a.m == 0
def Dy.ofNat (n : Nat) : Dy := ⟨(n : Int), 0⟩
def Dy.ofInt (n : Int) : Dy := ⟨n, 0⟩
/-- a * 2^k -/
def Dy.scale (a : Dy) (k : Int) : Dy := ⟨a.m, a.e + k⟩
/-- a < b on exact values. -/
def Dy.lt (a b : Dy) : Bool := decide ((a.sub b).m < 0)
def Dy.le (a b : Dy) : Bool := decide ((a.sub b).m ≤ 0)
def Dy.eq (a b : Dy) : Bool := (a.sub b).m == 0
def Dy.max (a b : Dy) : Dy := if a.lt b then b else a
def Dy.sum (l : List Dy) : Dy := l.foldl Dy.add Dy.zero
/-- floor(log2 |a|) for a nonzero a. -/
def Dy.top (a : Dy) : Int := (a.m.natAbs.log2 : Int) + a.e

/-! ### Rounding a magnitude num/den -/

/-- How a quotient is cut to a grid. -/
inductive RMode where
  | floor
  | ceil
  | rne
  deriving DecidableEq, Repr

/-- num/den cut to an integer: down, up, or to nearest with ties to even. -/
def cutDiv (rm : RMode) (num den : Nat) : Nat :=
  let q := num / den
  let r := num % den
  match rm with
  | .floor => q
  | .ceil => if r = 0 then q else q + 1
  | .rne => if 2 * r < den then q else if den < 2 * r then q + 1 else if q % 2 = 0 then q else q + 1

/-- floor(log2(num/den)) for positive num and den. -/
def ilog2 (num den : Nat) : Int :=
  let a : Int := (num.log2 : Int) - (den.log2 : Int)
  let below := if 0 ≤ a then decide (num < den * 2 ^ a.toNat) else decide (num * 2 ^ (-a).toNat < den)
  if below then a - 1 else a

/-- The code, as a number, of the magnitude num/den cut to a grid of p mantissa bits and the given exponent bias
(subnormals kept). Codes of such a format rise with the values they stand for, so a carry out of the mantissa is the
next exponent's code. -/
def magCode (rm : RMode) (p bias num den : Nat) : Nat :=
  if num = 0 then 0
  else
    let qmin : Int := 1 - (bias : Int) - (p : Int)
    let q := max (ilog2 num den - (p : Int)) qmin
    let k := if 0 ≤ q then cutDiv rm num (den * 2 ^ q.toNat) else cutDiv rm (num * 2 ^ (-q).toNat) den
    (q - qmin).toNat * 2 ^ p + k

/-- The magnitude that a code of such a format stands for. -/
def codeMag (p bias code : Nat) : Dy :=
  let e := code / 2 ^ p
  let m := code % 2 ^ p
  if e = 0 then ⟨(m : Int), 1 - (bias : Int) - (p : Int)⟩
  else ⟨((2 ^ p + m : Nat) : Int), (e : Int) - (bias : Int) - (p : Int)⟩

/-- A nonnegative dyadic as a fraction. -/
def Dy.frac (a : Dy) : Nat × Nat :=
  if 0 ≤ a.e then (a.m.natAbs * 2 ^ a.e.toNat, 1) else (a.m.natAbs, 2 ^ (-a.e).toNat)

/-- The quotient |a| / |b| of two dyadics as a fraction (b nonzero). -/
def Dy.ratio (a b : Dy) : Nat × Nat :=
  let (an, ad) := a.frac
  let (bn, bd) := b.frac
  (an * bd, ad * bn)

/-! ### Floating formats -/

/-- A signed floating format: mantissa bits, exponent bias, largest finite code, whether the next code is an infinity,
the canonical NaN (R46) and the sign's place. -/
structure FFmt where
  p : Nat
  bias : Nat
  maxc : Nat
  hasInf : Bool
  nanc : Nat
  sgn : Nat
  deriving DecidableEq, Repr

/-- AF32 (R44). -/
def ffAF32 : FFmt := ⟨23, 127, 0x7F7FFFFF, true, 0x7FC00000, 31⟩
/-- BF16 (R42). -/
def ffBF16 : FFmt := ⟨7, 127, 0x7F7F, true, 0x7FC0, 15⟩
/-- binary16 (R42). -/
def ffF16 : FFmt := ⟨10, 15, 0x7BFF, true, 0x7E00, 15⟩
/-- E5M2 (R41). -/
def ffE5M2 : FFmt := ⟨2, 15, 0x7B, true, 0x7E, 7⟩
/-- E4M3 (R40): no infinity. -/
def ffE4M3 : FFmt := ⟨3, 7, 0x7E, false, 0x7F, 7⟩

/-- Read a code of the format (R40 to R46). -/
def FFmt.dec (f : FFmt) (code : Nat) : FV :=
  let neg := bit code f.sgn
  let mag := code % 2 ^ f.sgn
  if mag ≤ f.maxc then
    let d := codeMag f.p f.bias mag
    .fin neg d.m.natAbs d.e
  else if f.hasInf && mag == f.maxc + 1 then .inf neg
  else .nan

/-- The code of a magnitude code and a sign, a magnitude past the largest finite one becoming an infinity of that sign
(or, in a format without infinities, the largest finite value). -/
def FFmt.pack (f : FFmt) (neg : Bool) (mag : Nat) : Nat :=
  b2n neg * 2 ^ f.sgn + (if mag ≤ f.maxc then mag else if f.hasInf then f.maxc + 1 else f.maxc)

/-- rne of a value into the format (03_product_arithmetic.md), NaN written canonically (R46); an infinity in a format without
infinities becomes the NaN (R103). -/
def FFmt.enc (f : FFmt) (v : FV) : Nat :=
  match v with
  | .nan => f.nanc
  | .inf neg => if f.hasInf then b2n neg * 2 ^ f.sgn + (f.maxc + 1) else f.nanc
  | .fin neg m e =>
    let (n, d) := Dy.frac ⟨(m : Int), e⟩
    f.pack neg (magCode .rne f.p f.bias n d)

/-- rne of an exact value (a zero is +0, R79). -/
def FFmt.encX (f : FFmt) (v : XV) : Nat :=
  match v with
  | .nan => f.nanc
  | .inf neg => f.enc (.inf neg)
  | .fin d => f.enc (.fin (decide (d.m < 0)) d.m.natAbs d.e)

/-- The exact value of a floating value (-0 becomes 0). -/
def FV.toX (v : FV) : XV :=
  match v with
  | .nan => .nan
  | .inf s => .inf s
  | .fin neg m e => .fin ⟨if neg then -(m : Int) else (m : Int), e⟩

def FV.toDy (v : FV) : Dy :=
  match v with
  | .fin neg m e => ⟨if neg then -(m : Int) else (m : Int), e⟩
  | _ => Dy.zero

def FV.neg (v : FV) : FV :=
  match v with
  | .nan => .nan
  | .inf s => .inf (!s)
  | .fin s m e => .fin (!s) m e

def FV.isNaN (v : FV) : Bool := match v with | .nan => true | _ => false
def FV.isInf (v : FV) : Bool := match v with | .inf _ => true | _ => false
def FV.isFin (v : FV) : Bool := match v with | .fin _ _ _ => true | _ => false
def FV.isNeg (v : FV) : Bool := match v with | .fin s _ _ => s | .inf s => s | .nan => false
def FV.isZero (v : FV) : Bool := match v with | .fin _ m _ => m == 0 | _ => false
def FV.abs (v : FV) : FV := match v with | .nan => .nan | .inf _ => .inf false | .fin _ m e => .fin false m e
def FV.scale (v : FV) (k : Int) : FV := match v with | .fin s m e => .fin s m (e + k) | x => x

/-- The exact sum with IEEE 754's specials and zero signs under roundTiesToEven (R79, R80). -/
def FV.add (a b : FV) : FV :=
  match a, b with
  | .nan, _ => .nan
  | _, .nan => .nan
  | .inf s, .inf t => if s = t then .inf s else .nan
  | .inf s, .fin _ _ _ => .inf s
  | .fin _ _ _, .inf t => .inf t
  | .fin s m e, .fin t n g =>
    if m = 0 ∧ n = 0 then .fin (s && t) 0 0
    else
      let r := (FV.toDy (.fin s m e)).add (FV.toDy (.fin t n g))
      .fin (decide (r.m < 0)) r.m.natAbs r.e

def FV.sub (a b : FV) : FV := a.add b.neg

/-- The exact product with IEEE 754's specials. -/
def FV.mul (a b : FV) : FV :=
  match a, b with
  | .nan, _ => .nan
  | _, .nan => .nan
  | .inf s, .inf t => .inf (s != t)
  | .inf s, .fin t n _ => if n = 0 then .nan else .inf (s != t)
  | .fin s m _, .inf t => if m = 0 then .nan else .inf (s != t)
  | .fin s m e, .fin t n g => .fin (s != t) (m * n) (e + g)

/-- A quotient cut to an exact value with one sticky bit below 100 significant bits: every later rne gives what the exact
quotient would give. -/
def jamDiv (num den : Nat) : Dy :=
  if num = 0 then Dy.zero
  else
    let sh := 100 + (den.log2 : Int) - (num.log2 : Int)
    let (n, d) := if 0 ≤ sh then (num * 2 ^ sh.toNat, den) else (num, den * 2 ^ (-sh).toNat)
    ⟨((2 * (n / d) + (if n % d = 0 then 0 else 1) : Nat) : Int), -sh - 1⟩

/-- a / b under R271: by zero an infinity of the exact sign, 0/0 NaN. -/
def FV.div (a b : FV) : FV :=
  match a, b with
  | .nan, _ => .nan
  | _, .nan => .nan
  | .inf _, .inf _ => .nan
  | .inf s, .fin t _ _ => .inf (s != t)
  | .fin s _ _, .inf t => .fin (s != t) 0 0
  | .fin s m e, .fin t n g =>
    if n = 0 then (if m = 0 then .nan else .inf (s != t))
    else
      let q := jamDiv m n
      .fin (s != t) q.m.natAbs (q.e + e - g)

/-- floor(sqrt n), one bit at a time from bit k down. -/
def isqrtFrom : Nat → Nat → Nat → Nat
  | 0, n, r => if (r + 1) * (r + 1) ≤ n then r + 1 else r
  | k + 1, n, r =>
    let r' := r + 2 ^ (k + 1)
    isqrtFrom k n (if r' * r' ≤ n then r' else r)

def isqrt (n : Nat) : Nat := isqrtFrom (n.log2 / 2 + 1) n 0

/-- sqrt with one sticky bit (correctly rounded after any later rne), R271: sqrt(-0) is -0, of a negative NaN. -/
def FV.sqrt (a : FV) : FV :=
  match a with
  | .nan => .nan
  | .inf s => if s then .nan else .inf false
  | .fin s m e =>
    if m = 0 then .fin s 0 0
    else if s then .nan
    else
      let e' := if e % 2 = 0 then e else e - 1
      let m' := if e % 2 = 0 then m else 2 * m
      let n := m' * 2 ^ 200
      let r := isqrt n
      .fin false (2 * r + (if r * r = n then 0 else 1)) (e' / 2 - 101)

/-- The fixed-point working precision of EXP2 and LOG2. -/
def elP : Nat := 256

/-- The product of 2^(2^-i) over the set bits of the k-bit fraction f (bit k-1 is i = 1), each root taken down to
elP bits; root is the last root taken, acc the product so far. -/
def exp2Frac : Nat → Nat → Nat → Nat → Nat
  | 0, _, _, acc => acc
  | k + 1, f, root, acc =>
    let root' := isqrt (root * 2 ^ elP)
    exp2Frac k f root' (if bit f k then acc * root' / 2 ^ elP else acc)

/-- 2^a (R271), irrational values carrying a sticky bit below elP bits, so that every later rne is the correct rounding. -/
def FV.exp2 (a : FV) : FV :=
  match a with
  | .nan => .nan
  | .inf s => if s then .fin false 0 0 else .inf false
  | .fin s m e =>
    let d := FV.toDy (.fin s m e)
    if d.m = 0 then .fin false 1 0
    else if 9 ≤ d.top then (if s then .fin false 1 (-1000) else .fin false 1 1000)
    else if d.top < -200 then .fin false (if s then 2 ^ 200 - 1 else 2 ^ 200 + 1) (-200)
    else
      let k := (-e).toNat
      let x := d.m * pow2 (max e 0)
      let n := x / ((2 ^ k : Nat) : Int)
      let f := (x % ((2 ^ k : Nat) : Int)).toNat
      if f = 0 then .fin false 1 n
      else .fin false (2 * exp2Frac k f (2 * 2 ^ elP) (2 ^ elP) + 1) (n - (elP : Int) - 1)

/-- The first n bits of log2 of y / 2^elP, for y / 2^elP in [1, 2). -/
def log2Bits : Nat → Nat → Nat → Nat
  | 0, _, acc => acc
  | n + 1, y, acc =>
    let z := y * y / 2 ^ elP
    if 2 ^ (elP + 1) ≤ z then log2Bits n (z / 2) (2 * acc + 1) else log2Bits n z (2 * acc)

/-- log2 a (R271): of a zero -infinity, of 1 +0, of a negative number NaN. -/
def FV.log2 (a : FV) : FV :=
  match a with
  | .nan => .nan
  | .inf s => if s then .nan else .inf false
  | .fin s m e =>
    if m = 0 then .inf true
    else if s then .nan
    else
      let t := m.log2
      let n : Int := e + (t : Int)
      if m = 2 ^ t then .fin (decide (n < 0)) n.natAbs 0
      else
        let b := log2Bits 140 (m * 2 ^ elP / 2 ^ t) 0
        let v : Int := 2 * (n * pow2 140 + (b : Int)) + 1
        .fin (decide (v < 0)) v.natAbs (-141)

/-- Order of two floating values that are not NaN, -0 below +0 (R271, R272). -/
def FV.ltz (a b : FV) : Bool :=
  match a, b with
  | .inf s, .inf t => s && !t
  | .inf s, _ => s
  | _, .inf t => !t
  | .fin s m e, .fin t n g =>
    if m = 0 ∧ n = 0 then s && !t
    else (FV.toDy (.fin s m e)).lt (FV.toDy (.fin t n g))
  | _, _ => false

/-- IEEE 754 equality and order, false when either is NaN. -/
def FV.feq (a b : FV) : Bool :=
  match a, b with
  | .inf s, .inf t => s == t
  | .fin s m e, .fin t n g => (FV.toDy (.fin s m e)).eq (FV.toDy (.fin t n g))
  | _, _ => false

def FV.flt (a b : FV) : Bool :=
  match a, b with
  | .nan, _ => false
  | _, .nan => false
  | .inf s, .inf t => s && !t
  | .inf s, .fin _ _ _ => s
  | .fin _ _ _, .inf t => !t
  | .fin s m e, .fin t n g => (FV.toDy (.fin s m e)).lt (FV.toDy (.fin t n g))

/-- The greater magnitude of two finite dyadics, folded over a list. -/
def Dy.maxAbs (l : List Dy) : Dy := l.foldl (fun a d => a.max d.abs) Dy.zero

/-! ### AF32 arithmetic on bit patterns, one rne per operation (R76 to R78, R173) -/

def afv (c : Nat) : FV := ffAF32.dec c
def afAdd (a b : Nat) : Nat := ffAF32.enc ((afv a).add (afv b))
def afSub (a b : Nat) : Nat := ffAF32.enc ((afv a).sub (afv b))
def afMul (a b : Nat) : Nat := ffAF32.enc ((afv a).mul (afv b))
def afDiv (a b : Nat) : Nat := ffAF32.enc ((afv a).div (afv b))
def afSqrt (a : Nat) : Nat := ffAF32.enc (afv a).sqrt
def afNeg (a : Nat) : Nat := if bit a 31 then a - 2 ^ 31 else a + 2 ^ 31
/-- a * 2^k, rounded (R173). -/
def afScale (a : Nat) (k : Int) : Nat := ffAF32.enc ((afv a).scale k)
def afIsFin (a : Nat) : Bool := (afv a).isFin
/-- R44, R46: an AF32 code as the X576 writes it: every NaN is the canonical one. -/
def afCanon (a : Nat) : Nat := if (afv a).isNaN then 0x7FC00000 else a

/-- R77: one level of the pairwise tree, an odd last element carried unchanged. -/
def treeLevel {α : Type} (op : α → α → α) : List α → List α
  | a :: b :: r => op a b :: treeLevel op r
  | l => l

/-- R77: the pairwise tree over the partials in ascending index; fuel is the number of levels at most. -/
def treeFold {α : Type} (op : α → α → α) : Nat → List α → List α
  | 0, l => l
  | n + 1, l => match l with
    | [] => []
    | [a] => [a]
    | l => treeFold op n (treeLevel op l)

/-- The root of R77's tree (+0 of an empty list). -/
def afTree (l : List Nat) : Nat := (treeFold afAdd l.length l).headD 0

end Sys2Proof.Machine
end

