-- ==== Sys2Proof/Machine/Formats.lean ====
section
/-! DEFINITION. The eleven format codes, element and scale encodings, and the value of an element (02_number_formats.md,
R34 to R51). -/

namespace Sys2Proof.Machine

/-- R34: the assigned format codes. -/
inductive Fmt where
  | e2m1 | s4 | u4 | e4m3 | e5m2 | bf16 | f16 | af32 | s8 | ue5m3 | cs16
  deriving DecidableEq, Repr

/-- R34: the format named by a 4-bit code; none for the reserved codes 0xB to 0xF. -/
def Fmt.ofCode (c : Nat) : Option Fmt :=
  match c with
  | 0 => some .e2m1
  | 1 => some .s4
  | 2 => some .u4
  | 3 => some .e4m3
  | 4 => some .e5m2
  | 5 => some .bf16
  | 6 => some .f16
  | 7 => some .af32
  | 8 => some .s8
  | 9 => some .ue5m3
  | 10 => some .cs16
  | _ => none

def Fmt.code (f : Fmt) : Nat :=
  match f with
  | .e2m1 => 0 | .s4 => 1 | .u4 => 2 | .e4m3 => 3 | .e5m2 => 4 | .bf16 => 5 | .f16 => 6
  | .af32 => 7 | .s8 => 8 | .ue5m3 => 9 | .cs16 => 10

/-- R34: bits of one element. -/
def Fmt.bits (f : Fmt) : Nat :=
  match f with
  | .e2m1 | .s4 | .u4 => 4
  | .e4m3 | .e5m2 | .s8 | .ue5m3 => 8
  | .bf16 | .f16 | .cs16 => 16
  | .af32 => 32

/-- R54: the formats with a fine-scale plane. -/
def Fmt.hasFine (f : Fmt) : Bool :=
  match f with | .e2m1 | .s4 | .u4 | .s8 => true | _ => false

/-- R64: the formats with a coarse scale, hence a tensor scale record. -/
def Fmt.hasRecord (f : Fmt) : Bool :=
  match f with | .e2m1 | .s4 | .u4 | .s8 | .e4m3 | .e5m2 => true | _ => false

/-- BF16, binary16 or AF32: the wide formats. -/
def Fmt.isWide (f : Fmt) : Bool :=
  match f with | .bf16 | .f16 | .af32 => true | _ => false

/-- The floating format of a wide format or an eight-bit float. -/
def Fmt.ff (f : Fmt) : FFmt :=
  match f with
  | .bf16 => ffBF16 | .f16 => ffF16 | .e4m3 => ffE4M3 | .e5m2 => ffE5M2 | _ => ffAF32

/-- R57: the alignment of the data plane and its stride, the bytes of one group. -/
def Fmt.align (f : Fmt) : Nat := 32 * f.bits

/-- R53: the padded length of a line. -/
def padLen (k : Nat) : Nat := 256 * ceilDiv k 256

/-- R54: data bytes of one line of length k. -/
def Fmt.lineBytes (f : Fmt) (k : Nat) : Nat := padLen k * f.bits / 8

/-- R47: a UE5M3 fine scale that is neither 0x00 nor 0xFF, as its exact value. -/
def ue5m3Val (c : Nat) : Dy := codeMag 3 15 c

/-- R48: a CS16 coarse scale that is no NaN code, as its exact value (0 for 0x0000). -/
def cs16Val (c : Nat) : Dy := codeMag 8 127 c

def cs16IsNaN (c : Nat) : Bool := decide (0xFF00 ≤ c)

/-- ru of 04_scaling_quantisation.md for UE5M3: the smallest finite code whose value is at least num/den, clipped. -/
def ruUE5M3 (num den : Nat) : Nat := min (magCode .ceil 3 15 num den) 0xFE

/-- ru for CS16, the largest finite code being 0xFEFF. -/
def ruCS16 (num den : Nat) : Nat := min (magCode .ceil 8 127 num den) 0xFEFF

/-- R36: an E2M1 code as its exact value (0x8 reads as 0, R37). -/
def e2m1Val (c : Nat) : Dy :=
  let d := codeMag 1 1 (c % 8)
  if bit c 3 then d.neg else d

/-- R36, R38, R39, R43: the unscaled integer or E2M1 value of a code of a fine-scaled format (z: zero point, U4 only). -/
def codeVal (f : Fmt) (c z : Nat) : Dy :=
  match f with
  | .e2m1 => e2m1Val c
  | .s4 => Dy.ofInt (sext c 4)
  | .s8 => Dy.ofInt (sext c 8)
  | .u4 => Dy.ofInt ((c : Int) - (z : Int))
  | _ => Dy.zero

/-- R49, R50: the value of an element. cs: coarse scale code; fs: the block's fine scale; z: its zero point; bias: the
line's BF16 bias code; c: the element's code. The first applicable case of R50 decides. -/
def elemVal (f : Fmt) (cs fs z bias c : Nat) : XV :=
  match f with
  | .bf16 => (ffBF16.dec c).toX
  | .f16 => (ffF16.dec c).toX
  | .af32 => (ffAF32.dec c).toX
  | .ue5m3 => if c = 0xFF then .nan else .fin (ue5m3Val c)
  | .cs16 => if cs16IsNaN c then .nan else .fin (cs16Val c)
  | .e4m3 | .e5m2 =>
    let v := f.ff.dec c
    if cs16IsNaN cs || v.isNaN then .nan
    else if cs = 0 then .fin Dy.zero
    else match v.toX with
      | .fin d => .fin ((cs16Val cs).mul d)
      | x => x
  | .u4 =>
    let b := ffBF16.dec bias
    if cs16IsNaN cs || fs == 0xFF || b.isNaN then .nan
    else match b.toX with
      | .fin bd =>
        if cs = 0 ∨ fs = 0 then .fin bd
        else .fin (((cs16Val cs).mul ((ue5m3Val fs).mul (codeVal .u4 c z))).add bd)
      | x => x
  | g =>
    if cs16IsNaN cs || fs == 0xFF then .nan
    else if cs = 0 ∨ fs = 0 then .fin Dy.zero
    else .fin ((cs16Val cs).mul ((ue5m3Val fs).mul (codeVal g c z)))

/-- Addition of exact values with the specials of IEEE 754 (R62, R80). -/
def XV.add (a b : XV) : XV :=
  match a, b with
  | .fin x, .fin y => .fin (x.add y)
  | .nan, _ => .nan
  | _, .nan => .nan
  | .inf s, .inf t => if s = t then .inf s else .nan
  | .inf s, _ => .inf s
  | _, .inf t => .inf t

/-- R80 step 1: the product of two element values (before R72's overflow clause). -/
def XV.mul (a b : XV) : XV :=
  match a, b with
  | .fin x, .fin y => .fin (x.mul y)
  | .nan, _ => .nan
  | _, .nan => .nan
  | .inf s, .inf t => .inf (s != t)
  | .inf s, .fin y => if y.m = 0 then .nan else .inf (s != decide (y.m < 0))
  | .fin x, .inf t => if x.m = 0 then .nan else .inf (t != decide (x.m < 0))

def XV.neg (a : XV) : XV := match a with | .fin d => .fin d.neg | .inf s => .inf (!s) | .nan => .nan
def XV.isFin (a : XV) : Bool := match a with | .fin _ => true | _ => false
def XV.isNaN (a : XV) : Bool := match a with | .nan => true | _ => false
def XV.dy (a : XV) : Dy := match a with | .fin d => d | _ => Dy.zero
def XV.sum (l : List XV) : XV := l.foldl XV.add (.fin Dy.zero)

/-- A wide code of any floating format as an AF32-or-narrower value. -/
def wideVal (f : Fmt) (c : Nat) : FV := f.ff.dec c

end Sys2Proof.Machine
end

