-- ==== Sys2Proof/Machine/Operands.lean ====
section
/-! DEFINITION. Operand bytes (R239, R240), the encoding checks that come before the predicate (R237 to R243, R253), tensor
descriptors and their checks (R246 to R249), planes, and the bytes, codes and values of a tensor. -/

namespace Sys2Proof.Machine

/-! ### Faults -/

/-- A fault that an instruction raises: code (R251), operand at fault and detail (R252). -/
structure TFault where
  code : Nat
  slot : Nat
  detail : Nat
  deriving DecidableEq, Repr

/-- A condition that raises a fault. -/
def need (bad : Bool) (code slot : Nat) (detail : Nat := 0) : Option TFault :=
  if bad then some ⟨code, slot, detail⟩ else none

/-- R251: of several faults the one of lowest code, the first of them. -/
def lowest : List (Option TFault) → Option TFault
  | [] => none
  | none :: r => lowest r
  | some f :: r =>
    match lowest r with
    | some g => if g.code < f.code then some g else some f
    | none => some f

/-! ### Operand bytes -/

/-- What an operand slot accepts, as a set: 1 descriptor, 2 scalar, 4 predicate, 8 NONE, 16 special to be read, 32 live-region
special, 64 scalar pair, 128 a group of four scalars. -/
def opOk (acc : Nat) (b : BitVec 8) : Bool :=
  let k := fld b.toNat 7 6
  let i := fld b.toNat 5 0
  match k with
  | 0 => bit acc 0
  | 1 => decide (i < 32) && (bit acc 1 || (bit acc 6 && i % 2 == 0) || (bit acc 7 && i % 4 == 0))
  | 2 => decide (i < 8) && bit acc 2
  | _ => (i == 0 && bit acc 3) || (bit acc 4 && decide (i ≤ 0x14 ∨ 0x20 ≤ i)) ||
         (bit acc 5 && decide (0x20 ≤ i ∧ i < 0x30))

def opIdx (b : BitVec 8) : Nat := fld b.toNat 5 0
def opNone (b : BitVec 8) : Bool := b == 0xC0#8
def opIsDesc (b : BitVec 8) : Bool := fld b.toNat 7 6 == 0
def opIsScalar (b : BitVec 8) : Bool := fld b.toNat 7 6 == 1

/-- What the opcode map allows (R253): FMT values, the four operand slots, MOD bits, IMM bits, whether LSEL is on, the place
of RSEL in IMM if the instruction has one. -/
structure OpSpec where
  fmts : List Nat
  dst : Nat
  a : Nat
  b : Nat
  c : Nat
  modm : Nat
  imm : Nat
  rsel : Option Nat
  deriving DecidableEq, Repr

def mRND : Nat := 1
def mTWIN : Nat := 2
def mCHK : Nat := 4
def mLSEL : Nat := 0x38
/-- A mask of bits [hi:lo]. -/
def mb (hi lo : Nat) : Nat := (2 ^ (hi + 1 - lo) - 1) * 2 ^ lo

/-- R253 and the operand rules of each instruction, by opcode and FMT. None for an unassigned opcode. -/
def opSpec (op fmt : Nat) : Option OpSpec :=
  match op with
  | 0x01 | 0x02 | 0x03 => some ⟨[0], 1, 1, 8, 8, 0, mb 39 0, none⟩
  | 0x04 => some ⟨[0], 1, 2, 8, 8, 0, 0, none⟩
  | 0x05 => some ⟨[0], 2, 1, 8, 8, 0, 0, none⟩
  | 0x06 => some ⟨List.range 7, 1, 2, 8, 8, 0, 0, none⟩
  | 0x10 => some ⟨[0, 1], 1, 1, 1, 10, mCHK + mLSEL, mb 56 0, none⟩
  | 0x11 => some ⟨[0, 1], 1, 1, 1, 10, 0, mb 56 41 + mb 15 4, none⟩
  | 0x12 => some ⟨[0], 1, 1, 1, 8, mLSEL, mb 56 41 + mb 15 4, none⟩
  | 0x18 => some ⟨[0], 1, 1, 72, 10, mRND + mTWIN + mLSEL, mb 16 0, some 12⟩
  | 0x19 => some ⟨[0], 1, 1, 8, 10, mTWIN, 0, none⟩
  | 0x1A => some ⟨[0, 1], 1, 1, 8, 8, mTWIN, mb 11 0, none⟩
  | 0x1B => some ⟨[0, 1], 1, 1, 8, 8, 0, 0, none⟩
  | 0x20 => some (if fmt = 2 then ⟨[2], 1, 1, 2, 2, 0, mb 4 0, some 0⟩ else ⟨[0, 1, 3], 1, 8, 8, 8, 0, mb 4 0, some 0⟩)
  | 0x21 => some ⟨[0, 1, 2, 3], 2, if fmt = 2 then 2 else 1, 2, 10, 0,
      if fmt = 2 then mb 42 0 else mb 22 0, some 18⟩
  | 0x28 =>
    let usesB := [0, 1, 2, 3, 4, 5, 8, 0xD, 0xE].contains fmt
    let usesC := fmt == 3 || fmt == 0xE
    some ⟨List.range 15, 1, 1, if fmt = 7 then 2 else if usesB then 3 else 8, if usesC then 3 else 8,
      (if fmt = 7 ∨ fmt = 0xC then mRND else 0) + mTWIN, mb 6 0, some 2⟩
  | 0x29 => some (if fmt = 8 then ⟨[8], 1, 1, 10, 10, 0, mb 23 0, none⟩ else ⟨[0, 1, 2, 3, 4], 1, 1, 8, 8, mTWIN, 0, none⟩)
  | 0x2A => some ⟨List.range 16, 1, 1, 2, 2, mTWIN, mb 16 0, some 12⟩
  | 0x30 =>
    let v := if fmt % 4 = 2 then 64 else 2
    some ⟨[0, 1, 2, 3, 8, 9, 10, 11], v, v + 8, if 8 ≤ fmt then v else 2, 2, 0, 0, none⟩
  | 0x31 => some ⟨[0], 64, 1, 72, 8, 0, 0, none⟩
  | 0x38 => some ⟨[0], 1, 1, 2, 8, 0, mb 3 0, none⟩
  | 0x39 => some ⟨[0], 8, 8, 8, 8, 0, mb 19 0, none⟩
  | 0x3A => some ⟨[0], 1, 1, 2, 8, 0, mb 47 0, none⟩
  | 0x40 => some ⟨[0], 8, 8, 8, 8, 0, mb 28 0, none⟩
  | 0x41 => some ⟨[0, 1], 8, 8, 8, 8, 0, if fmt = 0 then 1 else 0, none⟩
  | 0x42 => some ⟨[0], 8, 8, 8, 8, 0, 0, none⟩
  | 0x43 => some ⟨[0], 8, 136, 8, 8, 0, mb 48 0, none⟩
  | 0x44 => some ⟨[0], 8, 8, 8, 8, 0, mb 31 0, none⟩
  | 0x50 => some ⟨List.range 14, 2, 2, 10, 8, 0, mb 31 0, none⟩
  | 0x51 => some ⟨[0], 2, 8, 8, 8, 0, mb 31 0, none⟩
  | 0x52 => some ⟨List.range 6, 4, 2, 10, 8, 0, mb 31 0, none⟩
  | 0x53 => some ⟨List.range 4, 4, 4, 4, 8, 0, 0, none⟩
  | 0x54 => some ⟨[0], 2, 24, 8, 8, 0, mb 11 0, none⟩
  | 0x55 => some ⟨[0], 32, 2, 8, 8, 0, 0, none⟩
  | _ => none

/-- The checks made before the predicate is evaluated (R242): opcode, variant, operand kinds and indices, MOD, IMM, RSEL;
then what one instruction adds, OPT a reserved format code in FMT. Slots as R252 assigns them. -/
def encCheck (op : Nat) (w : IFields) : Option TFault :=
  let fmt := w.fmt.toNat
  match opSpec op fmt with
  | none => some ⟨1, 0, 0⟩
  | some o =>
    let m := w.modw.toNat
    let i := w.imm.toNat
    let scalarImm := (op == 0x50 || op == 0x52) && !opNone w.srcb
    let immOk := if op = 0x54 then
        (if [0x12, 0x13, 0x14].contains (opIdx w.srca) then o.imm else 0)
      else if op = 0x10 ∨ op = 0x11 ∨ op = 0x12 then o.imm
      else if op = 0x29 ∧ fmt = 8 then o.imm
      else if scalarImm then 0 else o.imm
    lowest [
      need (!o.fmts.contains fmt) 1 0,
      need (!opOk o.dst w.dst) 1 1,
      need (!opOk o.a w.srca) 1 2,
      need (!opOk o.b w.srcb) 1 3,
      need (!opOk o.c w.srcc) 1 4,
      need (m &&& o.modm != m || fld m 5 3 == 7) 1 6,
      need (op == 0x29 && fmt == 8 && bit m 1) 1 6,
      need (i &&& immOk != i) 1 5,
      (match o.rsel with
        | some r => need (fld i r r == 1) 1 5
        | none => none),
      need (op == 0x39 && fld i 19 4 == 0) 1 5,
      need (op == 0x40 && (fld i 24 12 == 0 || decide (4096 < fld i 24 12))) 1 5,
      need (op == 0x43 && w.pred != 0#4) 1 0,
      need (op == 0x2A && decide (0xB ≤ fmt)) 2 0]

/-! ### Registers of a logical tile (R206) -/

def LTile.sreg (x : LTile) (n : Nat) : Nat := (Assoc.get x.sregs n 0).toNat
def LTile.setS (x : LTile) (n v : Nat) : LTile := { x with sregs := Assoc.put x.sregs n (BitVec.ofNat 32 v) 0 }
/-- R240: the 64-bit value of a pair. -/
def LTile.pair (x : LTile) (n : Nat) : Nat := x.sreg n + x.sreg (n + 1) * 2 ^ 32
def LTile.setPair (x : LTile) (n v : Nat) : LTile := (x.setS n v).setS (n + 1) (v / 2 ^ 32)
def LTile.pred (x : LTile) (n : Nat) : Bool := n == 0 || bit x.preds.toNat n
/-- R206: writes to p0 are ignored. -/
def LTile.setP (x : LTile) (n : Nat) (b : Bool) : LTile :=
  if n = 0 then x else { x with preds := BitVec.ofNat 8 (Machine.setFld x.preds.toNat n n (b2n b)) }
def LTile.td (x : LTile) (n : Nat) : Desc := Assoc.get x.tds n 0
def LTile.setTd (x : LTile) (n : Nat) (v : Desc) : LTile := { x with tds := Assoc.put x.tds n v 0 }
def LTile.lreg (x : LTile) (n : Nat) : Nat := (Assoc.get x.lr n 0).toNat

/-! ### Tensors (R246 to R249) -/

/-- A descriptor's fields, and the operand slot it was reached through (R252). -/
structure Tens where
  raw : Nat
  base : Nat
  side : Nat
  sp : Nat
  fc : Nat
  role : Bool
  outl : Bool
  rwen : Bool
  dstr : Nat
  lines : Nat
  len : Nat
  rword : Nat
  split : Nat
  scnt : Nat
  lorg : Nat
  porg : Nat
  slot : Nat
  deriving DecidableEq, Repr

/-- R246: the fields of a descriptor. -/
def tens (dsc : Desc) (slot : Nat) : Tens :=
  let x := dsc.toNat
  ⟨x, fld x 40 0 * 128, fld x 81 41 * 128, fld x 83 82, fld x 87 84, bit x 88, bit x 89, bit x 90, fld x 107 92 * 128,
   fld x 127 108, fld x 147 128, fld x 164 148 * 4, fld x 176 165, fld x 188 177 + 1, fld x 223 192, fld x 255 224, slot⟩

/-- The format (meaningful once the descriptor is checked). -/
def Tens.fmt (t : Tens) : Fmt := (Fmt.ofCode t.fc).getD .af32
def Tens.is (t : Tens) (f : Fmt) : Bool := Fmt.ofCode t.fc == some f
def Tens.wide (t : Tens) : Bool := t.is .bf16 || t.is .f16 || t.is .af32
/-- Data bytes of one line (R54). -/
def Tens.lineB (t : Tens) : Nat := t.fmt.lineBytes t.len
/-- R248, R249: with at most one line DSTR is not read. -/
def Tens.stride (t : Tens) : Nat := if t.lines ≤ 1 then t.lineB else t.dstr
def Tens.fstr (t : Tens) : Nat := t.stride / (2 * t.fmt.bits)
/-- The number of panels of a line (R53). -/
def Tens.panels (t : Tens) : Nat := ceilDiv (padLen t.len) 2048

/-- A plane: base address, line stride, bytes of one line. -/
structure Plane where
  base : Nat
  stride : Nat
  bytes : Nat
  deriving DecidableEq, Repr

def Tens.pData (t : Tens) : Plane := ⟨t.base, t.stride, t.lineB⟩
def Tens.pFine (t : Tens) : Plane := ⟨t.side + 128, t.fstr, padLen t.len / 16⟩
/-- R248: the offset of the plane after the fine-scale plane. -/
def Tens.offSum (t : Tens) : Nat := roundUp (128 + t.lines * t.fstr) 128
def Tens.pSum (t : Tens) : Plane := ⟨t.side + t.offSum, 2 * t.fstr, padLen t.len / 8⟩
def Tens.offBias (t : Tens) : Nat := roundUp (t.offSum + t.lines * (2 * t.fstr)) 128
def Tens.pBias (t : Tens) : Plane := ⟨t.side + t.offBias, 2, 2⟩
def Tens.offOut (t : Tens) : Nat :=
  if t.is .u4 then roundUp (t.offBias + t.lines * 2) 128 else roundUp (128 + t.lines * t.fstr) 128
def Tens.pOut (t : Tens) : Plane := ⟨t.side + t.offOut, 128 * t.panels, 128 * t.panels⟩

/-- The planes that the format has, in the order data, fine scale, sum sideband, bias, outlier (R54, R276). -/
def Tens.planes (t : Tens) : List Plane :=
  [t.pData] ++ (if t.fmt.hasFine then [t.pFine] else []) ++ (if t.is .u4 then [t.pSum, t.pBias] else []) ++
    (if t.outl then [t.pOut] else [])

/-- R248: the bytes that lines [f, f + n) of a plane occupy: n times its stride. -/
def Plane.span (p : Plane) (f n : Nat) : Nat × Nat := (p.base + f * p.stride, n * p.stride)

/-- Every range of bytes of lines [f, f + n) of a tensor, its scale record included. -/
def Tens.spans (t : Tens) (f n : Nat) : List (Nat × Nat) :=
  t.planes.map (fun p => p.span f n) ++ (if t.fmt.hasRecord then [(t.side, 16)] else [])

/-- Every range of a whole tensor. -/
def Tens.all (t : Tens) : List (Nat × Nat) := t.spans 0 t.lines

/-- R249: the checks of a descriptor in the order of their codes. -/
def Tens.check (t : Tens) : Option TFault :=
  if bit t.raw 91 || fld t.raw 191 189 != 0 then some ⟨1, t.slot, 0⟩
  else match Fmt.ofCode t.fc with
    | none => some ⟨2, t.slot, 0⟩
    | some f =>
      if t.outl && !f.hasFine then some ⟨2, t.slot, 0⟩
      else if t.base % f.align ≠ 0 then some ⟨3, t.slot, t.base + t.sp * 2 ^ 48⟩
      else if 2 ≤ t.lines ∧ (t.dstr % f.align ≠ 0 ∨ t.dstr < f.lineBytes t.len) then some ⟨3, t.slot, t.base + t.sp * 2 ^ 48⟩
      else need (t.lines == 0 || t.len == 0 || decide (t.scnt ≤ t.split)) 7 t.slot

/-- Do two tensors share a byte (R90, R259 ...). -/
def rangesOverlap (a b : List (Nat × Nat)) : Bool := a.any (fun x => b.any (fun y => overlap x.1 x.2 y.1 y.2))
def Tens.overlaps (t u : Tens) : Bool := t.sp == u.sp && rangesOverlap t.all u.all
/-- R255: do the planes of two tensors share a byte; a scale record is no plane (R64). -/
def Tens.planesOverlap (t u : Tens) : Bool :=
  t.sp == u.sp && rangesOverlap (t.planes.map (fun p => p.span 0 t.lines)) (u.planes.map (fun p => p.span 0 u.lines))
/-- R266, R268, R270: element for element the same bytes; the formats may differ where their widths are equal. -/
def Tens.coincides (t u : Tens) : Bool :=
  t.sp == u.sp && t.base == u.base && t.fmt.bits == u.fmt.bits && t.stride == u.stride && t.lines == u.lines && t.len == u.len
/-- A range of the Pane against a tensor. -/
def Tens.hits (t : Tens) (a n : Nat) : Bool := t.sp == 0 && rangesOverlap t.all [(a, n)]
/-- The Pane ranges of a tensor, as recorded under R207. -/
def Tens.pane (t : Tens) : List (Nat × Nat) := if t.sp = 0 then t.all else []

/-! ### Where an instruction runs -/

/-- What an instruction sees: casement, logical tile, physical tile and the instruction. -/
structure TC where
  d : Nat
  t : Nat
  p : Nat
  x : LTile
  op : Nat
  w : IFields
  ups : List Upset
  deriving DecidableEq, Repr

/-- A scalar operand; NONE reads as 0 (R245). -/
def TC.sc (k : TC) (b : BitVec 8) : Nat := if opNone b then 0 else k.x.sreg (opIdx b)
def TC.imm (k : TC) : Nat := k.w.imm.toNat
def TC.mod (k : TC) : Nat := k.w.modw.toNat
def TC.rnd (k : TC) : Bool := bit k.mod 0
def TC.twin (k : TC) : Bool := bit k.mod 1
def TC.fmt (k : TC) : Nat := k.w.fmt.toNat
def TC.tDst (k : TC) : Tens := tens (k.x.td (opIdx k.w.dst)) 1
def TC.tA (k : TC) : Tens := tens (k.x.td (opIdx k.w.srca)) 2
def TC.tB (k : TC) : Tens := tens (k.x.td (opIdx k.w.srcb)) 3
def TC.tC (k : TC) : Tens := tens (k.x.td (opIdx k.w.srcc)) 4

/-- A range of a space that an instruction touches, with the slot it was reached through. -/
structure Rng where
  slot : Nat
  sp : Nat
  a : Nat
  n : Nat
  deriving DecidableEq, Repr

def Tens.rngs (t : Tens) : List Rng := t.all.map (fun r => ⟨t.slot, t.sp, r.1, r.2⟩)
/-- The ranges of the range word of a destination (R97, R247). -/
def Tens.rwRng (t : Tens) : List Rng := if t.rwen then [⟨t.slot, 0, t.rword, 4⟩] else []

/-! ### What an instruction's body answers -/

/-- A completed body: the state with its effects, Pane ranges read and written (R207), registers written, what it still
waits for, whether it completes at issue, and where a taken branch goes. -/
structure Done where
  s : State
  rd : List (Nat × Nat)
  wr : List (Nat × Nat)
  wreg : List Nat
  kind : IKind
  quick : Bool
  jump : Option Nat := none

/-- What a body answers: effects, a wait for a page, or a fault with the state it leaves. -/
inductive TRes where
  | ok (x : Done)
  | wait
  | fault (s : State) (f : TFault)

/-- The address of a fault's detail (R252). -/
def detailOf (sp a : Nat) : Nat := a % 2 ^ 48 + sp * 2 ^ 48

/-- The address checks of ranges (R247, R309): the fault of the first range that breaks them, or that a page must come. -/
def State.rngCheck (s : State) (k : TC) (wr : Bool) (l : List Rng) : Option TFault × Bool :=
  l.foldl (fun acc r =>
    match s.spCheck k.d r.sp r.a r.n wr with
    | .ok => acc
    | .addr a => (lowest [acc.1, some ⟨4, r.slot, detailOf r.sp a⟩], acc.2)
    | .poison x => (lowest [acc.1, some ⟨0x11, r.slot, detailOf 2 x⟩], acc.2)
    | .wait _ => (acc.1, true)) (none, false)

/-- The pages of HBM that ranges touch, each once, with the address fault that the first access to it would raise. -/
def rngPages (l : List Rng) : List (Nat × TFault) :=
  l.foldl (fun acc r =>
    if r.sp = 2 then
      (cuts frameBytes r.a r.n).foldl (fun acc q =>
        if acc.any (fun x => x.1 == q.1 / frameBytes) then acc
        else acc ++ [(q.1 / frameBytes, ⟨4, r.slot, detailOf 2 q.1⟩)]) acc
    else acc) []

/-- R313: the address fault of the first page of ranges for which no frame can be had, while the others keep theirs. -/
def State.frameFault (s : State) (k : TC) (l : List Rng) : Option TFault :=
  let ps := rngPages l
  let short := ps.filter (fun x => match s.walk k.d (x.1 * frameBytes) with
    | .leaf _ e => !leHost e && !leRes e
    | _ => false)
  (short.map (·.2))[s.frameRoom k.d (ps.map (·.1))]?

/-- R324: the poison fault of the first page of ranges whose frame only a page-out can free, where the page-outs' walks meet a poisoned
entry. -/
def State.framePoison (s : State) (k : TC) (l : List Rng) : Option TFault :=
  let ps := rngPages l
  let short := ps.filter (fun x => match s.walk k.d (x.1 * frameBytes) with
    | .leaf _ e => !leHost e && !leRes e
    | _ => false)
  match short.drop (s.freeFrames k.d) with
  | [] => none
  | x :: r => (s.victimPoison k.d (r.length + 1) (ps.map (·.1))).map (fun a => ⟨0x11, x.2.slot, detailOf 2 a⟩)

/-- Before data moves: pages are allocated and noted; an allocation pages out none of keep. -/
def State.rngUse (s : State) (k : TC) (wr : Bool) (l : List Rng) (keep : List Nat) : State :=
  l.foldl (fun s r => s.spUse k.d r.sp r.a r.n wr keep) s

/-- R305: what an instruction reads outside the Pane: LD, ST and MOV move planes, the others read records. -/
def TC.reads (k : TC) : TKind := if k.op ≤ 3 then .move else .record

/-- ECC visits of every range read. -/
def State.rngTouch (s : State) (k : TC) (l : List Rng) : State :=
  l.foldl (fun s r => s.spTouch k.d k.p r.sp r.a r.n k.reads) s

/-- R323: the poison fault of the first poisoned word consumed. -/
def State.rngPoison (s : State) (k : TC) (l : List Rng) : Option TFault :=
  lowest (l.map (fun r =>
    (firstPoison r.a (s.spRead k.d k.p r.sp r.a r.n)).map (fun a =>
      ⟨0x11, r.slot, detailOf r.sp (if r.sp = 2 ∨ r.sp = 3 then a else a / 8 * 8)⟩)))

/-- No byte of the ranges is poisoned: what they hold can be checked (R323). -/
def State.sound (s : State) (k : TC) (l : List Rng) : Bool := (s.rngPoison k l).isNone

/-- The bytes of a range. -/
def State.rd (s : State) (k : TC) (sp a n : Nat) : List Nat := pvals (s.spRead k.d k.p sp a n)
/-- A little-endian number of n bytes. -/
def State.rdNat (s : State) (k : TC) (sp a n : Nat) : Nat := leNat (s.rd k sp a n)

/-! ### Element codes and values -/

/-- R55: the code of element q of a line's data bytes. -/
def codeAt (f : Fmt) (line : List Nat) (q : Nat) : Nat :=
  match f.bits with
  | 4 => let b := nth line (q / 2) 0; if q % 2 = 0 then b % 16 else b / 16
  | 8 => nth line q 0
  | 16 => nth line (2 * q) 0 + nth line (2 * q + 1) 0 * 256
  | _ => leNat ((line.drop (4 * q)).take 4)

/-- R55: the data bytes of a list of codes. -/
def packCodes (f : Fmt) : List Nat → List Nat
  | [] => []
  | c :: r =>
    match f.bits with
    | 4 =>
      match r with
      | [] => [c % 16]
      | c2 :: r2 => (c % 16 + c2 % 16 * 16) :: packCodes f r2
    | 8 => c % 256 :: packCodes f r
    | 16 => leBytes 2 c ++ packCodes f r
    | _ => leBytes 4 c ++ packCodes f r

/-- The codes of the LEN elements of line c. -/
def State.lineCodes (s : State) (k : TC) (t : Tens) (c : Nat) : List Nat :=
  let b := s.rd k t.sp (t.base + c * t.stride) t.lineB
  (List.range t.len).map (codeAt t.fmt b)

/-- The codes of a whole tensor, line by line. -/
def State.codes (s : State) (k : TC) (t : Tens) : List (List Nat) := (List.range t.lines).map (s.lineCodes k t)

/-- One line's worth of what scaling needs: fine scales, sideband words, bias code, outliers as (position, BF16 code). -/
structure Line where
  codes : List Nat
  fine : List Nat
  side : List Nat
  bias : Nat
  outs : List (Nat × Nat)
  deriving DecidableEq, Repr

/-- A tensor as read: format, coarse scale, length and lines. -/
structure TVal where
  fmt : Fmt
  cs : Nat
  len : Nat
  lines : List Line
  deriving DecidableEq, Repr

/-- The slots of one outlier record. -/
def outSlots (b : List Nat) : List Nat := (List.range 32).map (fun j => leNat ((b.drop (4 * j)).take 4))

/-- R63: a record is valid for a panel of n elements below K. -/
def outRecOk (slots : List Nat) (n : Nat) : Bool :=
  let v := slots.takeWhile (fun x => bit x 31)
  let ps := v.map (fun x => fld x 26 16)
  (slots.drop v.length).all (· == 0) && v.all (fun x => fld x 30 27 == 0) && ps.all (fun p => decide (p < n)) &&
    (ps.zip (ps.drop 1)).all (fun q => decide (q.1 < q.2))

/-- Read a line with its side planes. -/
def State.readLine (s : State) (k : TC) (t : Tens) (c : Nat) : Line :=
  let get := fun (p : Plane) => s.rd k t.sp (p.base + c * p.stride) p.bytes
  let sb := if t.is .u4 then get t.pSum else []
  let ob := if t.outl then get t.pOut else []
  { codes := s.lineCodes k t c
    fine := if t.fmt.hasFine then get t.pFine else []
    side := (List.range (sb.length / 2)).map (fun i => nth sb (2 * i) 0 + nth sb (2 * i + 1) 0 * 256)
    bias := if t.is .u4 then leNat (get t.pBias) else 0
    outs := (List.range t.panels).flatMap (fun n =>
      if t.outl then
        ((outSlots ((ob.drop (128 * n)).take 128)).filter (fun x => bit x 31)).map
          (fun x => (2048 * n + fld x 26 16, fld x 15 0))
      else []) }

/-- R64: a tensor's scale record. -/
def State.record (s : State) (k : TC) (t : Tens) : Nat := if t.fmt.hasRecord then s.rdNat k t.sp t.side 16 else 0

/-- Read a whole tensor. -/
def State.readT (s : State) (k : TC) (t : Tens) : TVal :=
  ⟨t.fmt, fld (s.record k t) 15 0, t.len, (List.range t.lines).map (s.readLine k t)⟩

/-- What the stored checks read: the scale record, the sideband words and the outlier records. -/
def Tens.heldRngs (t : Tens) : List Rng :=
  let lines := fun (p : Plane) => (List.range t.lines).map (fun c => Rng.mk t.slot t.sp (p.base + c * p.stride) p.bytes)
  (if t.fmt.hasRecord then [⟨t.slot, t.sp, t.side, 16⟩] else []) ++ (if t.is .u4 then lines t.pSum else []) ++
    (if t.outl then lines t.pOut else [])

/-- Every line of a plane can be read without poison. -/
def State.planeSound (s : State) (k : TC) (t : Tens) (p : Plane) : Bool :=
  s.sound k ((List.range t.lines).map (fun c => ⟨t.slot, t.sp, p.base + c * p.stride, p.bytes⟩))

/-- R65: the scale record disagrees with the descriptor, or a reserved field of it is not 0. -/
def State.recordBad (s : State) (k : TC) (t : Tens) : Bool :=
  let r := s.record k t
  t.fmt.hasRecord && s.sound k [⟨t.slot, t.sp, t.side, 16⟩] && (fld r 19 16 != t.fc || fld r 31 24 != 0 || fld r 127 64 != 0)

/-- R59: a reserved field of a sum sideband word is not 0. -/
def State.sideBad (s : State) (k : TC) (t : Tens) : Bool :=
  t.is .u4 && s.planeSound k t t.pSum &&
    (List.range t.lines).any (fun c => ((s.readLine k t c).side).any (fun w => fld w 14 12 != 0))

/-- R63: an outlier record of the tensor is bad. -/
def State.outBad (s : State) (k : TC) (t : Tens) : Bool :=
  t.outl && s.planeSound k t t.pOut && (List.range t.lines).any (fun c =>
    let ob := s.rd k t.sp (t.pOut.base + c * t.pOut.stride) t.pOut.bytes
    (List.range t.panels).any (fun n => !outRecOk (outSlots ((ob.drop (128 * n)).take 128)) (min 2048 (t.len - 2048 * n))))

/-- R59, R63, R65: the checks of the stored record, sideband words and outlier records that a matrix or conversion
instruction reads, where no poison hides them. -/
def State.storedCheck (s : State) (k : TC) (t : Tens) : Option TFault :=
  lowest [need (s.recordBad k t || s.sideBad k t) 2 t.slot, need (s.outBad k t) 8 t.slot]

/-- R49, R50: the value of element q of a line, without outliers. -/
def lineElem (f : Fmt) (cs : Nat) (l : Line) (q : Nat) : XV :=
  let w := nth l.side (q / 16) 0
  elemVal f cs (nth l.fine (q / 16) 0) (fld w 11 8) l.bias (nth l.codes q 0)

/-- R62: the value of element q with the outlier at its position. -/
def lineVal (f : Fmt) (cs : Nat) (l : Line) (q : Nat) : XV :=
  let v := lineElem f cs l q
  match l.outs.find? (fun o => o.1 == q) with
  | some o =>
    if nth l.fine (q / 16) 0 = 0xFF then .nan else v.add (ffBF16.dec o.2).toX
  | none => v

end Sys2Proof.Machine
end

