-- ==== Sys2Proof/Machine/Tile.lean ====
section
/-! DEFINITION. The Tile Engine (R206, R207, R242, R244): issue of an instruction, its hazards, raising a fault (R250 to
R252), and retirement. Every tile instruction's meaning is one call of `issue` with the instruction's own body. -/

namespace Sys2Proof.Machine

/-! ### Raising a fault (R250 to R252) -/

/-- R237: bits [63:0] of an instruction. -/
def instrLow (op : Nat) (w : IFields) : Nat :=
  op + w.fmt.toNat * 2 ^ 8 + w.pred.toNat * 2 ^ 12 + w.dst.toNat * 2 ^ 16 + w.srca.toNat * 2 ^ 24
    + w.srcb.toNat * 2 ^ 32 + w.srcc.toNat * 2 ^ 40 + w.modw.toNat * 2 ^ 48

/-- R252: a fault record. -/
def faultRec (f : TFault) (t ctag iaddr iword : Nat) : Nat :=
  f.code + f.slot * 2 ^ 8 + t * 2 ^ 12 + ctag * 2 ^ 32 + iaddr * 2 ^ 64 + iword * 2 ^ 128 + f.detail * 2 ^ 192

/-- R250: a fault of logical tile t: its record and event; the casement's program ends; a LIVE member enters HOLD with cause
5 (R359). -/
def State.raiseFault (s : State) (d t : Nat) (f : TFault) (iaddr iword : Nat) : State :=
  let ctag := s.tagOf d
  let eseq := s.arbN arbEvent
  let p := ((s.lt d t).phys).getD 0
  let s1 := s.post { kind := 1, unit := p, ctag := ctag, frec := faultRec f t ctag iaddr iword }
  (s1.endProgram d eseq).enterHold d 5

/-- The event of a detector that makes tile p a failing tile, which a grant of its Dispatcher raises (R27, R229). -/
def State.postFailing (s : State) (p : Nat) (e : Ev) : State := s.postArb (arbPlace (dieOfTile p)) e

/-! ### Hazards (R207, R244) -/

/-- The register numbers an instruction reads through its operand bytes: scalars 0 to 31, descriptors 32 to 95, predicates 96
to 103. -/
def opRegs (acc : Nat) (b : BitVec 8) : List Nat :=
  let i := opIdx b
  match fld b.toNat 7 6 with
  | 0 => [32 + i]
  | 1 => if bit acc 6 then [i, i + 1] else if bit acc 7 then rangeFrom i 4 else [i]
  | 2 => [96 + i]
  | _ => []

/-- Every register an instruction names: its operands, its predicate, its RSEL pair, the descriptors named in IMM. -/
def instrRegs (op : Nat) (w : IFields) : List Nat :=
  match opSpec op w.fmt.toNat with
  | none => []
  | some o =>
    let i := w.imm.toNat
    opRegs o.dst w.dst ++ opRegs o.a w.srca ++ opRegs o.b w.srcb ++ opRegs o.c w.srcc ++ [96 + fld w.pred.toNat 2 0]
      ++ (match o.rsel with | some r => [fld i (r + 4) r, fld i (r + 4) r + 1] | none => [])
      ++ (if op = 0x10 then rangeFrom 0 4 |>.map (fun n => 32 + fld i (21 + 6 * n) (16 + 6 * n)) else [])
      ++ (if op = 0x29 ∧ w.fmt = 8#4 then [32 + fld i 5 0, 32 + fld i 11 6] else [])

/-- R207, R244: the ranges or registers conflict with an incomplete instruction. -/
def hazard (inc : List Inc) (rd wr : List (Nat × Nat)) (regs : List Nat) : Bool :=
  inc.any (fun i => rangesOverlap i.wr (rd ++ wr) || rangesOverlap i.rd wr || i.wreg.any (fun r => regs.contains r))

/-- R207: at most 16 instructions are incomplete. -/
def maxInc : Nat := 16

/-! ### Issue -/

/-- The bytes of one instruction. -/
def instrBytes : Nat := 16

/-- What a tile sees of itself. -/
def State.tc (s : State) (d t : Nat) (ib : IBuf) : TC :=
  ⟨d, t, ((s.lt d t).phys).getD 0, s.lt d t, ib.op, ib.w, ib.ups⟩

/-- The casement runs and the tile is inside a block. -/
def State.canIssue (s : State) (d t : Nat) : Bool :=
  (s.casement d).phase == .running && (s.lt d t).phase == .running

/-- R209: TIL_PWR_CTL takes effect at the next instruction that the tile issues. -/
def State.latchPwr (s : State) (p : Nat) : State := s.setTile p { s.tile p with pwr := (s.reg (rTil p 0x20)).toNat }

/-- The instruction has issued: the pc passes it, and unless it completes at once it joins the incomplete ones; TIL_PWR_CTL comes
into force. The body leaves the logical tile's other fields as it wants them. -/
def State.issued (s : State) (d t : Nat) (x : Done) : State :=
  let y := s.lt d t
  let pc := x.jump.getD (y.pc + instrBytes)
  (if x.quick then s.setLt d t { y with pc := pc }
    else
      s.setLt d t { y with pc := pc, nextId := y.nextId + 1
                           inc := y.inc ++ [⟨y.nextId, x.rd, x.wr, x.wreg, x.kind⟩] }).latchPwr (y.phys.getD 0)

/-- Wait at issue. -/
def State.hold (s : State) (d t : Nat) (ib : IBuf) : State :=
  let y := s.lt d t
  s.setLt d t { y with ibuf := y.ibuf ++ [ib] }

/-- What a try to issue answers. -/
inductive Try where
  | went (s : State)
  | blocked

/-- One try to issue an instruction with its body (R207, R242, R244). -/
def tryIssue (s : State) (d t : Nat) (ib : IBuf) (body : State → TC → TRes) : Try :=
  let x := s.lt d t
  let iw := instrLow ib.op ib.w
  if maxInc ≤ x.inc.length then .blocked
  else
    match encCheck ib.op ib.w with
    | some f => .went (s.raiseFault d t f x.pc iw)
    | none =>
      if hazard x.inc [] [] (instrRegs ib.op ib.w) then .blocked
      else
        let p := ib.w.pred.toNat
        if x.pred (fld p 2 0) == bit p 3 then .went (s.issued d t ⟨s, [], [], [], .plain, true, none⟩)
        else
          match body s (s.tc d t ib) with
          | .wait => .blocked
          | .fault s' f => .went (s'.raiseFault d t f x.pc iw)
          | .ok r => if hazard x.inc r.rd r.wr [] then .blocked else .went (r.s.issued d t r)

/-- An instruction arrives from the Die Sequencer: it issues, or waits in the instruction buffer behind those before it. A
tile that is not inside a block of a running program takes none (log 2). -/
def issue (d : Fin 4) (t : Fin 4096) (op : Nat) (w : IFields) (ups : List Upset) (body : State → TC → TRes) (s : State) :
    State :=
  let ib : IBuf := ⟨op, w, ups⟩
  if s.canIssue d t then
    if (s.lt d t).ibuf.isEmpty then
      match tryIssue s d t ib body with
      | .went s' => s'
      | .blocked => s.hold d t ib
    else s.hold d t ib
  else s

/-- Issue the buffered instructions in order until one must wait (R207). -/
def pumpBuf (bodyOf : Nat → State → TC → TRes) (d t : Nat) : List IBuf → State → State
  | [], s => s
  | ib :: r, s =>
    if s.canIssue d t then
      match tryIssue s d t ib (bodyOf ib.op) with
      | .went s' =>
        let y := s'.lt d t
        pumpBuf bodyOf d t r (s'.setLt d t { y with ibuf := if s'.canIssue d t then r else [] })
      | .blocked => s
    else s

/-! ### Results of bodies -/

/-- A body that completes at issue. -/
def quickly (s : State) : TRes := .ok ⟨s, [], [], [], .plain, true, none⟩

/-- The logical tile of the instruction, changed. -/
def State.onLt (s : State) (k : TC) (f : LTile → LTile) : State := s.setLt k.d k.t (f (s.lt k.d k.t))

/-- Checks, then effects. -/
def guarded (s : State) (f : Option TFault) (go : Unit → TRes) : TRes :=
  match f with
  | some x => .fault s x
  | none => go ()

/-- Pages are noted, allocated where a write needs one, and every word read is visited (R201, R291, R311, R319). -/
def State.visited (s : State) (k : TC) (rds wrs : List Rng) : State :=
  let keep := (rngPages (rds ++ wrs)).map (·.1)
  ((s.rngUse k false rds keep).rngUse k true wrs keep).rngTouch k rds

/-- The fault of lowest code among an instruction's own and the address faults of its ranges (R251, R313). -/
def State.rngFault (s : State) (k : TC) (own : List (Option TFault)) (rds wrs : List Rng) : Option TFault :=
  lowest (own ++ [(s.rngCheck k false rds).1, (s.rngCheck k true wrs).1, s.frameFault k (rds ++ wrs), s.framePoison k (rds ++ wrs)])

/-- What fault f of an instruction leaves: NOFR when it is for want of a frame (R313). -/
def State.faulted (s : State) (k : TC) (rds wrs : List Rng) (f : TFault) : State :=
  if s.frameFault k (rds ++ wrs) = some f then s.noFrame k.d ((rngPages (rds ++ wrs)).map (·.1)) else s

/-- A page that the ranges touch must come first (R318). -/
def State.rngWaits (s : State) (k : TC) (rds wrs : List Rng) : Bool :=
  (s.rngCheck k false rds).2 || (s.rngCheck k true wrs).2

/-- The Pane part of ranges. -/
def paneOf (l : List Rng) : List (Nat × Nat) := (l.filter (fun r => r.sp == 0)).map (fun r => (r.a, r.n))

/-- R207: the Pane ranges meet those of an incomplete instruction: nothing of this one is looked at yet. -/
def State.rngHazard (s : State) (k : TC) (rds wrs : List Rng) : Bool := hazard (s.lt k.d k.t).inc (paneOf rds) (paneOf wrs) []

/-- The common course of an instruction that reads and writes memory: the hazard test (R207); its own faults and the address
faults of every range, the lowest code first (R251); a page that must come (R318); then pages are noted, words are visited
(R201, R291), consumed poison is found (R323), and the effects follow. -/
def withRanges (s : State) (k : TC) (own : List (Option TFault)) (rds wrs consumed : List Rng) (go : State → TRes) : TRes :=
  if s.rngHazard k rds wrs then .wait else
  match s.rngFault k own rds wrs with
  | some f => .fault (s.faulted k rds wrs f) f
  | none =>
    if s.rngWaits k rds wrs then .wait
    else
      let s1 := s.visited k rds wrs
      match s1.rngPoison k consumed with
      | some f => .fault s1 f
      | none => go s1

/-- R247, R309: a whole plane must lie inside its space, and the pages it names must be valid and of its space. -/
def State.planeCheck (s : State) (k : TC) (t : Tens) : Option TFault :=
  lowest (t.rngs.map (fun r =>
    if r.sp ≤ 1 then
      match s.spCheck k.d r.sp r.a r.n false with
      | .addr a => some ⟨4, r.slot, detailOf r.sp a⟩
      | _ => none
    else
      lowest ((cuts frameBytes r.a r.n).map (fun q =>
        let bad := some (TFault.mk 4 r.slot (detailOf r.sp q.1))
        if 2 ^ 48 ≤ q.1 then bad
        else match s.walk k.d q.1 with
          | .bad => bad
          | .poison x => some ⟨0x11, r.slot, detailOf 2 x⟩
          | .leaf _ e => if leHost e != (r.sp == 3) then bad else none))))

/-- What lines [f, f + n) of a tensor take, line by line: the ranges an instruction reads. -/
def Tens.lineRngs (t : Tens) (f n : Nat) : List Rng :=
  t.planes.flatMap (fun p => (rangeFrom f n).map (fun c => ⟨t.slot, t.sp, p.base + c * p.stride, p.bytes⟩)) ++
    (if t.fmt.hasRecord then [⟨t.slot, t.sp, t.side, 16⟩] else [])

def Tens.lineAll (t : Tens) : List Rng := t.lineRngs 0 t.lines

/-- R488: a tensor that must lie in the Pane. -/
def inPane (t : Tens) : Option TFault := need (t.sp != 0) 1 t.slot

end Sys2Proof.Machine
end

