-- ==== Sys2Proof/Machine/Control.lean ====
section
/-! DEFINITION. Scalar and predicate instructions (R285), special operands (R245), branches, BLKEND and FENCE (R282 to R284),
CRC and DGST (R275, R276), and arrival counters: RECV, SYNC (R220 to R222, R278, R279). -/

namespace Sys2Proof.Machine

/-! ### SALU, SLI, PCMP, PLOG (R285) -/

/-- R285: the second operand: SRCB, or IMM[31:0] when SRCB is NONE. -/
def TC.second (k : TC) : Nat := if opNone k.w.srcb then fld k.imm 31 0 else k.sc k.w.srcb

/-- SALU's operation on 32-bit values, by FMT. -/
def saluOp (fmt a b : Nat) : Nat :=
  let sh := b % 32
  match fmt with
  | 0 => (a + b) % 2 ^ 32
  | 1 => (a + 2 ^ 32 - b) % 2 ^ 32
  | 2 => a &&& b
  | 3 => a ||| b
  | 4 => a ^^^ b
  | 5 => a * 2 ^ sh % 2 ^ 32
  | 6 => a / 2 ^ sh
  | 7 => wrap (sext a 32 / ((2 ^ sh : Nat) : Int)) 32
  | 8 => a * b % 2 ^ 32
  | 9 => a * b / 2 ^ 32
  | 10 => if sext a 32 < sext b 32 then a else b
  | 11 => if sext a 32 < sext b 32 then b else a
  | 12 => min a b
  | _ => max a b

/-- SALU's effect. -/
def saluBody (s : State) (k : TC) : TRes :=
  quickly (s.onLt k (fun x => x.setS (opIdx k.w.dst) (saluOp k.fmt (k.sc k.w.srca) k.second)))

/-- SALU (R285). -/
def execSalu (d : Fin 4) (t : Fin 4096) (w : IFields) (s : State) : Host.Outcome State Fault Refusal :=
  .next (issue d t 0x50 w [] saluBody s)

/-- SLI's effect. -/
def sliBody (s : State) (k : TC) : TRes :=
  quickly (s.onLt k (fun x => x.setS (opIdx k.w.dst) (fld k.imm 31 0)))

/-- SLI (R285). -/
def execSli (d : Fin 4) (t : Fin 4096) (w : IFields) (s : State) : Host.Outcome State Fault Refusal :=
  .next (issue d t 0x51 w [] sliBody s)

/-- PCMP's condition, by FMT. -/
def pcmpOp (fmt a b : Nat) : Bool :=
  match fmt with
  | 0 => a == b
  | 1 => a != b
  | 2 => decide (sext a 32 < sext b 32)
  | 3 => decide (sext b 32 ≤ sext a 32)
  | 4 => decide (a < b)
  | _ => decide (b ≤ a)

/-- PCMP's effect. -/
def pcmpBody (s : State) (k : TC) : TRes :=
  quickly (s.onLt k (fun x => x.setP (opIdx k.w.dst) (pcmpOp k.fmt (k.sc k.w.srca) k.second)))

/-- PCMP (R285). -/
def execPcmp (d : Fin 4) (t : Fin 4096) (w : IFields) (s : State) : Host.Outcome State Fault Refusal :=
  .next (issue d t 0x52 w [] pcmpBody s)

/-- PLOG's operation, by FMT. -/
def plogOp (fmt : Nat) (a b : Bool) : Bool :=
  match fmt with
  | 0 => a && b
  | 1 => a || b
  | 2 => a != b
  | _ => a && !b

/-- PLOG's effect. -/
def plogBody (s : State) (k : TC) : TRes :=
  quickly (s.onLt k (fun x => x.setP (opIdx k.w.dst)
    (plogOp k.fmt (x.pred (opIdx k.w.srca)) (x.pred (opIdx k.w.srcb)))))

/-- PLOG (R285). -/
def execPlog (d : Fin 4) (t : Fin 4096) (w : IFields) (s : State) : Host.Outcome State Fault Refusal :=
  .next (issue d t 0x53 w [] plogBody s)

/-! ### GETS, SETS (R245) -/

/-- R142: the layer table entry of layer index i of casement d; none when it is out of range. -/
def State.layer (s : State) (d i : Nat) : Option Nat :=
  let base := s.rf (0x0070240 + 4 * d) 11 0
  let cnt := s.rf (0x0070250 + 4 * d) 12 0
  if cnt ≤ i ∨ 4095 < base + i then none else some (base + i)

/-- NUM_LAYn registers (R143) and NUM_UPDn registers (R183). -/
def rLay (n o : Nat) : Nat := 0x0080000 + 0x20 * n + o
def rUpd (n o : Nat) : Nat := 0x00A0000 + 0x10 * n + o

/-- R245: the special operands that need a layer. -/
def specLayer (i : Nat) : Bool := decide (0x12 ≤ i ∧ i ≤ 0x14)

/-- R245: the value of special operand i; n is the layer table entry for LEVEL, REMON and GSX. -/
def State.special (s : State) (k : TC) (i n : Nat) : Nat :=
  let c := s.casement k.d
  let dies := (diesOf c.mask).length
  match i with
  | 0x01 => k.t
  | 0x02 => c.nlt
  | 0x03 => c.gx
  | 0x04 => c.gy
  | 0x05 => 144 * dies
  | 0x06 => dies
  | 0x07 => 6 * dies
  | 0x08 => s.partSize k.d / 2 ^ 20
  | 0x09 => s.rf 0x0000104 9 0
  | 0x0A => s.rf 0x0000104 17 10
  | 0x0B => s.rf 0x0000104 25 18
  | 0x0C => s.rf 0x0000104 28 26
  | 0x0D => s.rf 0x000010C 12 0
  | 0x0E => s.rf 0x000010C 17 13
  | 0x0F => s.rf 0x000010C 22 18
  | 0x10 => s.rf 0x000010C 25 23
  | 0x11 => (s.reg (0x0070260 + 4 * k.d)).toNat
  | 0x12 => s.rf (rLay n 0) 2 0
  | 0x13 => s.rf (rUpd n 0) 27 27
  | 0x14 => wrap (sext (s.rf (rUpd n 0) 23 16) 8) 32
  | i =>
    if 0x20 ≤ i ∧ i < 0x30 then k.x.lreg (i - 0x20)
    else if 0x30 ≤ i then k.x.acnt (i - 0x30)
    else 0

/-- R281: an EPOCH STEP with IMM[0] = 1 of this tile has not completed. -/
def LTile.stepWaits (x : LTile) : Bool := x.inc.any (fun i => decide (i.kind = .step))

/-- GETS's effect; LEVEL, REMON and GSX wait for the commit that a STEP waits for (R281). -/
def getsBody (s : State) (k : TC) : TRes :=
  let i := opIdx k.w.srca
  let lay := s.layer k.d (fld k.imm 11 0)
  if specLayer i && k.x.stepWaits then .wait
  else guarded s (need (specLayer i && lay.isNone) 0x0A 5) (fun _ =>
    quickly (s.onLt k (fun x => x.setS (opIdx k.w.dst) (s.special k i (lay.getD 0)))))

/-- GETS (R285). -/
def execGets (d : Fin 4) (t : Fin 4096) (w : IFields) (s : State) : Host.Outcome State Fault Refusal :=
  .next (issue d t 0x54 w [] getsBody s)

/-- SETS's effect: a live-region entry, unchecked until BLKEND (R217). -/
def setsBody (s : State) (k : TC) : TRes :=
  let n := opIdx k.w.dst - 0x20
  quickly (s.onLt k (fun x => { x with lr := Assoc.put x.lr n (BitVec.ofNat 32 (k.sc k.w.srca)) 0 }))

/-- SETS (R285). -/
def execSets (d : Fin 4) (t : Fin 4096) (w : IFields) (s : State) : Host.Outcome State Fault Refusal :=
  .next (issue d t 0x55 w [] setsBody s)

/-! ### BR, FENCE, BLKEND (R282 to R284) -/

/-- An address moved by a signed number of instructions, modulo 2^64. -/
def branchTo (pc off : Nat) : Nat := wrap ((pc : Int) + 16 * sext off 32) 64

/-- BR's effect. -/
def brBody (s : State) (k : TC) : TRes :=
  let tgt := branchTo k.x.pc (fld k.imm 31 0)
  guarded s (need (decide (tgt < k.x.bstart ∨ k.x.bend < tgt)) 0x0D 5) (fun _ =>
    .ok ⟨s, [], [], [], .plain, true, some tgt⟩)

/-- BR (R284). -/
def execBr (d : Fin 4) (t : Fin 4096) (w : IFields) (s : State) : Host.Outcome State Fault Refusal :=
  .next (issue d t 0x44 w [] brBody s)

/-- FENCE's effect: it issues once every earlier instruction has completed. -/
def fenceBody (s : State) (k : TC) : TRes := if k.x.inc.isEmpty then quickly s else .wait

/-- FENCE (R282). -/
def execFence (d : Fin 4) (t : Fin 4096) (w : IFields) (s : State) : Host.Outcome State Fault Refusal :=
  .next (issue d t 0x42 w [] fenceBody s)

/-- R283: the four wait-condition words of a BLKEND. -/
def waitWords (k : TC) : List Nat :=
  if opNone k.w.srca then [] else (rangeFrom (opIdx k.w.srca) 4).map k.x.sreg

/-- R221: conditions merged by counter. -/
def mergeWaits (l : List Nat) : List (Nat × Nat) :=
  ((List.range 16).map (fun n =>
    (n, ((l.filter (fun x => fld x 19 16 == n)).map (fun x => fld x 15 0)).foldl (· + ·) 0))).filter (fun x => x.2 != 0)

/-- R217: a live entry that breaks the rule. -/
def liveBad (e : Nat) : Bool := fld e 31 21 != 0 || decide (1024 < fld e 9 0 + fld e 20 10)

/-- R217, R221, R283: the faults of BLKEND. -/
def blkendFault (k : TC) : Option TFault :=
  lowest [
    need ((List.range 16).any (fun n => bit (fld k.imm 15 0) n && liveBad (k.x.lreg n))) 0x0C 7,
    need ((waitWords k).any (fun x => fld x 15 0 != 0 && fld x 31 20 != 0)) 0x0D 2]

/-- The next block's first instruction (R283). -/
def TC.nextBlock (k : TC) : Nat := branchTo k.x.pc (if fld k.imm 47 16 = 0 then 1 else fld k.imm 47 16)

/-- BLKEND's effect: the block ends; the boundary follows once it has drained (R215). -/
def blkendBody (s : State) (k : TC) : TRes :=
  guarded s (blkendFault k) (fun _ =>
    quickly (s.onLt k (fun x => { x with
      phase := .ended
      live := fld k.imm 15 0
      waits := mergeWaits (waitWords k)
      next := k.nextBlock
      haltReq := bit k.imm 48 })))

/-- BLKEND (R283). -/
def execBlkend (d : Fin 4) (t : Fin 4096) (w : IFields) (s : State) : Host.Outcome State Fault Refusal :=
  .next (issue d t 0x43 w [] blkendBody s)

/-! ### CRC, DGST (R275, R276) -/

/-- A running value: a pair for CRC-64, a single register otherwise; NONE is the empty value (R388). -/
def TC.crcVal (k : TC) (p : CrcPoly) (b : BitVec 8) : Nat :=
  if opNone b then crcEmpty p
  else if p.width = 64 then k.x.pair (opIdx b) else k.x.sreg (opIdx b) % 2 ^ p.width

/-- The scalars that hold a result. -/
def crcRegs (p : CrcPoly) (i : Nat) : List Nat := if p.width = 64 then [i, i + 1] else [i]
def LTile.setCrc (x : LTile) (p : CrcPoly) (i v : Nat) : LTile := if p.width = 64 then x.setPair i v else x.setS i v

/-- R275: a combine with SRCA NONE gives b, whatever the length; R390 says the rest (log 66). -/
def TC.crcJoin (k : TC) (p : CrcPoly) (n : Nat) : Nat :=
  let b := k.crcVal p k.w.srcb
  if opNone k.w.srca then b else crcCombine p (k.crcVal p k.w.srca) b n

/-- CRC's effect. -/
def crcBody (s : State) (k : TC) : TRes :=
  let p := crcPoly (k.fmt % 4)
  let a := k.crcVal p k.w.srca
  let i := opIdx k.w.dst
  let n := k.sc k.w.srcc
  if 8 ≤ k.fmt then
    let v := k.crcJoin p n
    .ok ⟨s.onLt k (fun x => x.setCrc p i v), [], [], crcRegs p i, .plain, false, none⟩
  else
    let off := k.sc k.w.srcb
    let r : Rng := ⟨3, 0, off, n⟩
    withRanges s k [] [r] [] [r] (fun s =>
      let v := crcFeeds p a (s.rd k 0 off n)
      .ok ⟨s.onLt k (fun x => x.setCrc p i v), [(off, n)], [], crcRegs p i, .plain, false, none⟩)

/-- CRC (R275). -/
def execCrc (d : Fin 4) (t : Fin 4096) (w : IFields) (s : State) : Host.Outcome State Fault Refusal :=
  .next (issue d t 0x30 w [] crcBody s)

/-- R276: the canonical byte sequence of a tensor. -/
def State.canonical (s : State) (k : TC) (t : Tens) : List Nat :=
  (t.planes.flatMap (fun p => (List.range t.lines).flatMap (fun c => s.rd k t.sp (p.base + c * p.stride) p.bytes))) ++
    (if t.fmt.hasRecord then s.rd k t.sp t.side 16 else [])

/-- DGST's effect. -/
def dgstBody (s : State) (k : TC) : TRes :=
  let a := k.tA
  let p := crcPoly 2
  let i := opIdx k.w.dst
  withRanges s k [a.check, s.planeCheck k a] a.lineAll [] a.lineAll (fun s =>
    let v := crcFeeds p (k.crcVal p k.w.srcb) (s.canonical k a)
    .ok ⟨s.onLt k (fun x => x.setPair i v), paneOf a.lineAll, [], [i, i + 1], .plain, false, none⟩)

/-- DGST (R276). -/
def execDgst (d : Fin 4) (t : Fin 4096) (w : IFields) (s : State) : Host.Outcome State Fault Refusal :=
  .next (issue d t 0x31 w [] dgstBody s)

/-! ### Arrivals (R220 to R222) -/

/-- The Dispatcher that holds a logical tile: its physical tile's die, or the casement's lowest when it is not resident. -/
def State.dispOf (s : State) (d t : Nat) : Nat :=
  match (s.lt d t).phys with
  | some p => dieOfTile p
  | none => d

/-- The lowest set bit of i. -/
def lowBit (i : Nat) : Nat := (i ^^^ (i - 1)) / 2 + 1

/-- The tree reductions of casement d's tiles that belong to the tree of x (R273). -/
def State.treeOps (s : State) (d : Nat) (x : RedOp) : List RedOp :=
  (List.range (s.casement d).nlt).flatMap (fun t => (s.lt d t).inc.filterMap (fun i => match i.kind with
    | .red y => if y.splits = x.splits ∧ y.t0 = x.t0 ∧ y.ts = x.ts then some y else none
    | _ => none))

/-- A tree reduction waits on another tile: a split that this one needs before it can end has not issued it (R273). Split i needs
those it gathers, and those its partner gathers below it. -/
def State.redWaits (s : State) (d : Nat) (x : RedOp) : Bool :=
  let ys := s.treeOps d x
  let lo := if x.i = 0 then 0 else x.i - lowBit x.i
  let hi := if x.i = 0 then x.splits else min x.splits (x.i + lowBit x.i)
  (rangeFrom lo (hi - lo)).any (fun j => !ys.any (fun y => decide (y.i ≤ j ∧ j < y.i + y.h)))

/-- The tile waits inside a block on another logical tile (R222): a RECV whose count is not met, a RED in tree form. -/
def State.waitsInside (s : State) (d : Nat) (x : LTile) : Bool :=
  x.phase == .running && x.inc.any (fun i => match i.kind with
    | .recv n c => decide (x.acnt n < c)
    | .red y => s.redWaits d y
    | _ => false)

/-- R221: the wait conditions of the next block hold. -/
def LTile.ready (x : LTile) : Bool := x.phase == .boundary && x.waits.all (fun c => decide (c.2 ≤ x.acnt c.1))

/-- The logical tiles of casement d with their indices. -/
def State.ltList (s : State) (d : Nat) : List (Nat × LTile) := (List.range (s.casement d).nlt).map (fun t => (t, s.lt d t))

/-- R222: every resident tile waits inside a block while a non-resident one holds a ready block. -/
def State.stalled (s : State) (d : Nat) : Bool :=
  let l := s.ltList d
  (l.filter (fun x => x.2.phys.isSome)).all (fun x => s.waitsInside d x.2) && l.any (fun x => x.2.phys.isNone && x.2.ready)

/-- R222: the dispatch-stall event. -/
def State.stallCheck (s : State) (d : Nat) : State :=
  if s.stalled d then s.postArb (arbPlace d) { kind := 4, unit := d, ctag := s.tagOf d } else s

/-- R222: the stall event when the step from s to t brings the stall about. -/
def State.stallEdge (s t : State) (d : Nat) : State := if s.stalled d then t else t.stallCheck d

/-- R222: the stall that the instruction of k brings about when it issues and waits as kind says. -/
def State.stallWith (s : State) (k : TC) (kind : IKind) : State :=
  let s1 := s.onLt k (fun x => { x with inc := x.inc ++ [⟨x.nextId, [], [], [], kind⟩] })
  (s.stallEdge s1 k.d).onLt k (fun x => { x with inc := x.inc.dropLast })

/-- R220: one arrival at counter n of tile t, a grant of its Dispatcher's placement arbiter; it may make a tile's next block ready
while every resident tile waits (R222). -/
def State.arrive (s : State) (d t n : Nat) : State :=
  let a := arbPlace (s.dispOf d t)
  let x := s.lt d t
  if x.acnt n = 2 ^ 32 - 1 then
    s.postArb a { kind := 4, unit := ((x.phys).getD 0), ctag := s.tagOf d, info := t + n * 2 ^ 12 }
  else s.stallEdge ((s.grant a).setLt d t (x.setAc n (x.acnt n + 1))) d

/-- RECV's effect: take c arrivals of counter n, or wait for them. -/
def recvBody (s : State) (k : TC) : TRes :=
  let n := fld k.imm 3 0
  let c := fld k.imm 19 4
  if c ≤ k.x.acnt n then quickly ((s.onLt k (fun x => x.setAc n (x.acnt n - c))).grant (arbPlace (s.dispOf k.d k.t)))
  else .ok ⟨s.stallWith k (.recv n c), [], [], [], .recv n c, false, none⟩

/-- RECV (R278). -/
def execRecv (d : Fin 4) (t : Fin 4096) (w : IFields) (s : State) : Host.Outcome State Fault Refusal :=
  .next (issue d t 0x39 w [] recvBody s)

/-- SYNC's effect: one arrival at the counter of every member. -/
def syncBody (s : State) (k : TC) : TRes :=
  let first := fld k.imm 11 0
  let count := fld k.imm 24 12
  let n := fld k.imm 28 25
  guarded s (need (decide ((s.casement k.d).nlt < first + count)) 0x0B 5) (fun _ =>
    quickly ((rangeFrom first count).foldl (fun s t => s.arrive k.d t n) s))

/-- SYNC (R279). -/
def execSync (d : Fin 4) (t : Fin 4096) (w : IFields) (s : State) : Host.Outcome State Fault Refusal :=
  .next (issue d t 0x40 w [] syncBody s)

/-- An unassigned opcode (R15, R253): the encoding fault. -/
def unassignedBody (s : State) (_ : TC) : TRes := .fault s ⟨1, 0, 0⟩

/-- UNASSIGNED_OPCODE (R253): a word whose opcode is none of the map's raises the encoding fault; a word with an assigned
opcode is no such word (log 2). -/
def execUnassignedOpcode (d : Fin 4) (t : Fin 4096) (op : BitVec 8) (w : IFields) (s : State) :
    Host.Outcome State Fault Refusal :=
  if (opSpec op.toNat w.fmt.toNat).isNone then .next (issue d t op.toNat w [] unassignedBody s) else .next s

end Sys2Proof.Machine
end

