-- ==== Sys2Proof/Machine/Ladder.lean ====
section
/-! DEFINITION. The NUM block: the level an instruction takes (R118, R119), contributions to a layer's sums (R137, R177), and
the commit (R138, R139, R177 to R180, R184, R319, R320). -/

namespace Sys2Proof.Machine

/-! ### Registers of a casement -/

def rQnt (d o : Nat) : Nat := 0x0070000 + o + 4 * d
/-- R86: plumb mode of casement d. -/
def State.plumb (s : State) (d : Nat) : Bool := bit (s.rf 0x0070F00 3 0) d
def State.numStep (s : State) (d : Nat) : Nat := (s.reg (0x0070260 + 4 * d)).toNat
/-- R151, R152: the key in force. -/
def State.keyOf (s : State) (d : Nat) : Nat :=
  (s.reg (0x0070400 + 8 * d)).toNat + (s.reg (0x0070404 + 8 * d)).toNat * 2 ^ 32

/-- R118: the level an instruction asks for: named by LSEL, or the layer's LEVEL in force (n its entry). -/
def State.levelOf (s : State) (lsel n : Nat) : Nat := if lsel = 6 then s.rf (rLay n 0) 2 0 else lsel

/-! ### Contributions (R137, R177) -/

/-- Change the sums of layer entry n for an instruction of tile x: of the next step when the tile has passed its STEP (R138). -/
def State.contribute (s : State) (x : LTile) (n : Nat) (f : LaySum → LaySum) : State :=
  let l := s.lay n
  s.setLay n (if x.stepOpen then { l with nxt := f l.nxt } else { l with cur := f l.cur })

def LaySum.addRho (v : Nat) (a : LaySum) : LaySum :=
  if a.peeps < 2 ^ 32 - 1 then { a with act := true, peeps := a.peeps + 1, rho := a.rho + v } else { a with act := true }
/-- R137: the sums are full: the contribution is dropped and STATSAT set. -/
def LaySum.rhoFull (a : LaySum) : Bool := decide (2 ^ 32 - 1 ≤ a.peeps)
def LaySum.mseFull (a : LaySum) : Bool := decide (2 ^ 32 - 1 ≤ a.nq)
def LaySum.addMse (v : Nat) (a : LaySum) : LaySum :=
  if a.nq < 2 ^ 32 - 1 then { a with act := true, nq := a.nq + 1, mse := a.mse + v } else { a with act := true }
/-- The greatest number of contributions a sum takes (R137). -/
def sumMax : Nat := 2 ^ 32 - 1
/-- R137: a QNT's elements, saturated elements and rejected outlier candidates; each sum drops what exceeds its limit. -/
def LaySum.addElems (n sat rej : Nat) (a : LaySum) : LaySum :=
  { a with act := true, elems := min sumMax (a.elems + n), sats := min sumMax (a.sats + sat), rej := min sumMax (a.rej + rej) }
/-- R137: one of these sums would drop something. -/
def LaySum.elemsFull (n sat rej : Nat) (a : LaySum) : Bool :=
  decide (sumMax < a.elems + n ∨ sumMax < a.sats + sat ∨ sumMax < a.rej + rej)

/-- The sums a tile's contribution goes to. -/
def State.sumOf (s : State) (x : LTile) (n : Nat) : LaySum := if x.stepOpen then (s.lay n).nxt else (s.lay n).cur

/-! ### The commit (R138) -/

/-- A threshold field: 0 is unused; above: sum > 2^-n * count. -/
def thrAbove (n sum32 count : Nat) : Bool := n != 0 && decide (count * 2 ^ 32 < sum32 * 2 ^ n)
/-- Below: sum < 2^-n * count, or no count. -/
def thrBelow (n sum32 count : Nat) : Bool := n != 0 && (count == 0 || decide (sum32 * 2 ^ n < count * 2 ^ 32))

/-- What one commit decides for a layer: level, quiet count, backoff, MOVE, commits since a descent. -/
structure LadderOut where
  level : Nat
  dwcnt : Nat
  backoff : Nat
  move : Nat
  since : Option Nat
  deriving DecidableEq, Repr

/-- The decision of R138 for an active layer. cfg: NUM_LAYn_CFG after staged writes; thr: NUM_LAD_THRd_L; auto: AUTO; last: MOVE
of the layer's last active commit. -/
def ladderDecide (cfg thr : Word) (auto : Bool) (last : Nat) (l : Lay) : LadderOut :=
  let a := l.cur
  let lev := rfld cfg 2 0
  let floor := min 5 (rfld cfg 5 3)
  let ceil := min 5 (rfld cfg 8 6)
  let dwell := max 1 (rfld cfg 21 18)
  let back := rfld cfg 24 22
  let up := (decide (0 < a.peeps) && thrAbove (rfld thr 4 0) a.rho a.peeps) ||
    (decide (0 < a.nq) && thrAbove (rfld thr 14 10) a.mse a.nq) ||
    (rfld thr 24 20 != 0 && decide (a.elems < a.sats * 2 ^ rfld thr 24 20)) || a.ovf || a.retook
  let down := thrBelow (rfld thr 9 5) a.rho a.peeps && thrBelow (rfld thr 19 15) a.mse a.nq
  let r : LadderOut :=
    if rfld cfg 13 13 = 1 then ⟨rfld cfg 12 10, 0, back, 3, l.since⟩
    else if rfld cfg 9 9 = 1 ∨ auto = false then ⟨lev, l.dwcnt, back, 0, l.since⟩
    else if up then ⟨lev + 1, 0, if last = 2 then min (back + 1) 7 else back, 1, none⟩
    else if down then
      let dw := min (l.dwcnt + 1) 2047
      if dwell * 2 ^ back ≤ dw then ⟨lev - 1, 0, back, 2, l.since⟩ else ⟨lev, dw, back, 0, l.since⟩
    else ⟨lev, 0, back, 0, l.since⟩
  let level := max floor (min ceil (min r.level 5))
  let quiet := r.since.map (· + 1)
  let clear := match quiet with | some q => decide (dwell * 2 ^ r.backoff ≤ q) | none => false
  let backoff := if clear then 0 else r.backoff
  let since := if r.move = 2 then some 0 else if clear then none else quiet
  ⟨level, r.dwcnt, backoff, r.move, since⟩

/-- An exact mean as an AF32 code; unstated when nothing was counted. -/
def meanAF (num den : Nat) : Nat :=
  let q := jamDiv num den
  ffAF32.encX (.fin q)

/-- A register takes a mean of the step, or a free value when nothing was measured (log 5). -/
def State.publishMean (s : State) (k num den : Nat) : State :=
  if den = 0 then (s.setReg k (Config.freeWord s.free)).draw else s.setReg k (BitVec.ofNat 32 (meanAF num den))

/-- R138: the ladder's part of a commit for layer entry n of casement d. -/
def State.commitLadder (s : State) (d n : Nat) : State :=
  let l := s.lay n
  let cfg := s.reg (rLay n 0)
  if !l.cur.act && rfld cfg 13 13 = 0 then s
  else
    let thr := s.reg (0x0070300 + 0x20 * d + 4 * rfld cfg 2 0)
    let st := s.reg (rLay n 0xC)
    let r := ladderDecide cfg thr (s.rf (0x0070220 + 4 * d) 0 0 == 1) (rfld st 6 5) l
    let cfg' := rset (rset (rset cfg 2 0 r.level) 13 13 0) 24 22 r.backoff
    let st' := rset (rset (rset st 6 5 r.move) 14 7 (min r.dwcnt 0xFF)) 30 15 (min l.cur.nfp 0xFFFF)
    let s1 := (s.setReg (rLay n 0) cfg').setReg (rLay n 0xC) st'
    let s2 := s1.setReg (rLay n 0x10) (BitVec.ofNat 32 l.cur.peeps)
    let s3 := s2.publishMean (rLay n 0x14) l.cur.rho (l.cur.peeps * 2 ^ 32)
    let s4 := s3.publishMean (rLay n 0x18) l.cur.mse (l.cur.nq * 2 ^ 32)
    let s5 := s4.publishMean (rLay n 0x1C) l.cur.sats l.cur.elems
    s5.setLay n { l with dwcnt := r.dwcnt, since := r.since }

/-- R178: the state exponent after a commit. -/
def gsxNext (gsx : Int) (msat : Bool) (mexp : Option Int) : Int :=
  let g := match mexp with
    | none => if msat then gsx - 1 else gsx
    | some m => if msat ∨ 15 ≤ m then gsx - 1 else if m ≤ 10 then gsx + 1 else gsx
  max (-64) (min 63 g)

/-- R178, R180, R183: the update registers' part of a commit for layer entry n; gw: GSX was written since the last commit. -/
def State.commitUpdate (s : State) (d n : Nat) : State :=
  let l := s.lay n
  let a := l.cur
  let cfg := s.reg (rUpd n 0)
  let gsx := sext (rfld cfg 23 16) 8
  let gsx' := if a.opt && rfld cfg 24 24 == 1 && !l.gsxw then gsxNext gsx a.msat a.mexp else gsx
  let rem := rfld cfg 27 27
  let rem' := match rfld cfg 26 25 with
    | 0 => 0
    | 1 => 1
    | _ => if a.ulost * 2 ^ s.rf (0x0070500 + 4 * d) 7 4 > a.uelem then 1 else rem
  let mexp := match a.mexp with
    | none => 0x80
    | some m => wrap (max (-127) m) 8
  let s1 := s.setReg (rUpd n 0) (rset (rset cfg 23 16 (wrap gsx' 8)) 27 27 rem')
  let s2 := s1.setRf (rUpd n 4) 15 8 mexp
  let s3 := s2.setReg (rUpd n 8) (BitVec.ofNat 32 (min a.uelem (2 ^ 32 - 1)))
  s3.setReg (rUpd n 0xC) (BitVec.ofNat 32 (min a.ulost (2 ^ 32 - 1)))

/-- The sums of the step are cleared; those of the step that has begun take their place. -/
def State.commitClear (s : State) (n : Nat) : State :=
  let l := s.lay n
  s.setLay n { l with cur := l.nxt, nxt := LaySum.zero, gsxw := false }

/-- R139, R184: the staged writes of layer entry n come into force. -/
def State.commitStaged (s : State) (n : Nat) : State :=
  [rLay n 0, rLay n 4, rLay n 8, rUpd n 0].foldl State.unstage s

/-- The layer table entries of casement d (R142). -/
def State.layersOf (s : State) (d : Nat) : List Nat :=
  let base := s.rf (0x0070240 + 4 * d) 11 0
  rangeFrom base (min (min 4096 (s.rf (0x0070250 + 4 * d) 12 0)) (4096 - base))

/-- The registers of casement d whose writes wait for its commit: thresholds, NUM_LAD_CTL, NUM_UPD_CTL, the key. -/
def commitRegs (d : Nat) : List Nat :=
  (List.range 6).map (fun l => 0x0070300 + 0x20 * d + 4 * l) ++ [0x0070220 + 4 * d, 0x0070500 + 4 * d, 0x0070400 + 8 * d, 0x0070404 + 8 * d]

/-- R319: a STEPS page at a commit: a resident one keeps its frame, whose contents become undefined; a non-resident one loses its
host copy. -/
def State.stepsPage (s : State) (d v : Nat) : State :=
  let s := s.walkTouch d (v * frameBytes)
  match s.walk d (v * frameBytes) with
  | .leaf x e =>
    if leHost e then s
    else if leRes e then s.paStale d (leFrame e * frameBytes) frameBytes
    else if leFrame e = frameNone then s
    else
      let c := s.casement d
      (s.setCas d ({ c with orefs := c.orefs.erase (leFrame e) }.give (leFrame e))).putEntry d x (leSet e frameNone false false)
  | _ => s

/-- R319, R324: the poisoned entry that the walks for the STEPS pages of a commit meet first. -/
def State.stepsPoison (s : State) (d : Nat) : Option Nat :=
  (s.casement d).stepPages.findSome? (fun v => match s.walk d (v * frameBytes) with | .poison x => some x | _ => none)

/-- R324, R325: a paging action of casement d meets the poisoned entry at x: the poison fault, of no instruction (log 12). -/
def State.pagingFault (s : State) (d x : Nat) : State := s.raiseFault d 0 ⟨0x11, 0, detailOf 2 x⟩ 0 0

/-- NUM commits go on: the program runs, or a HOLD that no fault caused lets its issued instructions complete (R250, R360). -/
def State.commits (s : State) (d : Nat) : Bool :=
  let c := s.casement d
  c.phase == .running || (c.phase == .stopped && s.fabState d == 2 && s.rf (rFab d 0x18) 11 8 != 5)

/-- R138: every instruction issued before the boundaries has completed. -/
def State.commitReady (s : State) (d : Nat) : Bool :=
  let c := s.casement d
  c.exist && s.commits d && c.steps == c.nlt &&
    (s.ltList d).all (fun x => x.2.inc.all (fun i => decide (x.2.stepAt ≤ i.id)))

/-- R281: the tiles' STEPs are answered. -/
def LTile.committed (x : LTile) : LTile :=
  { x with stepOpen := false
           inc := x.inc.map (fun i => match i.kind with | .step => { i with kind := .plain } | _ => i) }

/-- The commit of casement d. -/
def State.commit (s : State) (d : Nat) : State :=
  let s1 := (commitRegs d).foldl State.unstage s
  let ls := s1.layersOf d
  let s2 := ls.foldl State.commitStaged s1
  let s3 := ls.foldl (fun s n => ((s.commitLadder d n).commitUpdate d n).commitClear n) s2
  let s4 := s3.setReg (0x0070260 + 4 * d) (s3.reg (0x0070260 + 4 * d) + 1)
  let s5 := (s4.casement d).stepPages.foldl (fun s v => s.stepsPage d v) s4
  let c := s5.casement d
  let s6 := (s5.setCas d { c with steps := 0, trace := c.recent, recent := [], traceOn := true, ptr := 0, outs := [] }).mapLts d
    LTile.committed
  match s5.stepsPoison d with
  | some x => s6.pagingFault d x
  | none => s6

end Sys2Proof.Machine
end

