-- ==== Sys2Proof/Machine/Avail.lean ====
section
/-! DEFINITION. Availability of dies (R18, R233), the safe state (R447, R448), and the binding of tiles (R208, R209, R227 to R230). -/

namespace Sys2Proof.Machine

/-! ### Safe state (R448) -/

def State.isSafe (s : State) : Bool := s.rf 0x0020808 8 8 == 1
/-- READY_L is asserted (R432, R440). -/
def State.isReady (s : State) : Bool := s.rf 0x1000014 5 5 == 1

/-- R448: the safe state: FAULT_L low, READY_L high, every die, controller, slice and port held in reset. -/
def State.enterSafe (s : State) (cause : Nat) : State :=
  let s1 := ((s.raise 0x0020808 8).setReg 0x0020810 (BitVec.ofNat 32 cause)).setRf 0x1000014 6 5 2
  let s2 := (List.range 8).foldl (fun s p => s.setRf (rPort p 0) 2 0 0) s1
  let s3 := (List.range 16).foldl (fun s f => s.setRf (0x0040000 + 0x100 * f) 0 0 0) s2
  { s3 with cas := [], lts := [], heldPane := Mem.empty, tiles := [], fabs := [], ports := [], lays := [], clines := [], cdirty := [], cdata := Mem.empty
            scratch := Mem.empty, shut := [], staged := [] }

/-! ### Dies (R18) -/

/-- The tile positions of a die. -/
def tilesOfDie (d : Nat) : List Nat := (List.range 640).filter (fun p => dieOfTile p == d)

def State.dieAvail (s : State) (d : Nat) : Bool := bit (s.rf 0x0000110 3 0) d

/-- R233: casement d stops with the event of number eseq: a program that runs ends; what is idle or loaded stops too. -/
def State.stopCas (s : State) (d eseq : Nat) : State :=
  let s1 := s.endProgram d eseq
  s1.setCas d { s1.casement d with phase := .stopped }

/-- R18, R233: die x becomes unavailable; the casement that holds it stops; with no die left the safe state follows (R447). n: the
number of the placement arbiter's grant that found it, 0 where none did (R27). -/
def State.dieLost (s : State) (x : Nat) (n : Nat := 0) : State :=
  if s.dieAvail x then
    let s1 := s.setRf 0x0000110 x x 0
    let eseq := s1.arbN arbEvent
    let s2 := s1.post { kind := 5, unit := x, ctag := s1.dieTag x, arbseq := n }
    let s3 := match s2.casOfDie x with
      | some d => s2.stopCas d eseq
      | none => s2
    if s3.rf 0x0000110 3 0 = 0 then s3.enterSafe 7 else s3
  else s

/-- The tiles of a die outside STATE 3. -/
def State.goodTiles (s : State) (d : Nat) : Nat := ((tilesOfDie d).filter (fun p => s.tilState p != 3)).length

/-- R18: a die with fewer than 144 tiles outside STATE 3 is lost. n: as for dieLost. -/
def State.dieCheck (s : State) (d : Nat) (n : Nat := 0) : State := if s.goodTiles d < 144 then s.dieLost d n else s

/-! ### Binding (R208, R209, R227) -/

/-- Bind logical tile t of casement d to position p: TIL_ID shows it. -/
def State.bindTile (s : State) (d t p : Nat) : State :=
  let s1 := (s.setTilState p 0).setRf (rTil p 0) 28 16 t
  let s2 := s1.setTile p { s1.tile p with own := some (d, t) }
  s2.setLt d t { s2.lt d t with phys := some p }

/-- Position p is bound to nothing; its STATE becomes v; a failing tile is no free spare, it waits in STATE 2 for its test (R229). -/
def State.unbind (s : State) (p v : Nat) : State :=
  let s1 := (s.setTilState p (if v = 1 ∧ (s.tile p).failing = true then 2 else v)).setRf (rTil p 0) 28 16 0x1FFF
  s1.setTile p { s1.tile p with own := none }

/-- The live ranges of a logical tile: offset and length in its Pane (R217). -/
def LTile.liveRanges (x : LTile) : List (Nat × Nat) :=
  ((List.range 16).filter (fun n => bit x.live n)).filterMap (fun n =>
    let e := x.lreg n
    let len := fld e 20 10 * 512
    if len = 0 then none else some (fld e 9 0 * 512, len))

/-- R216: the tile state record of 2,560 bytes. -/
def LTile.recordBytes (x : LTile) : List Nat :=
  (List.range 32).flatMap (fun n => leBytes 4 (x.sreg n)) ++
  leBytes 8 (x.preds.toNat / 2 * 2) ++
  (List.range 64).flatMap (fun n => leBytes 32 (x.td n).toNat) ++
  (List.range 16).flatMap (fun n => leBytes 4 (x.acnt n)) ++
  (List.range 16).flatMap (fun n => leBytes 4 (x.lreg n)) ++
  leBytes 8 x.next ++ leBytes 4 x.astat.toNat ++ leBytes 4 x.firstpos.toNat ++ List.replicate 232 0

/-- A record's fields put into a logical tile (R216). -/
def LTile.fromRecord (x : LTile) (b : List Nat) : LTile :=
  let w := fun (o n : Nat) => leNat ((b.drop o).take n)
  let put := fun (l : List (Nat × Word)) (o n : Nat) =>
    (List.range n).foldl (fun l i => Assoc.put l i (BitVec.ofNat 32 (w (o + 4 * i) 4)) 0) l
  { x with
    sregs := put [] 0 32
    preds := BitVec.ofNat 8 (w 128 1 / 2 * 2 + 1)
    tds := (List.range 64).foldl (fun l i => Assoc.put l i (BitVec.ofNat 256 (w (136 + 32 * i) 32)) 0) []
    ac := put [] 2184 16
    lr := put [] 2248 16
    next := w 2312 8
    astat := BitVec.ofNat 32 (w 2320 4)
    firstpos := BitVec.ofNat 32 (w 2324 4) }

/-- The status registers of the tile's position, kept with the logical tile when it leaves it (R209). -/
def State.takeStatus (s : State) (d t p : Nat) : State :=
  let s1 := s.setLt d t { s.lt d t with astat := s.reg (rTil p 4), firstpos := s.reg (rTil p 8) }
  (s1.setReg (rTil p 4) 0).setReg (rTil p 8) 0

/-- The logical tile's status appears in its position's registers. -/
def State.giveStatus (s : State) (d t p : Nat) : State :=
  (s.setReg (rTil p 4) (s.lt d t).astat).setReg (rTil p 8) (s.lt d t).firstpos

/-- Copy the live bytes of a logical tile with their poison (R219). -/
def State.copyLive (s : State) (x : LTile) (rd : State → Nat → Nat → State × List PByte)
    (wr : State → Nat → List PByte → State) : State :=
  x.liveRanges.foldl (fun s r => let q := rd s r.1 r.2; wr q.1 r.1 q.2) s

/-- The address of tile t's record in the context area (R228). -/
def Cas.slot (c : Cas) (t : Nat) : Nat := c.ctxBase + t * (2560 + 524288)

/-- R228: logical tile t leaves position p: record and live bytes go to its slot. -/
def State.saveTile (s : State) (d t p : Nat) : State :=
  let s1 := s.takeStatus d t p
  let c := s1.casement d
  let x := s1.lt d t
  let s2 := s1.paWrite d (c.slot t) (clean x.recordBytes)
  let s3 := s2.copyLive x (fun s a n => let s := s.paneTouch p a n; (s, s.paneRead p a n))
    (fun s a b => s.paWrite d (c.slot t + 2560 + a) b)
  (s3.setLt d t { s3.lt d t with phys := none }).unbind p 1

/-- The record of tile t in its slot (R228), its counters as the Dispatcher holds them (R220). -/
def State.slotRecord (s : State) (d t : Nat) : List PByte :=
  let b := s.paRead d ((s.casement d).slot t) 2560
  b.take 2184 ++ clean ((List.range 16).flatMap (fun n => leBytes 4 ((s.lt d t).acnt n))) ++ b.drop 2248

/-- R228: logical tile t comes to position p from its slot: its record and its live bytes. -/
def State.loadTile (s : State) (d t p : Nat) : State :=
  let c := s.casement d
  let s0 := s.paTouch d (c.slot t) 2560 .ctxRead
  let s1 := (s0.setLt d t ((s0.lt d t).fromRecord (pvals (s0.slotRecord d t)))).bindTile d t p
  let s2 := s1.copyLive (s1.lt d t)
    (fun s a n => let s := s.paTouch d (c.slot t + 2560 + a) n .ctxRead; (s, s.paRead d (c.slot t + 2560 + a) n))
    (fun s a b => s.paneWrite p a b)
  s2.giveStatus d t p

/-- One grant of the placement arbiter of each of the casement's Dispatchers (R229 step 4). -/
def State.grantAll (s : State) (d : Nat) : State := (diesOf (s.mask d)).foldl (fun s x => s.grant (arbPlace x)) s

/-- R229: logical tile t moves from position a to the spare b of the same die: the die's Dispatcher grants the mark (step 1), every
Dispatcher of the casement the rebind (step 4); a goes to STATE v and takes b's place in the spare map (R17). -/
def State.migrate (s : State) (d t a b v : Nat) : State :=
  let s1 := (s.grant (arbPlace (dieOfTile a))).paneZero b
  let s2 := s1.takeStatus d t a
  let s3 := s2.copyLive (s2.lt d t) (fun s o n => let s := s.paneTouch a o n; (s, s.paneRead a o n))
    (fun s o bs => s.paneWrite b o bs)
  let s4 := (((s3.grantAll d).unbind a v).bindTile d t b).giveStatus d t b
  { s4 with spares := NSet.insert (NSet.erase s4.spares b) a }

/-- The free spares of a die: positions of its spare map (R17) in STATE 1 that take work (R378, R428); R230 uses no other unbound
tile. -/
def State.freeSpares (s : State) (die : Nat) : List Nat :=
  (tilesOfDie die).filter (fun p => s.tilState p == 1 && NSet.mem s.spares p && !s.blkDown 0 p)

end Sys2Proof.Machine
end

