-- ==== Sys2Proof/Machine/Movement.lean ====
section
/-! DEFINITION. LD, ST, MOV (R255, R256) and TDLD, TDST, TDADJ (R257). -/

namespace Sys2Proof.Machine

/-- Copy lines [f, f + n) of every plane of src, and its scale record, to lines [0, n) of dst (R255): bits and poison. -/
def copyLines (src dst : Tens) (f n : Nat) (rd : Nat → Nat → List PByte) (wr : State → Nat → List PByte → State)
    (s : State) : State :=
  let planes := src.planes.zip dst.planes
  let moves := planes.flatMap (fun q => (List.range n).map (fun c =>
    (q.2.base + c * q.2.stride, rd (q.1.base + (f + c) * q.1.stride) q.1.bytes)))
  let rec16 := if src.fmt.hasRecord then [(dst.side, rd src.side 16)] else []
  (moves ++ rec16).foldl (fun s m => wr s m.1 m.2) s

/-- R255: lines FIRST and COUNT of a movement. -/
def TC.first (k : TC) : Nat := fld k.imm 19 0
def TC.count (k : TC) : Nat :=
  let n := fld k.imm 39 20
  if n = 0 then k.tA.lines - k.first else n

/-- R255: the faults of LD, ST and MOV. -/
def moveFaults (s : State) (k : TC) (pane : Option TFault) : List (Option TFault) :=
  let a := k.tA
  let t := k.tDst
  [ pane, t.check, a.check,
    need (t.fc != a.fc || t.outl != a.outl) 2 1,
    s.planeCheck k t, s.planeCheck k a,
    need (t.planesOverlap a) 5 1,
    need (t.is .af32 && t.sp != 0) 6 1,
    need (a.is .af32 && a.sp != 0) 6 2,
    need (t.len != a.len) 7 1,
    need (decide (a.lines < k.first + k.count)) 7 5,
    need (decide (t.lines < k.count)) 7 1 ]

/-- The ranges that a movement reads and writes. -/
def TC.moveRds (k : TC) : List Rng := k.tA.lineRngs k.first k.count
def TC.moveWrs (k : TC) : List Rng := k.tDst.lineRngs 0 k.count

/-- R255: the lines move, with their poison. -/
def State.moveLines (s : State) (k : TC) : State :=
  copyLines k.tA k.tDst k.first k.count (s.spRead k.d k.p k.tA.sp) (fun s x b => s.spWrite k.d k.p k.tDst.sp x b) s

/-- R255, R256: the course of a movement. -/
def moveBody (pane : TC → Option TFault) (s : State) (k : TC) : TRes :=
  withRanges s k (moveFaults s k (pane k)) k.moveRds k.moveWrs [] (fun s =>
    .ok ⟨s.moveLines k, paneOf k.moveRds, paneOf k.moveWrs, [], .plain, false, none⟩)

/-- LD (R255): into the Pane. -/
def execLd (d : Fin 4) (t : Fin 4096) (w : IFields) (s : State) : Host.Outcome State Fault Refusal :=
  .next (issue d t 0x01 w [] (moveBody (fun k => inPane k.tDst)) s)

/-- ST (R255): out of the Pane. -/
def execSt (d : Fin 4) (t : Fin 4096) (w : IFields) (s : State) : Host.Outcome State Fault Refusal :=
  .next (issue d t 0x02 w [] (moveBody (fun k => inPane k.tA)) s)

/-- MOV (R255): between any spaces. -/
def execMov (d : Fin 4) (t : Fin 4096) (w : IFields) (s : State) : Host.Outcome State Fault Refusal :=
  .next (issue d t 0x03 w [] (moveBody (fun _ => none)) s)

/-- R257: the Pane offset of a stored descriptor must be a multiple of 32. -/
def tdAlign (a slot : Nat) : Option TFault := need (a % 32 != 0) 3 slot (detailOf 0 a)

/-- TDLD's effect: the descriptor at the Pane offset in SRCA. -/
def tdldBody (s : State) (k : TC) : TRes :=
  let a := k.sc k.w.srca
  let r : Rng := ⟨2, 0, a, 32⟩
  withRanges s k [tdAlign a 2] [r] [] [r] (fun s =>
    let v := BitVec.ofNat 256 (s.rdNat k 0 a 32)
    let i := opIdx k.w.dst
    .ok ⟨s.onLt k (fun x => x.setTd i v), [(a, 32)], [], [32 + i], .plain, false, none⟩)

/-- TDST's effect: SRCA's descriptor at the Pane offset in DST. -/
def tdstBody (s : State) (k : TC) : TRes :=
  let a := k.sc k.w.dst
  let r : Rng := ⟨1, 0, a, 32⟩
  withRanges s k [tdAlign a 1] [] [r] [] (fun s =>
    let v := (k.x.td (opIdx k.w.srca)).toNat
    .ok ⟨s.paneWrite k.p a (clean (leBytes 32 v)), [], [(a, 32)], [], .plain, false, none⟩)

/-- The field that TDADJ's FMT selects (R257). -/
def adjField (fmt : Nat) : Nat × Nat :=
  match fmt with
  | 0 => (40, 0)
  | 1 => (81, 41)
  | 2 => (223, 192)
  | 3 => (255, 224)
  | 4 => (127, 108)
  | 5 => (147, 128)
  | _ => (176, 165)

/-- R257: the field plus the signed scalar, wrapped within its width. -/
def adjDesc (v : Nat) (fmt n : Nat) : Nat :=
  let f := adjField fmt
  let w := f.1 + 1 - f.2
  setFld v f.1 f.2 (wrap ((fld v f.1 f.2 : Int) + sext n 32) w)

/-- TDADJ's effect. -/
def tdadjBody (s : State) (k : TC) : TRes :=
  let i := opIdx k.w.dst
  quickly (s.onLt k (fun x => x.setTd i (BitVec.ofNat 256 (adjDesc (x.td i).toNat k.fmt (k.sc k.w.srca)))))

/-- TDLD (R257). -/
def execTdld (d : Fin 4) (t : Fin 4096) (w : IFields) (s : State) : Host.Outcome State Fault Refusal :=
  .next (issue d t 0x04 w [] tdldBody s)

/-- TDST (R257). -/
def execTdst (d : Fin 4) (t : Fin 4096) (w : IFields) (s : State) : Host.Outcome State Fault Refusal :=
  .next (issue d t 0x05 w [] tdstBody s)

/-- TDADJ (R257). -/
def execTdadj (d : Fin 4) (t : Fin 4096) (w : IFields) (s : State) : Host.Outcome State Fault Refusal :=
  .next (issue d t 0x06 w [] tdadjBody s)

end Sys2Proof.Machine
end

