-- ==== Sys2Proof/Machine/Collect.lean ====
section
/-! DEFINITION. SEND (R277) and EPOCH (R281, R352). -/

namespace Sys2Proof.Machine

/-- R277: the faults of SEND. -/
def sendFaults (s : State) (k : TC) : List (Option TFault) :=
  let a := k.tA
  let t := k.tDst
  [ inPane t, inPane a, t.check, a.check,
    need (t.fc != a.fc || t.outl != a.outl) 2 1,
    s.planeCheck k t, s.planeCheck k a,
    need (t.len != a.len || t.lines != a.lines) 7 1,
    need (decide ((s.casement k.d).nlt ≤ k.sc k.w.srcb)) 0x0B 3 ]

/-- SEND's effect at issue: the checks; the payload moves at SEND_DELIVERY. -/
def sendBody (s : State) (k : TC) : TRes :=
  let tgt := k.sc k.w.srcb
  withRanges s k (sendFaults s k) k.tA.lineAll [] [] (fun s =>
    .ok ⟨s, k.tA.pane, if tgt = k.t then k.tDst.pane else [], [],
      .send ⟨k.x.td (opIdx k.w.srca), k.x.td (opIdx k.w.dst), tgt, fld k.imm 3 0⟩, false, none⟩)

/-- SEND (R277). -/
def execSend (d : Fin 4) (t : Fin 4096) (w : IFields) (s : State) : Host.Outcome State Fault Refusal :=
  .next (issue d t 0x38 w [] sendBody s)

/-- EPOCH STEP's effect (R281): the step boundary of the tile; a second one waits for the commit of the first. -/
def stepBody (s : State) (k : TC) : TRes :=
  if k.x.stepOpen then .wait
  else
    let c := s.casement k.d
    let s1 := (s.setCas k.d { c with steps := c.steps + 1 }).onLt k (fun x => { x with stepOpen := true, stepAt := x.nextId })
    if bit k.imm 0 then .ok ⟨s1, [], [], [], .step, false, none⟩ else quickly s1

/-- EPOCH in the form FMT 0 is STEP, FMT 1 TOKEN: a word of the other form is no such command (log 2). -/
def execEpochStep (d : Fin 4) (t : Fin 4096) (w : IFields) (s : State) : Host.Outcome State Fault Refusal :=
  if w.fmt = 1#4 then .next s else .next (issue d t 0x41 w [] stepBody s)

/-- R281, R351: the tile is not the master's, or the casement is not on the fabric. -/
def State.tokenBad (s : State) (k : TC) : Bool :=
  s.fabState k.d == 0 || s.fabState k.d == 3 || s.rf (rFab k.d 0xC) 15 0 != s.pkgId || s.rf (rFab k.d 0xC) 27 16 != k.t

/-- EPOCH TOKEN's effect (R352). -/
def tokenBody (s : State) (k : TC) : TRes :=
  let f := s.fab k.d
  let e := (s.reg (rFab k.d 0x10)).toNat
  guarded s (need (s.tokenBad k) 0x0E 0) (fun _ =>
    if f.tokOut.isSome then .wait
    else if (s.members k.d).length ≤ 1 then quickly ((s.setReg (rFab k.d 0x10) (BitVec.ofNat 32 (e + 1))).ripen k.d)
    else
      let s1 := s.setFab k.d { f with tokOut := some (k.t, k.x.nextId) }
      let s2 := (s1.sendTo (s1.successor k.d) (s1.fabTag k.d) 0 (.token ((e + 1) % 2 ^ 32))).1
      .ok ⟨s2, [], [], [], .token, false, none⟩)

/-- EPOCH TOKEN (R281). -/
def execEpochToken (d : Fin 4) (t : Fin 4096) (w : IFields) (s : State) : Host.Outcome State Fault Refusal :=
  if w.fmt = 1#4 then .next (issue d t 0x41 w [] tokenBody s) else .next s

/-! ### Delivery of a SEND (R220, R277) -/

/-- One slot of the context area (R228). -/
def slotBytes : Nat := 2560 + 524288

/-- The casement physical address of byte off of tile t's saved Pane image (R228). -/
def Cas.image (c : Cas) (t off : Nat) : Nat := c.ctxBase + t * slotBytes + 2560 + off

/-- R220: write bytes into a logical tile's Pane, or into its saved image when it is not resident. -/
def State.deliver (s : State) (d t off : Nat) (bs : List PByte) : State :=
  match (s.lt d t).phys with
  | some p => s.paneWrite p off bs
  | none => s.paWrite d ((s.casement d).image t off) bs

/-- The delivery of a SEND of tile t: its payload is written, the counter rises, the instruction is done (R277). -/
def State.sendDeliver (s : State) (d t : Nat) (x : SendOp) : State :=
  let src := tens x.src 2
  let dst := tens x.dst 1
  let p := ((s.lt d t).phys).getD 0
  let s1 := (src.lineAll).foldl (fun s r => s.paneTouch p r.a r.n) s
  let s2 := copyLines src dst 0 src.lines (s1.paneRead p) (fun s a b => s.deliver d x.tgt a b) s1
  s2.arrive d x.tgt x.cnt

end Sys2Proof.Machine
end

