-- ==== Sys2Proof/Machine/Blocks.lean ====
section
/-! DEFINITION. Blocks of logical tiles (R215, R218, R221, R222, R238), exchange and migration (R228 to R230), in-field tests
(R379 to R381), the delivery of a SEND (R220) and the ramps of the arrays (R198). -/

namespace Sys2Proof.Machine

/-! ### Starting a block (R221, R238) -/

def opBlkend : Nat := 0x43

/-- What the search for a block's BLKEND finds. -/
inductive Scan where
  | found (off : Nat)
  | fault (f : TFault)
  | wait
  deriving DecidableEq, Repr

/-- R238: the first BLKEND within n instructions of program offset o; every instruction fetched is checked (R309, R323). -/
def State.scan (s : State) (d p : Nat) (c : Cas) : Nat → Nat → State × Scan
  | 0, _ => (s, .fault ⟨0x0D, 0, 0⟩)
  | n + 1, o =>
    let a := c.pva + o
    match s.spCheck d 2 a instrBytes false with
    | .addr x => (s.lackFrame d x, .fault ⟨4, 0, detailOf 2 x⟩)
    | .poison x => (s, .fault ⟨0x11, 0, detailOf 2 x⟩)
    | .wait _ => (s, .wait)
    | .ok =>
      match s.allocPoison d a with
      | some x => (s, .fault ⟨0x11, 0, detailOf 2 x⟩)
      | none =>
      let s1 := (s.spUse d 2 a instrBytes false).spTouch d p 2 a instrBytes .fetch
      let b := s1.spRead d p 2 a instrBytes
      match firstPoison a b with
      | some x => (s1, .fault ⟨0x11, 0, detailOf 2 x⟩)
      | none => if nth (pvals b) 0 0 = opBlkend then (s1, .found o) else State.scan s1 d p c n (o + instrBytes)

/-- R221: the counts of a block's wait conditions leave their counters. -/
def LTile.takeWaits (x : LTile) : LTile := x.waits.foldl (fun x c => x.setAc c.1 (x.acnt c.1 - c.2)) { x with waits := [] }

/-- R228: a resident tile that gives up its place: halted, or at its boundary with a block that is not ready. -/
def LTile.givesUp (x : LTile) : Bool := x.phys.isSome && (x.phase == .halted || (x.phase == .boundary && !x.ready))

/-- R228: the non-resident tile of lowest index whose block is ready. -/
def State.waiting (s : State) (d : Nat) : Option Nat :=
  ((s.ltList d).find? (fun x => x.2.phys.isNone && x.2.ready)).map (·.1)

/-- R228: tile u comes to position p; a poisoned word of its record raises the poison fault (R323; log 27). -/
def State.comeTo (s : State) (d u p : Nat) : State :=
  let s1 := s.loadTile d u p
  if ppsn (s1.slotRecord d u) then s1.raiseFault d u ⟨0x11, 0, 0⟩ (s1.lt d u).next 0 else s1

/-- R228: tile t leaves its place to a ready tile, if there is one. -/
def State.exchange (s : State) (d t : Nat) : State :=
  match (s.lt d t).phys, s.waiting d with
  | some p, some u =>
    if (s.lt d t).givesUp then ((s.grant (arbPlace (dieOfTile p))).saveTile d t p).comeTo d u p else s
  | _, _ => s

/-- R228: every exchange that can be made while the program runs. -/
def State.exchanges (s : State) (d : Nat) : State :=
  if (s.casement d).quiesce then s else (List.range (s.casement d).nlt).foldl
    (fun s t => if (s.casement d).phase = .running then s.exchange d t else s) s

/-- A block of tile t can start: the casement runs, no context save waits, the tile is resident at its boundary with its
conditions met, and its Dispatcher takes work (R378, R428). -/
def State.canStart (s : State) (d t : Nat) : Bool :=
  (s.casement d).phase == .running && !(s.casement d).quiesce && (s.lt d t).phys.isSome && (s.lt d t).ready &&
    !s.blkDown 1 (s.dispOf d t)

/-- R218, R221, R238: the next block of tile t starts; the Pane bytes that are not live are undefined. -/
def State.blockStart (s : State) (d t : Nat) : State :=
  let x := s.lt d t
  let p := x.phys.getD 0
  match s.scan d p (s.casement d) 1024 x.next with
  | (_, .wait) => s
  | (s1, .fault f) => s1.raiseFault d t f x.next 0
  | (s1, .found e) =>
    let s2 := (s1.grant (arbPlace (dieOfTile p))).paneStale p x.liveRanges
    s2.setLt d t { (s2.lt d t).takeWaits with phase := .running, pc := x.next, bstart := x.next, bend := e }

/-- BLOCK_START (R221). -/
def execBlockStart (d : Fin 4) (t : Fin 4096) (s : State) : Host.Outcome State Fault Refusal :=
  let s1 := if (s.casement d).phase = .running then s.exchanges d else s
  .next (if s1.canStart d t then s1.blockStart d t else s1)

/-! ### In-field tests (R379 to R381) -/

def rIft : Nat := 0x0060200
def State.iftEn (s : State) : Bool := s.rf rIft 0 0 == 1
def State.iftDue (s : State) : Nat := 2 ^ s.rf rIft 5 1
def State.iftDefer (s : State) : Nat := min 64 (s.rf rIft 12 6)
def State.iftMax (s : State) : Nat := max 1 (s.rf rIft 15 13)
def rIftCnt (d : Nat) : Nat := 0x0060210 + 4 * d

/-- R380: the tile is due. -/
def State.isDue (s : State) (p : Nat) : Bool := s.iftEn && decide (s.iftDue ≤ (s.tile p).bounds)

/-- A tile of the die that is bound and whose forced test is pending (R381). -/
def State.forcedBound (s : State) (die : Nat) : List Nat :=
  (tilesOfDie die).filter (fun p => (s.tile p).forced && (s.tile p).own.isSome)

/-- R380: the priority with which tile p asks for a test slot, 1 highest; none when it asks for none. -/
def State.testPrio (s : State) (p : Nat) : Option Nat :=
  let x := s.tile p
  if x.testing || x.own.isSome then none
  else if s.tilState p = 2 then some (if x.failing then 1 else if x.forced then 2 else 4)
  else if s.tilState p = 1 then some 3
  else none

/-- R380, R381: the test of tile p may start now. -/
def State.testAllowed (s : State) (p : Nat) : Bool :=
  let die := dieOfTile p
  let ps := tilesOfDie die
  match s.testPrio p with
  | none => false
  | some r =>
    s.iftEn && !s.blkDown 1 die && !s.blkDown 0 p && decide ((ps.filter (fun q => (s.tile q).testing)).length < s.iftMax) &&
      ps.all (fun q => match s.testPrio q with
        | none => true
        | some r' => decide (r ≤ r' ∧ ¬(r = 3 ∧ r' = 3 ∧ (s.tile q).last < (s.tile p).last))) &&
      !(r == 3 && !(s.forcedBound die).isEmpty)

/-- R231: tile p is under test. -/
def State.testStart (s : State) (p : Nat) : State :=
  let s1 := (s.grant (arbPlace (dieOfTile p))).setTilState p 2
  s1.setTile p { s1.tile p with testing := true, spareTest := s.tilState p == 1 }

/-- IN_FIELD_TEST (R379, R380). -/
def execInFieldTest (p : Fin 640) (s : State) : Host.Outcome State Fault Refusal :=
  .next (if s.testAllowed p then s.testStart p else s)

/-- R231, R379: tile p has been tested: its Pane is zero; a tile that fails is mapped out. The events carry the number of the
placement grant that decides the tile (R27). -/
def State.tested (s : State) (p : Nat) (pass : Bool) : State :=
  let die := dieOfTile p
  let inj := s.injArmed 0x0F p
  let n := s.arbN (arbPlace die)
  let s0 := if inj then s.injFire else s
  let ok := pass && !inj
  let s1 := (s0.paneZero p).setTilState p (if ok then 1 else 3)
  let s2 := { s1 with tests := s1.tests + 1 }
  let s3 := s2.setTile p { s2.tile p with testing := false, spareTest := false, failing := false, forced := false, bounds := 0,
                                          defer := 0, last := s2.tests }
  let s4 := s3.postArb (arbPlace die) { kind := 2, det := 0x0F, unit := p, ctag := s.dieTag die, inj := inj }
  if ok then s4.count (rIftCnt die) 11 0 1
  else (s4.count (rIftCnt die) 19 12 1).post { kind := 5, unit := p, ctag := s.dieTag die, arbseq := n }

/-- R231, R379: the test of tile p ends; a failure may cost the die (R18). -/
def State.testEnd (s : State) (p : Nat) (pass : Bool) : State :=
  let t := s.tested p pass
  if t.tilState p = 3 then t.dieCheck (dieOfTile p) (s.arbN (arbPlace (dieOfTile p))) else t

/-- IN_FIELD_TEST_DONE (R231). -/
def execInFieldTestDone (p : Fin 640) (pass : Bool) (s : State) : Host.Outcome State Fault Refusal :=
  .next (if (s.tile p).testing then s.testEnd p pass else s)

/-! ### Block boundaries (R215, R228 to R230) -/

/-- A known-answer check of unit det at the boundary of the tile on p (R149, R366): the check failed by itself or by an
injection. -/
def State.known (s : State) (p det : Nat) (bad : Bool) : State :=
  let die := dieOfTile p
  let inj := s.injArmed det p
  let s1 := if inj then s.injFire else s
  if bad || inj then
    let s2 := s1.postArb (arbPlace die) { kind := 2, det := det, unit := p, ctag := s.dieTag die, inj := inj }
    s2.setTile p { s2.tile p with failing := true }
  else s1

/-- R194: the mismatches of one array have reached the limit. -/
def State.arrBad (s : State) (p : Nat) : Bool :=
  let lim := max 1 (s.rf (rTil p 0x10) 3 0)
  (List.range 4).any (fun a => decide (lim ≤ s.rf (rTil p 0x1C) (8 * a + 7) (8 * a)))

/-- R230: the spare whose test a failing tile of the die abandons. -/
def State.testedSpare (s : State) (die : Nat) : Option Nat :=
  (tilesOfDie die).find? (fun q => (s.tile q).testing && (s.tile q).spareTest && NSet.mem s.spares q)

/-- R230: a failing tile finds no spare: the casement stops and the tile is mapped out. -/
def State.exhausted (s : State) (d p : Nat) : State :=
  let eseq := s.arbN arbEvent
  let a := arbPlace (dieOfTile p)
  let s1 := s.postArb a { kind := 5, unit := p, ctag := s.tagOf d }
  let s2 := s1.endProgram d eseq
  (s2.unbind p 3).dieCheck (dieOfTile p) (s.arbN a)

/-- R229, R230: a failing tile's work leaves it. -/
def State.leaveFailing (s : State) (d t p : Nat) : State :=
  let die := dieOfTile p
  match s.freeSpares die with
  | b :: _ => s.migrate d t p b 2
  | [] =>
    match s.testedSpare die with
    | some b =>
      let s1 := s.setTile b { s.tile b with testing := false, spareTest := false }
      (s1.setTilState b 1).migrate d t p b 2
    | none => s.exhausted d p

/-- R380, R381: a due tile's work leaves it when a spare is free; else the test is deferred, and forced after DEFER more
boundaries. -/
def State.leaveDue (s : State) (d t p : Nat) : State :=
  let die := dieOfTile p
  let x := s.tile p
  let others := (s.forcedBound die).filter (· != p)
  match (if x.forced || others.isEmpty then s.freeSpares die else []) with
  | b :: _ => s.migrate d t p b 2
  | [] =>
    if x.forced then s
    else if s.iftDefer ≤ x.defer then (s.setTile p { x with forced := true }).count (rIftCnt die) 31 20 1
    else s.setTile p { x with defer := x.defer + 1 }

/-- What the Dispatcher does with the place of tile t at its boundary (R229). -/
def State.place3 (s : State) (d t p : Nat) (host : Bool) : State :=
  if (s.tile p).failing then s.leaveFailing d t p
  else if s.isDue p then s.leaveDue d t p
  else if host then
    match s.freeSpares (dieOfTile p) with
    | b :: _ => s.migrate d t p b 1
    | [] => s
  else s

/-- A block boundary of tile t on position p. -/
def State.boundary (s : State) (d t p : Nat) (rngBad crcBad host : Bool) : State :=
  let s1 := (s.known p 3 rngBad).known p 4 crcBad
  let x := s1.tile p
  let s2 := s1.setTile p { x with failing := x.failing || s1.arrBad p, bounds := x.bounds + 1 }
  let y := s2.lt d t
  let s3 := s2.setLt d t { y with phase := if y.haltReq then .halted else .boundary }
  let s4 := s3.place3 d t p host
  if (s4.casement d).phase = .running then s.stallEdge (s4.exchange d t) d else s4

/-- BLOCK_BOUNDARY (R215): the block of tile t has ended and drained. -/
def execBlockBoundary (d : Fin 4) (t : Fin 4096) (rngBad crcBad hostMig : Bool) (s : State) :
    Host.Outcome State Fault Refusal :=
  let x := s.lt d t
  match x.phys with
  | some p =>
    .next (if (s.casement d).phase = .running ∧ x.phase = .ended ∧ x.inc.isEmpty = true then
        s.boundary d t p rngBad crcBad hostMig else s)
  | none => .next s

/-! ### SEND_DELIVERY, RAMP_DOWN -/

/-- Tile t's incomplete instruction id, changed. -/
def State.setInc (s : State) (d t id : Nat) (k : IKind) : State :=
  let x := s.lt d t
  s.setLt d t { x with inc := x.inc.map (fun i => if i.id = id then { i with kind := k } else i) }

/-- SEND_DELIVERY (R220, R277): the payload of SEND id of tile t is written and counted. -/
def execSendDelivery (d : Fin 4) (t : Fin 4096) (id : Nat) (s : State) : Host.Outcome State Fault Refusal :=
  match (s.lt d t).inc.find? (fun i => i.id == id) with
  | some i =>
    match i.kind with
    | .send x =>
      .next ((s.sendDeliver d t x).setInc d t id .plain)
    | _ => .next s
  | none => .next s

/-- RAMP_DOWN (R198): array arr of tile p has stepped down its rungs and stops; without dummy operations there is no ramp. -/
def execRampDown (p : Fin 640) (arr : Fin 4) (s : State) : Host.Outcome State Fault Refusal :=
  .next (if bit (s.tile p).pwr 0 then
      s.setTile p { s.tile p with stopped := NSet.insert (s.tile p).stopped arr } else s)

end Sys2Proof.Machine
end

