-- ==== Sys2Proof/Machine/HardBase.lean ====
section
/-! DEFINITION. What hardened configuration is made of (R372 to R376): the copies of a register, the order of the scrubber's visits, the
unit that owns a field, the working copies that units hold. -/

namespace Sys2Proof.Machine

/-- The bits of a register that are hardened. -/
def hrwMask (off : Nat) : Nat :=
  match rowAt off with
  | some r => r.mask (fun t => t == .hrw)
  | none => 0

/-! ### The three copies (R372) -/

def popcount (n : Nat) : Nat := ((List.range 32).filter (fun i => bit n i)).length

/-- Its parity bit fits the copy. -/
def HCopy.good (c : HCopy) : Bool := (popcount c.diff + b2n c.par) % 2 == 0

/-- The three copies of the register at off. -/
def State.copies (s : State) (off : Nat) : List HCopy := Assoc.get s.hcopy off HCopy.three

/-- R372, R373: the copy that holds: good, and equal to another good one. -/
def heldCopy (cs : List HCopy) : Option HCopy :=
  let g := cs.filter HCopy.good
  g.find? (fun c => decide (2 ≤ (g.filter (· == c)).length))

/-- R372: the hardened bits as a read returns them; where no two good copies agree the spec gives no value (log 51). -/
def State.hread (s : State) (off v : Nat) : Nat :=
  match Assoc.get s.hcopy off HCopy.three |> heldCopy with
  | some c => v ^^^ c.diff
  | none => mergeBits v (Config.freeWord s.free).toNat (hrwMask off)

/-- R372: a write replaces all three copies. -/
def State.heal (s : State) (off : Nat) : State := { s with hcopy := Assoc.put s.hcopy off HCopy.three HCopy.three }

/-! ### Fields and their owners (R374) -/

/-- The field of an offset lies in the member list, the group table or the routing table. -/
def isEntry (off : Nat) : Bool := decide ((0x0210000 ≤ off ∧ off < 0x0220000) ∨ (0x0400000 ≤ off ∧ off < 0x0480000))

/-- FAB_PKGID, FAB_FLOOR or an INT register. -/
def isVital (off : Nat) : Bool := off == 0x0200000 || off == 0x0200008 || decide (0x0060000 ≤ off ∧ off < 0x0070000)

/-- Class 7 of the model: a register block without a reset bit, by its number in R397's map (log 51). -/
def clsBlock : Nat := 7

/-- The units that own a hardened field: a tile, the slices or the ports of a casement, or the register block itself. -/
def State.fieldUnits (s : State) (off : Nat) : List (Nat × Nat) :=
  if 0x0800000 ≤ off ∧ off < 0x0A80000 then [(0, (off - 0x0800000) / 0x1000)]
  else if 0x0180000 ≤ off ∧ off < 0x0180010 then (slicesOf (s.mask ((off - 0x0180000) / 4))).map (fun x => (3, x))
  else if 0x0202000 ≤ off ∧ off < 0x0202100 then (portsOf (s.mask ((off - 0x0202000) / 0x40))).map (fun x => (4, x))
  else [(clsBlock, blockOf off)]

/-- R369: the unit that a detection in the register at off names: its first owner with a number of its own. -/
def State.fieldUnit (s : State) (off : Nat) : Nat :=
  match s.fieldUnits off with
  | (c, u) :: _ => if c = clsBlock then 0 else u
  | [] => 0

/-- The registers of the entry that off belongs to: a member entry is one register, group and routing entries are two. -/
def entrySpan (off : Nat) : Nat × Nat := if off < 0x0218000 then (off, 4) else (off / 8 * 8, 8)

/-- R374: fields that waited for the reset of a unit hold their reset values; out tells which. -/
def State.fieldsReset (s : State) (out : Nat → Bool) : State :=
  ((s.hcopy.map (·.1)).filter (fun off => hrwMask off != 0 && out off)).foldl (fun s off => (s.resetRegs off 4).heal off) s

/-! ### Working copies (R376) -/

/-- The row of R376 that compares a register, by its offset. -/
def cmpKind (off : Nat) : Nat :=
  if 0x0202000 ≤ off ∧ off < 0x0202100 then
    (if (off - 0x0202000) % 0x40 = 0 then 1 else if (off - 0x0202000) % 0x40 = 0x18 then 3 else 0)
  else if 0x0400000 ≤ off ∧ off < 0x0480000 then 2
  else if 0x0180000 ≤ off ∧ off < 0x0180020 then 4
  else if 0x0100000 ≤ off ∧ off < 0x0118000 then (if 0x100 ≤ off % 0x1000 then 5 else 0)
  else if 0x0800000 ≤ off ∧ off < 0x0A80000 ∧ off % 0x1000 = 0 then 6
  else 0

/-- The bits that a row compares: the tag, the entry, louvre limits and SPW, the repair map, STATE and LOGICAL. -/
def cmpMask (off : Nat) : Nat :=
  match cmpKind off with
  | 1 => 0xFFFF
  | 6 => 0x1FFF3000
  | _ => 0xFFFFFFFF

/-- The class of the unit that a row compares; the Dispatcher stands with the Die Sequencer of its die. -/
def cmpClass (kind : Nat) : Nat := match kind with | 4 => 3 | 5 => 2 | 6 => 1 | _ => 4

/-- The units that hold a working copy of the register. -/
def State.cmpUnits (s : State) (off : Nat) : List Nat :=
  match cmpKind off with
  | 1 => portsOf (s.mask ((off - 0x0202000) / 0x40))
  | 3 => portsOf (s.mask ((off - 0x0202000) / 0x40))
  | 2 => List.range 8
  | 4 => slicesOf (s.mask ((off - 0x0180000) / 4 % 4))
  | 5 => [(off - 0x0100000) / 0x1000]
  | 6 => [dieOfTile ((off - 0x0800000) / 0x1000)]
  | _ => []

/-- The bits in which unit u's working copy of the register at off is upset. -/
def State.wcDiff (s : State) (off u : Nat) : Nat := Assoc.get s.wcopy (off * 1024 + u) 0

/-- A unit's reset gives it its working copies anew. -/
def State.wcReset (s : State) (cls u : Nat) : State :=
  { s with wcopy := s.wcopy.filter (fun x => !(x.1 % 1024 == u && cmpClass (cmpKind (x.1 / 1024)) == cls)) }

/-! ### The order of visits (R373) -/

/-- The rows that the scrubber visits: hardened registers, and those that R376 compares at a visit (R377). -/
def visitRows : List RRow := regTable.filter (fun r => r.mask (fun t => t == .hrw) != 0 || cmpKind r.base != 0)

/-- The first register of a row above offset p. -/
def RRow.after (r : RRow) (p : Nat) : Option Nat :=
  if p < r.base then some r.base
  else
    let i := (p - r.base) / r.st1
    let y := (p - r.base) % r.st1
    if i < r.n1 ∧ 1 < r.n2 ∧ y / r.st2 + 1 < r.n2 then some (r.base + i * r.st1 + (y / r.st2 + 1) * r.st2)
    else if i + 1 < r.n1 then some (r.base + (i + 1) * r.st1)
    else none

/-- The least of a list of numbers. -/
def leastOf : List Nat → Option Nat
  | [] => none
  | x :: r => some (r.foldl min x)

/-- R373: the register that the scrubber visits after the one at p: the next in ascending order, after the last the first. -/
def hardNext (p : Nat) : Nat :=
  match leastOf (visitRows.filterMap (fun r => r.after p)) with
  | some x => x
  | none => (leastOf (visitRows.map (·.base))).getD 0

end Sys2Proof.Machine
end

