-- ==== Sys2Proof/Machine/Link.lean ====
section
/-! DEFINITION. The link layer of the Bronak ports and routing (R327 to R346): frames received, replayed, forwarded and sent,
links that go down, training and HELLO. -/

namespace Sys2Proof.Machine

/-! ### A link goes down (R329, R330, R359) -/

/-- The LIVE casements that hold port p. -/
def State.liveOn (s : State) (p : Nat) : List Nat :=
  (List.range 4).filter (fun d => (s.casement d).exist && bit (s.casement d).mask (portDie p) && s.fabState d == 1)

/-- Port p leaves service for STATE st: what was queued or unacknowledged on its link is lost, and a casement whose member
is the mesh neighbour enters HOLD (R359). all: the port itself stops, so every casement that holds it does (R429). n: the number of
the register arbiter's grant that asked for it, 0 where none did (R27). -/
def State.linkGone (s : State) (p st : Nat) (all : Bool) (n : Nat := 0) : State :=
  let nbr := s.rf (rPort p 0) 23 8
  let x := s.port p
  let hit := (s.liveOn p).filter (fun d => all || (decide (p < 4) && ((s.members d).map (·.2)).contains nbr))
  let s1 := (s.setRf (rPort p 0) 2 0 st).setPort p (x.fresh s.pool)
  hit.foldl (fun s d => s.enterHold d 1 n) s1

/-- R330: the link is taken down: DOWNS and an event. -/
def State.linkDown (s : State) (p : Nat) : State :=
  ((s.count (rPort p 8) 31 16 1).post { kind := 4, unit := p }).linkGone p 0 false

/-- R368, R378, R429: port p is shuttered and fenced: its links go down, and the members that use it hold. -/
def State.portFence (s : State) (p : Nat) : State :=
  let s1 := ((s.setRf 0x0010014 3 0 4).setRf 0x0010014 13 4 p).post { kind := 4, unit := p }
  { s1 with fenced := NSet.insert s1.fenced (blkNo 4 p) }.linkGone p 3 true

/-! ### Receiving (R329, R331, R334, R346) -/

/-- A frame is dropped at port p: DROP, and the first of a millisecond raises an event (R343; log 35). -/
def State.dropAt (s : State) (p : Nat) (fr : Frame) : State :=
  let s1 := s.count (rPort p 0xC) 15 0 1
  if (s1.port p).drops then s1
  else (s1.setPort p { s1.port p with drops := true }).post { kind := 4, unit := p, ctag := fr.ctag }

/-- R343: a new millisecond begins at every port. -/
def State.dropTick (s : State) : State :=
  { s with ports := (List.range 8).foldl (fun l p => Assoc.put l p { Assoc.get l p Port.reset with drops := false } Port.reset) s.ports }

/-- R343: the requester of a dropped M3 frame is told. -/
def State.dropped (s : State) (p : Nat) (fr : Frame) : State :=
  let s1 := s.dropAt p fr
  match fr.body with
  | .preq r _ _ _ _ _ _ _ _ => if fr.cls = 3 then (s1.sendTo fr.src fr.ctag 0 (.err r 1)).1 else s1
  | _ => s1

/-- R346: the ingress check. -/
def State.admits (s : State) (p : Nat) (fr : Frame) : Bool :=
  if fr.ctag = 0 then (match fr.body with | .idle => true | .hello _ _ => true | _ => false)
  else (List.range 4).any (fun d => (s.casement d).exist && s.fabTag d == fr.ctag && bit (s.casement d).mask (portDie p) &&
    (s.fabState d == 1 || s.fabState d == 2))

/-- R331: an unassigned TYPE, or a class that is not the TYPE's. -/
def malformed (fr : Frame) : Bool :=
  match fr.body with
  | .other _ _ => true
  | b => fr.cls != frameCls b

/-- Is a frame link-local: IDLE or HELLO. -/
def isLocal (b : FBody) : Bool := match b with | .idle => true | .hello _ _ => true | _ => false

/-- A frame that the link layer passes on: IDLE ends here, what is for this package waits in the port's inbox for its own
command, the rest waits to be routed. -/
def State.passOn (s : State) (p : Nat) (fr : Frame) : State :=
  let x := s.port p
  if malformed fr || !s.admits p fr then
    let s1 := s.dropped p fr
    s1.setPort p ((s1.port p).giveBack fr)
  else match fr.body with
    | .idle => s.setPort p (x.giveBack fr)
    | _ =>
      if isLocal fr.body || fr.dest == s.pkgId then s.setPort p { x with inbox := x.inbox ++ [fr] }
      else s.setPort p { x with rxq := x.rxq ++ [fr] }

/-- The header fields of a good frame: acknowledgement, returned credits, replay request. -/
def Port.header (x : Port) (fr : Frame) : Port :=
  let left := match x.unacked.findIdx? (fun u => u.lseq == fr.lack) with
    | some i => x.unacked.drop (i + 1)
    | none => x.unacked
  let cr := (List.range 4).foldl (fun (c : Credits) k => c.refill x.cap k (nth fr.cret k 0)) x.cr
  { x with cr := cr, unacked := left, replays := if left.length < x.unacked.length then 0 else x.replays
           replay := (x.replay || fr.nak) && !left.isEmpty }

/-- FRAME_RECEIVE (R329): a frame arrives at a port that trains or is up. One that fails its CRC is discarded with all that follow
it until the replay, and so is one for which the pool has no room, which a sender that keeps to its credits never sends (R333; log
35). -/
def State.frameReceive (s : State) (p : Nat) (fr : Frame) (crcOk : Bool) : State :=
  if !(s.portUp p || s.portState p == 1) then s
  else
    let x := s.port p
    if !crcOk then (s.setPort p { x with nak := true }).post { kind := 2, det := 0x09, unit := p }
    else if fr.lseq ≠ x.rxNext then s
    else match x.room.spend fr with
      | none => s.setPort p { x with nak := true }
      | some c =>
        let y := { x.header fr with rxNext := (x.rxNext + 1) % 4096, room := c }
        let s1 := (s.setPort p y).passOn p fr
        s1.pumpTx p ((s1.port p).txq.length)

/-- FRAME_RECEIVE (R329, R331). -/
def execFrameReceive (p : Fin 8) (bytes : List Nat) (s : State) : Host.Outcome State Fault Refusal :=
  .next (s.frameReceive p (readFrame bytes).1 (readFrame bytes).2)

/-- The unacknowledged frames as a replay sends them: LACK as it stands, NAK and credits as each bore them, for the peer has read
neither; a replay request that waits goes with the first. -/
def Port.again (x : Port) : List Frame :=
  x.unacked.mapIdx (fun i u => { u with lack := (x.rxNext + 4095) % 4096, nak := u.nak || (x.nak && i == 0) })

/-- R329: every unacknowledged frame is sent again; eight replays without an acknowledgement take the link down. -/
def State.frameReplay (s : State) (p : Nat) : State :=
  let x := s.port p
  if !s.portUp p || s.txIdle || !x.replay then s
  else if 8 ≤ x.replays then s.linkDown p
  else
    let s1 := (s.setPort p { x with replay := false, replays := x.replays + 1, nak := false, unacked := x.again }).count (rPort p 8) 15 0 1
    x.again.foldl (fun s u => s.emit (.frame p (wireBytes u))) s1

/-- FRAME_REPLAY (R329). -/
def execFrameReplay (p : Fin 8) (s : State) : Host.Outcome State Fault Refusal := .next (s.frameReplay p)

/-- R342: the first frame that waits at port p to be routed: forwarded, sent up the escape uplink, or dropped. -/
def State.frameForward (s : State) (p : Nat) : State :=
  let x := s.port p
  match x.rxq with
  | [] => s
  | fr :: r =>
    let s1 := s.setPort p (Port.giveBack { x with rxq := r } fr)
    match s1.route fr.dest fr.ctag fr.downed with
    | .fwd q esc => s1.tx q { fr with esc := esc }
    | .deliver => s1.setPort p { s1.port p with inbox := (s1.port p).inbox ++ [fr] }
    | .drop => s1.dropped p fr

/-- FRAME_FORWARD (R342). -/
def execFrameForward (p : Fin 8) (s : State) : Host.Outcome State Fault Refusal := .next (s.frameForward p)

/-- IDLE_FRAME_SEND (R330): a port with nothing to send. -/
def execIdleFrameSend (p : Fin 8) (s : State) : Host.Outcome State Fault Refusal :=
  .next (if s.portUp p && !s.txIdle && (s.port p).txq.isEmpty then s.tx p (s.ownFrame 0 0 0 .idle) else s)

/-- LINK_TIMEOUT (R330). -/
def execLinkTimeout (p : Fin 8) (s : State) : Host.Outcome State Fault Refusal :=
  .next (if s.portUp p then s.linkDown p else s)

/-! ### Training and HELLO (R328, R336 to R338) -/

/-- The fewest and the most lanes of a port that comes up. -/
def laneMin (p : Nat) : Nat := if p < 4 then 6 else 2
def laneMax (p : Nat) : Nat := if p < 4 then 12 else 4

def pkgX (id : Nat) : Nat := fld id 2 0
def pkgY (id : Nat) : Nat := fld id 5 3

/-- R338: port p of package id faces outward from its board's edge. -/
def edgeFacing (id p : Nat) : Bool :=
  match p with
  | 0 => pkgY id == 0
  | 1 => pkgX id == 3
  | 2 => pkgY id == 3
  | 3 => pkgX id == 0
  | _ => false

/-- R338: the peer that port p expects: its ID (mesh ports) and its port, or plane. -/
def peerOk (id p peer port : Nat) : Bool :=
  let at_ := fun (dx dy : Int) => fld peer 15 6 == fld id 15 6 && (pkgX peer : Int) == (pkgX id : Int) + dx && (pkgY peer : Int) == (pkgY id : Int) + dy
  peer != id &&
    (match p with
     | 0 => at_ 0 (-1) && port == 2
     | 1 => at_ 1 0 && port == 3
     | 2 => at_ 0 1 && port == 0
     | 3 => at_ (-1) 0 && port == 1
     | _ => port + 4 == p)

/-- Port p may train: IDV is 1 (R337), its logic passed its test (R447), its transmitter is not held idle (R432, R448), and it is
in no shutter. -/
def State.mayTrain (s : State) (p : Nat) : Bool :=
  s.rf 0x0200000 16 16 == 1 && !(s.port p).bad && !s.txIdle && !s.blkDown 4 p

/-- R338: whether discovery has found a peer behind port p. -/
def State.setFound (s : State) (p : Nat) (b : Bool) : State := s.setPort p { s.port p with found := b }

/-- R328, R338: one training attempt of port p with the given number of good lanes, 0 when there is no peer. -/
def State.portTrain (s : State) (p lanes : Nat) : State :=
  let id := s.pkgId
  if s.mayTrain p = false ∨ s.rf (rPort p 4) 0 0 = 0 ∨ 2 ≤ s.portState p then s
  else if lanes = 0 then
    if edgeFacing id p then (s.setRf (rPort p 0) 2 0 4).setFound p false
    else ((s.setRf (rPort p 0) 2 0 0).setFound p false).post { kind := 4, unit := p }
  else if lanes < laneMin p then s.setRf (rPort p 0) 2 0 0
  else
    let s1 := ((s.setRf (rPort p 0) 2 0 1).setRf (rPort p 0) 6 3 (min lanes (laneMax p))).setPort p ((s.port p).fresh s.pool)
    let hi := s1.ownFrame 0 0 0 (.hello id p)
    let x := s1.port p
    s1.sendNow p { x with cr := (x.cr.spend hi).getD x.cr } hi

/-- PORT_TRAINING (R328). -/
def execPortTraining (p : Fin 8) (lanes : Nat) (s : State) : Host.Outcome State Fault Refusal := .next (s.portTrain p lanes)

/-- LANE_ERROR_RETRAIN (R328): a lane leaves service; a port with too few lanes left goes down. -/
def execLaneErrorRetrain (p : Fin 8) (lane : Nat) (s : State) : Host.Outcome State Fault Refusal :=
  let n := s.rf (rPort p 0) 6 3
  .next (if s.portUp p && decide (lane < laneMax p) then
      let s1 := s.setRf (rPort p 0) 6 3 (n - 1)
      if n ≤ laneMin p then s1.linkDown p else s1
    else s)

/-- A port's first received frame that satisfies f, and the port without it. -/
def Port.take (x : Port) (f : Frame → Bool) : Option (Frame × Port) :=
  match x.inbox.findIdx? f with
  | some i => (x.inbox[i]?).map (fun fr => (fr, Port.giveBack { x with inbox := x.inbox.eraseIdx i } fr))
  | none => none

/-- Take the first frame of port p's inbox whose body satisfies f and go on with it. -/
def State.withFrame (s : State) (p : Nat) (f : FBody → Bool) (go : State → Frame → State) : State :=
  match (s.port p).take (fun fr => f fr.body) with
  | some (fr, x) => go (s.setPort p x) fr
  | none => s

/-- R338: the peer's HELLO. -/
def State.hello (s : State) (p : Nat) : State :=
  s.withFrame p isHello (fun s fr =>
    match fr.body with
    | .hello id port =>
      if s.portState p ≠ 1 then s
      else
        let s1 := ((s.setRf (rPort p 0) 23 8 id).setRf (rPort p 0) 27 24 port).setFound p true
        if peerOk s.pkgId p id port then
          let s2 := (s1.setRf (rPort p 0) 2 0 2).post { kind := 4, unit := p }
          s2.pumpTx p ((s2.port p).txq.length)
        else (s1.setRf (rPort p 0) 2 0 3).post { kind := 4, unit := p }
    | _ => s)

/-- HELLO (R338). -/
def execHello (p : Fin 8) (s : State) : Host.Outcome State Fault Refusal := .next (s.hello p)

/-! ### Mesh flits (R367) -/

/-- The position that sends over a link: the neighbour in the direction (N, E, S, W) from which pos receives, if it exists. -/
def meshFrom (pos dir : Nat) : Option Nat :=
  match dir with
  | 0 => if pos / 32 = 0 then none else some (pos - 32)
  | 1 => if pos % 32 = 31 then none else some (pos + 1)
  | 2 => if pos / 32 = 19 then none else some (pos + 32)
  | _ => if pos % 32 = 0 then none else some (pos - 1)

/-- R21: the route from a to b (along a's row, then along b's column) crosses the link between neighbours u and v. -/
def onRoute (a b u v : Nat) : Bool :=
  let lo := fun (x y : Nat) => min x y
  let hi := fun (x y : Nat) => max x y
  if u / 32 = v / 32 then
    u / 32 == a / 32 && decide (lo (a % 32) (b % 32) ≤ lo (u % 32) (v % 32) ∧ hi (u % 32) (v % 32) ≤ hi (a % 32) (b % 32))
  else
    u % 32 == b % 32 && decide (lo (a / 32) (b / 32) ≤ lo (u / 32) (v / 32) ∧ hi (u / 32) (v / 32) ≤ hi (a / 32) (b / 32))

/-- R19, R367: the dies that lose service with the link between u and v: those that hold it, and those that need it to reach
the hub. A link fails whole, whichever of its directions fails, and a die needs it for its way to the hub and for the hub's way to
it (DESIGN CHOICE, log 39). -/
def linkDies (u v : Nat) : List Nat :=
  (List.range 4).filter (fun d => d == dieOfTile u || d == dieOfTile v ||
    (tilesOfDie d).any (fun q => onRoute Config.hubPos q u v || onRoute q Config.hubPos u v))

/-- R371, code 0x08: the flit crosses the east link of the target row and column. -/
def State.meshInject (s : State) (src dir : Nat) : Bool :=
  dir == 3 && s.injArmed 0x08 (dieOfTile src) && decide (src / 32 % 10 = fld s.injPat 3 0 ∧ src % 32 % 16 = fld s.injPat 8 4)

/-- A link after 16 failures in a row: out of service (R19, R367). -/
def linkOut : Nat := 16

/-- The link from src to pos, which pos sees in direction dir, leaves service with the one from pos to src. -/
def State.dropLink (s : State) (pos dir src : Nat) : State :=
  { s with mesh := Assoc.put (Assoc.put s.mesh (pos * 4 + dir) linkOut 0) (src * 4 + (dir + 2) % 4) linkOut 0 }

/-- A flit reaches pos from src: one that fails its CRC-16 is discarded and sent again; 16 failures in a row take the link
out of service, and no flit crosses it any more. -/
def State.meshFlit (s : State) (pos dir src : Nat) (crcOk : Bool) : State :=
  if linkOut ≤ Assoc.get s.mesh (pos * 4 + dir) 0 then s else
  let inj := s.meshInject src dir
  let s0 := if inj then s.injFire else s
  let key := pos * 4 + dir
  if crcOk && !inj then { s0 with mesh := Assoc.put s0.mesh key 0 0 }
  else
    let d := dieOfTile src
    let n := Assoc.get s0.mesh key 0 + 1
    let s1 := (s0.count (0x0060400 + 4 * d) 15 0 1).post { kind := 2, det := 0x08, unit := d, ctag := s0.dieTag d, inj := inj }
    if linkOut ≤ n then (linkDies src pos).foldl (fun s d => s.dieLost d) (s1.dropLink pos dir src)
    else { s1 with mesh := Assoc.put s1.mesh key n 0 }

/-- MESH_FLIT_RECEIVE (R367). -/
def execMeshFlitReceive (pos : Fin 640) (dir : Fin 4) (crcOk : Bool) (s : State) : Host.Outcome State Fault Refusal :=
  .next (match meshFrom pos dir with
    | some src => s.meshFlit pos dir src crcOk
    | none => s)

end Sys2Proof.Machine
end

