-- ==== Sys2Proof/Machine/MemEvents.lean ====
section
/-! DEFINITION. Accesses at the memories themselves (11_memory_system.md, R200 to R203, R291 to R294, R297, R305, R306): Pane
banks, Transom slices, HBM controllers, and their scrubbers. -/

namespace Sys2Proof.Machine

/-! ### Pane -/

/-- Bits of a word are upset by the environment. -/
def Mem.upsets (m : Mem) (k : Nat) (flips : List Nat) : Mem := flips.foldl (fun m f => m.upset k f 1) m

/-- PANE_READ (R201). -/
def execPaneRead (p : Fin 640) (word : Fin 65536) (flips : List Nat) (s : State) : Host.Outcome State Fault Refusal :=
  .next (if s.blkDown 0 p then s.refuse
    else { s with pane := s.pane.upsets (p * 65536 + word) flips }.paneVisit p word)

/-- PANE_WRITE (R202). -/
def execPaneWrite (p : Fin 640) (off : Nat) (bytes : List Nat) (poison : Bool) (s : State) :
    Host.Outcome State Fault Refusal :=
  .next (if off + bytes.length ≤ 524288 then s.paneWrite p off (bytes.map (fun b => (b % 256, poison))) else s)

/-- PANE_SCRUB_VISIT (R203): the next word in ascending order, when the scrubber is enabled. -/
def execPaneScrubVisit (p : Fin 640) (flips : List Nat) (s : State) : Host.Outcome State Fault Refusal :=
  .next (if s.rf (rTil p 0x38) 0 0 = 1 ∧ s.blkDown 0 p = false then
      let x := s.tile p
      let s1 := { s with pane := s.pane.upsets (p * 65536 + x.scrub) flips }.paneVisit p x.scrub
      s1.setTile p { s1.tile p with scrub := (x.scrub + 1) % 65536 }
    else s)

/-! ### Transom slices (R300, R305, R306) -/

/-- The request that slice sl of casement d grants next, and the window after it. -/
def State.slicePick (s : State) (sl d : Nat) (reqs : List TReq) : Option (TReq × Louvre) :=
  let l := s.louvre sl d
  let has := fun k => reqs.any (fun r => tkClass r.kind == k)
  let k := l.choose (has 0) (has 1) (has 2)
  (reqs.find? (fun r => tkClass r.kind == k)).map (fun r => (r, l.took k))

/-- R299, R300: the request names bytes of this slice: scratchpad below the partition's part, or a line whose home it is. -/
def State.sliceHas (s : State) (sl d : Nat) (r : TReq) : Bool :=
  let n := r.bytes.length
  if r.scratch then decide (r.addr + n ≤ s.spw d * 1572864)
  else decide (r.addr + n ≤ paSize (s.mask d) ∧ r.addr % 128 + n ≤ 128 ∧ 0 < n) && paSlice (s.mask d) r.addr == sl

/-- The key at which the slice holds the request's bytes. -/
def State.reqKey (s : State) (sl d : Nat) (r : TReq) : Nat :=
  if r.scratch then scratchKey sl r.addr else paKey (s.mask d) r.addr

/-- R300: the lines that the slice replaces go back to HBM. -/
def State.evictLines (s : State) (sl : Nat) (keys : List Nat) : State :=
  keys.foldl (fun s k => s.lineBack sl (k / 128)) s

/-- R297, R300, R301: the granted access; flips upset its first word. -/
def State.sliceServe (s : State) (sl d : Nat) (r : TReq) (flips : List Nat) : State :=
  let k := s.reqKey sl d r
  let bs := r.bytes.map (fun b => (b % 256, r.poison))
  if r.scratch then
    let s1 := { s with scratch := s.scratch.upsets (k / 8) flips }
    if tkWrites r.kind then s1.scratchWrite k bs else s1.scratchTouch k r.bytes.length
  else
    let s1 := if s.lineHeld (lineOf k) then { s with cdata := s.cdata.upsets (k / 8) flips } else s
    if tkWrites r.kind then s1.lineWrite sl k bs else s1.lineReadTouch sl k r.bytes.length

/-- TRANSOM_ACCESS (R300, R306): slice sl grants one of the waiting requests; evict names addresses of lines it replaces. -/
def execTransomAccess (sl : Fin 16) (reqs : List TReq) (flips evict : List Nat) (s : State) :
    Host.Outcome State Fault Refusal :=
  match s.casOfDie (sl / 4) with
  | none => .next s
  | some d =>
    match s.slicePick sl d (reqs.filter (s.sliceHas sl d)) with
    | none => .next s
    | some (r, l) =>
      let s1 := { s with louvres := Assoc.put s.louvres sl l Louvre.reset }
      let mine := evict.filter (fun x => decide (x < paSize (s.mask d)) && paSlice (s.mask d) x == sl.val)
      .next ((s1.evictLines sl (mine.map (paKey (s.mask d)))).sliceServe sl d r flips)

/-- TRANSOM_SCRUB_VISIT (R203, R297): the slice's next word: scratchpad words first, then the words of the lines it holds. -/
def execTransomScrubVisit (sl : Fin 16) (flips : List Nat) (s : State) : Host.Outcome State Fault Refusal :=
  let w := Assoc.get s.tscrub sl 0
  let scr := if (s.casOfDie (sl / 4)).isSome then s.scrWords sl else 0
  let s0 := s.unitGrant sl (sl / 4) .scrub
  let s1 := { s0 with tscrub := Assoc.put s.tscrub sl ((w + 1) % 3145728) 0 }
  if w < scr then
    let k := scratchKey sl 0 / 8 + w
    .next ({ s1 with scratch := s1.scratch.upsets k flips }.scratchVisit k)
  else
    match (s1.linesOf sl)[(w - scr) / 16]? with
    | some l =>
      let k := l * 16 + (w - scr) % 16
      .next ({ s1 with cdata := s1.cdata.upsets k flips }.lineTouch sl (8 * k) 8)
    | none => .next s1

/-! ### HBM controllers -/

/-- Symbols of a chunk go wrong. -/
def Mem.symErrs (m : Mem) (k : Nat) (errs : List (Nat × Nat)) : Mem := errs.foldl (fun m e => m.symErr k e.1 e.2 false) m

/-- R305, R306: a request of a kind at the controller of stack st beside others that wait: the state after its grant; none where the
arbiter's next grant goes to another class. -/
def State.hbmGrant (s : State) (st : Nat) (kind : TKind) (waiting : List TKind) : Option State :=
  let l := s.unitLouvre (16 + st) (st / 6)
  let has := fun (c : Nat) => (kind :: waiting).any (fun k => tkClass k == c)
  if l.choose (has 0) (has 1) (has 2) = tkClass kind then some (s.unitGrant (16 + st) (st / 6) kind) else none

/-- HBM_READ (R291, R306) of chunk number chunk of a stack: it waits while the arbiter serves another class. -/
def execHbmRead (st : Fin 24) (chunk : Nat) (kind : TKind) (waiting : List TKind) (errs : List (Nat × Nat)) (s : State) :
    Host.Outcome State Fault Refusal :=
  .next (if s.blkDown 2 st then s.refuse
    else if chunk < 2 ^ 31 then
      match s.hbmGrant st kind waiting with
      | some s1 => { s1 with hbm := s1.hbm.symErrs (st * 2 ^ 31 + chunk) errs }.hbmVisit (st * 2 ^ 31 + chunk)
      | none => s
    else s)

/-- HBM_WRITE (R292, R306). -/
def execHbmWrite (st : Fin 24) (off : Nat) (kind : TKind) (waiting : List TKind) (bytes : List Nat) (poison : Bool) (s : State) :
    Host.Outcome State Fault Refusal :=
  .next (if s.blkDown 2 st then s.refuse
    else if off + bytes.length ≤ 2 ^ 36 then
      match s.hbmGrant st kind waiting with
      | some s1 => s1.hbmPut (hbmKey st off) (bytes.map (fun b => (b % 256, poison)))
      | none => s
    else s)

/-- HBM_REFRESH (R293): refresh or RFM leaves the contents; MEM_STAT shows the temperature that set the interval. -/
def execHbmRefresh (st : Fin 24) (temp : Nat) (rfm : Bool) (s : State) : Host.Outcome State Fault Refusal :=
  .next (if rfm then s else s.setRf (rMem st 0) 23 16 temp)

/-- R288: chunk i of pseudo-channel pc in ascending offset, as a chunk number of its stack. -/
def pcChunk (pc i : Nat) : Nat := i / 8 * 512 + pc * 8 + i % 8

/-- HBM_PATROL_SCRUB (R294): 2^RATE_LOG2 chunks of one pseudo-channel; errs strike the first. A chunk without an error is
left as it is, so those with one are visited. -/
def execHbmPatrolScrub (st : Fin 24) (pc : Fin 64) (errs : List (Nat × Nat)) (s : State) :
    Host.Outcome State Fault Refusal :=
  if s.rf (rMem st 0x20) 0 0 = 0 ∨ s.blkDown 2 st = true then .next s
  else
    let key := st.val * 64 + pc
    let i := Assoc.get s.hscrub key 0
    let n := 2 ^ s.rf (rMem st 0x20) 7 4
    let s0 := s.unitGrant (16 + st) (st / 6) .scrub
    let s1 := { s0 with hbm := s.hbm.symErrs (st * 2 ^ 31 + pcChunk pc i) errs
                        hscrub := Assoc.put s.hscrub key ((i + n) % 2 ^ 25) 0 }
    let idx := fun (k : Nat) => k % 2 ^ 31 / 512 * 8 + k % 8
    let mine := (s1.hbm.errUnits (st * 2 ^ 31) (2 ^ 31)).filter (fun k => k % 2 ^ 31 / 8 % 64 == pc.val)
    let first := mine.filter (fun k => decide (i ≤ idx k ∧ idx k < i + n))
    let wrapped := mine.filter (fun k => decide (idx k + 2 ^ 25 < i + n))
    .next ((first ++ wrapped).foldl State.hbmVisit s1)

end Sys2Proof.Machine
end

