-- ==== Sys2Proof/Machine/Reset.lean ====
section
/-! DEFINITION. Resets and shutters (15_reset_and_bringup.md R424 to R432; R422, R423, R491): what each block loses, the shutter
of one block, the end and the reset of a casement, and the eight sources. -/

namespace Sys2Proof.Machine

/-! ### Records of the reset controller (R449) -/

def rCause : Nat := 0x0010000
def State.loaded (s : State) : Bool := s.rf rCause 24 24 == 1
def State.sysHeld (s : State) : Bool := s.rf 0x1000014 0 0 == 1

/-- SEEN of RST_CAUSE records source k. -/
def State.seen (s : State) (k : Nat) : State := s.setRf rCause (7 + k) (7 + k) 1
/-- A reset of source k takes place. -/
def State.cause (s : State) (k : Nat) : State := (s.seen k).setRf rCause 3 0 k
/-- R431, R435: the whole package is held in reset: sources 3 to 8 are only recorded. -/
def State.held (s : State) : Bool := !s.loaded || s.sysHeld
/-- R431, R448: a block of a class is held in reset; in the safe state every class of R449 but the intake engine is. -/
def State.blkHeld (s : State) (cls : Nat) : Bool := s.held || (s.isSafe && cls != 5)
/-- R427 step 1: RST_SHT_STAT names the block. -/
def State.shtStat (s : State) (cls idx : Nat) : State := (s.setRf 0x0010014 3 0 cls).setRf 0x0010014 13 4 idx

/-! ### What a shutter does to the casement that uses the block (R429) -/

/-- The logical tile on position p raises the poison fault with SLOT 0 and DETAIL 0. -/
def State.shutTile (s : State) (p : Nat) : State :=
  match (s.tile p).own with
  | some (d, t) => s.raiseFault d t ⟨0x11, 0, 0⟩ (s.lt d t).pc 0
  | none => s

/-- The tiles among ps that run a program. -/
def State.runTiles (s : State) (ps : List Nat) : List Nat :=
  ps.filter (fun p => match (s.tile p).own with
    | some (d, _) => (s.casement d).phase == .running
    | none => false)

/-- R400, R429: what was accepted and has not started is discarded; READ and NEXT are 0. A command that executes goes on. -/
def State.dropQueue (s : State) (f : Nat) : State :=
  let x := s.fn f
  let s1 := s.setFn f { x with q := if x.busy then x.q.take 1 else [], exam := false }
  ((s1.setReg (0x0040004 + 0x100 * f) 0).setReg (0x0040008 + 0x100 * f) 0).setRf (0x0040000 + 0x100 * f) 1 1 0

/-- R429. -/
def State.shutOff (s : State) (cls idx : Nat) : State :=
  match cls with
  | 0 => (s.runTiles [idx]).foldl State.shutTile s
  | 1 => (s.runTiles (tilesOfDie idx)).foldl State.shutTile s
  | 4 => s.linkGone idx 0 true
  | 5 => (List.range 16).foldl State.dropQueue s
  | _ => s

/-! ### What a block loses in its reset (R425, R427 step 5) -/

/-- R371: the target of a detector's code is a unit of a class; that of code 0x0D a port or a slice. -/
def detHits (det cls : Nat) : Bool :=
  match cls with
  | 0 => [0x01, 0x02, 0x03, 0x04, 0x05, 0x0E, 0x0F, 0x10].contains det
  | 2 => det == 0x07
  | 3 => det == 0x06 || det == 0x0D
  | 4 => [0x09, 0x0A, 0x0B, 0x0D].contains det
  | _ => false

/-- R370: a reset of the armed injection's target drops it. -/
def State.injDropAt (s : State) (cls idx : Nat) : State :=
  if detHits (s.rf 0x0060100 7 0) cls = true ∧ s.rf 0x0060104 15 0 = idx then s.injDrop else s

/-- R206: a tile reset leaves the Tile Engine's own state 0: scalars, predicates, descriptors, what it had issued. -/
def LTile.cleared (x : LTile) : LTile := { x with sregs := [], preds := 1#8, tds := [], inc := [], ibuf := [] }

/-- The logical tile on position p loses what the Tile Engine holds of it. -/
def State.clearEngine (s : State) (p : Nat) : State :=
  match (s.tile p).own with
  | some (d, t) => s.setLt d t (s.lt d t).cleared
  | none => s

/-- A tile: its Tile Engine (R206), its TIL window (PHYS and DIE stay); a free spare unless it is mapped out, or failing, for which
it still awaits a test in STATE 2 (R229). -/
def State.resetTile (s : State) (p : Nat) : State :=
  let st := s.tilState p
  let bad := (s.tile p).failing
  let s1 := ((s.injDropAt 0 p).clearEngine p).resetRegs (rTil p 0) 0x1000
  let s2 := { s1 with tiles := Assoc.put s1.tiles p { PTile.reset with failing := bad } PTile.reset }
  if st = 3 then s2.setTilState p 3 else if bad then s2.setTilState p 2 else s2

/-- The lanes of a channel below margin, in ascending order. -/
def badLanes (l : List (Nat × Nat × Nat)) (st ch : Nat) : List Nat :=
  NSet.insertAll [] ((l.filter (fun x => x.1 == st && x.2.1 == ch)).map (·.2.2))

/-- R289: a channel needs more spares than it has. -/
def noRepair (dq ca : List (Nat × Nat × Nat)) (st ch : Nat) : Bool :=
  decide (4 < (badLanes dq st ch).length ∨ 1 < (badLanes ca st ch).length)

/-- R289, R296: stack st trains, with the DQ and the command/address lanes below margin: its repair map and MEM_STAT. -/
def State.trainHbm (s : State) (dqBad caBad : List (Nat × Nat × Nat)) (st : Nat) : State :=
  let chs := List.range 32
  let bad := chs.any (noRepair dqBad caBad st)
  let dq := fun (ch : Nat) => (badLanes dqBad st ch).take 4
  let ca := fun (ch : Nat) => (badLanes caBad st ch).take 1
  let rep := fun (ch : Nat) => (List.range 4).foldl (fun a i => a + (dq ch).getD i 0x7F % 128 * 2 ^ (7 * i)) 0
  let car := fun (k : Nat) => (List.range 4).foldl (fun a j =>
    a + (match ca (4 * k + j) with | x :: _ => (x % 32 + 128) * 2 ^ (8 * j) | [] => 0)) 0
  let s1 := chs.foldl (fun s ch => s.setReg (rMem st (0x100 + 4 * ch)) (BitVec.ofNat 32 (rep ch))) s
  let s2 := (List.range 8).foldl (fun s k => s.setReg (rMem st (0x200 + 4 * k)) (BitVec.ofNat 32 (car k))) s1
  let n := fun (f : Nat → List Nat) => (chs.map (fun ch => (f ch).length)).foldl (· + ·) 0
  let s3 := (((s2.setRf (rMem st 0) 0 0 (b2n (!bad))).setRf (rMem st 0) 1 1 (b2n bad)).setRf (rMem st 0) 9 2 (n dq)).setRf (rMem st 0) 15 10 (n ca)
  if bad then s3.post { kind := 5, unit := st } else s3

/-- A die leaves service for a cause other than its tiles (R289, R447): no spare, swap or test brings it back. -/
def State.dieOut (s : State) (d : Nat) : State :=
  { s with boot := { s.boot with lost := s.boot.lost ||| 2 ^ d } }.dieLost d

/-- R295: an HBM controller takes its reset values and retrains its channels, spare selection included (R289); the stack's contents
stay. -/
def State.resetHbm (s : State) (x : ShutIn) (st : Nat) : State :=
  let s1 := (s.injDropAt 2 st).resetRegs (rMem st 0) 0x1000
  let s2 := { s1 with hscrub := Assoc.clear s1.hscrub (st * 64) 64
                      louvres := Assoc.put s1.louvres (16 + st) Louvre.reset Louvre.reset }.trainHbm x.dq x.ca st
  if (List.range 32).any (noRepair x.dq x.ca st) then s2.dieOut (st / 6) else s2

/-- R302: the lines that slice sl still holds dirty; the first n go back to HBM. -/
def State.sliceBack (s : State) (sl n : Nat) : State := ((s.dirtyOf sl).take n).foldl (fun s l => s.lineBack sl l) s

/-- R302: a line whose write-back was not granted is lost; its chunks are written with P = 0xFF. -/
def State.linePoison (s : State) (l : Nat) : State :=
  { s with hbm := (rangeFrom (4 * l) 4).foldl (fun m k => (m.clearErr k).setPsn k true) s.hbm }.lineDrop l

/-- A Transom slice: its remaining dirty lines are lost, every line leaves, its scratchpad words are zero. -/
def State.resetSlice (s : State) (sl : Nat) : State :=
  let s1 := (s.linesOf sl).foldl (fun s l => if s.lineDirty l then s.linePoison l else s.lineDrop l) (s.injDropAt 3 sl)
  let s2 := (s1.sliceZero sl).resetRegs (0x0180100 + 4 * sl) 4
  { s2 with tscrub := Assoc.put s2.tscrub sl 0 0, louvres := Assoc.put s2.louvres sl Louvre.reset Louvre.reset }

/-- A Bronak port: its window and its arbiter; it trains again. -/
def State.resetPort (s : State) (p : Nat) : State :=
  let s1 := ((s.injDropAt 4 p).resetRegs (rPort p 0) 0x100).setPort p { Port.reset with bad := (s.port p).bad }
  let s2 := { s1 with arb := Assoc.put s1.arb (arbPort p) 0 0 }
  if (s.port p).bad then s2 else s2.setRf (rPort p 0) 2 0 1

/-- The intake engine: the queues, READ and NEXT, and the arbiter of acceptance. R425 gives source 8 the engine only: the registers of
the ITK block stay (DEDUCED, log 52). -/
def State.resetItk (s : State) : State :=
  let s1 := (List.range 16).foldl State.dropQueue s
  { s1 with arb := Assoc.put s1.arb arbAccept 0 0 }

/-- A block's own reset. -/
def State.resetBlock (s : State) (x : ShutIn) (cls idx : Nat) : State :=
  match cls with
  | 0 => s.resetTile idx
  | 2 => s.resetHbm x idx
  | 3 => s.resetSlice idx
  | 4 => s.resetPort idx
  | 5 => s.resetItk
  | _ => s

/-! ### The shutter of one block (R427) -/

/-- The register and the bit that request the reset of a block (R449). -/
def rstBit (cls idx : Nat) : Option (Nat × Nat) :=
  match cls with
  | 0 => if idx < 640 then some (0x0010100 + 4 * (idx / 32), idx % 32) else none
  | 1 => if idx < 4 then some (0x0010150, idx) else none
  | 2 => if idx < 24 then some (0x0010154, idx) else none
  | 3 => if idx < 16 then some (0x0010158, idx) else none
  | 4 => if idx < 8 then some (0x001015C, idx) else none
  | 5 => if idx = 0 then some (0x0010160, 0) else none
  | _ => none

/-- Steps 1 and 2: intake stops at the block. -/
def State.shutter (s : State) (cls idx : Nat) : State :=
  match rstBit cls idx with
  | none => s
  | some (r, b) =>
    if s.rf r b b = 0 ∨ NSet.mem s.shut (blkNo cls idx) = true then s
    else
      let s1 := (s.shutOff cls idx).shtStat cls idx
      { s1 with shut := NSet.insert s1.shut (blkNo cls idx) }

/-- SHUTTER (R427). -/
def execShutter (cls idx : Nat) (s : State) : Host.Outcome State Fault Refusal := .next (s.shutter cls idx)

/-- Step 4: WAIT has elapsed with something of the block in flight: FORCED, its count and an event. -/
def State.forced (s : State) (cls idx : Nat) : State :=
  ((s.raise 0x0010014 14).count 0x0010018 15 0 1).post { kind := 9, unit := idx, info := cls }

/-- Steps 5 and 6: reset and release. -/
def State.release (s : State) (x : ShutIn) (cls idx : Nat) : State :=
  let s1 := ((s.resetBlock x cls idx).fieldsReset (fun off => (s.fieldUnits off).contains (cls, idx))).wcReset cls idx
  let s2 := { s1 with shut := NSet.erase s1.shut (blkNo cls idx), fenced := NSet.erase s1.fenced (blkNo cls idx) }
  match rstBit cls idx with
  | some (r, b) => s2.setRf r b b 0
  | none => s2

/-- SHUTTER_DRAINED (R427, R302). -/
def execShutterDrained (cls idx : Nat) (x : ShutIn) (s : State) : Host.Outcome State Fault Refusal :=
  .next (if NSet.mem s.shut (blkNo cls idx) then
      (if cls = 3 then s.sliceBack idx (s.dirtyOf idx).length else s).release x cls idx
    else s)

/-- SHUTTER_TIMEOUT (R427 step 4): WAIT has elapsed; for a slice, done is the number of write-backs granted. -/
def execShutterTimeout (cls idx done : Nat) (x : ShutIn) (s : State) : Host.Outcome State Fault Refusal :=
  .next (if NSet.mem s.shut (blkNo cls idx) then
      ((if cls = 3 then s.sliceBack idx done else s).forced cls idx).release x cls idx
    else s)

/-- R378: a unit is shuttered and stays fenced until its own reset. -/
def State.fence (s : State) (cls idx : Nat) : State :=
  let s1 := if cls = 3 then s.sliceBack idx (s.dirtyOf idx).length else s
  let s2 := if cls = clsBlock then s1 else (s1.shutOff cls idx).shtStat cls idx
  let s3 := { s2 with fenced := NSet.insert s2.fenced (blkNo cls idx) }
  if cls = 4 then s3.setRf (rPort idx 0) 2 0 3 else s3

/-! ### Casements (R422, R425, R491) -/

/-- The blocks of a die mask as (class, index). -/
def blocksOf (mask : Nat) : List (Nat × Nat) :=
  ((diesOf mask).flatMap tilesOfDie).map (fun p => (0, p)) ++ (diesOf mask).map (fun d => (1, d)) ++
    (stacksOf mask).map (fun x => (2, x)) ++ (slicesOf mask).map (fun x => (3, x)) ++ (portsOf mask).map (fun x => (4, x))

/-- The check-value unit u takes its reset values (R392). -/
def State.resetCvu (s : State) (u : Nat) : State := s.resetRegs (0x0061000 + 0x40 * u) 0x40

/-- The logical tiles of a casement are no more; its physical tiles are free. -/
def State.dropTiles (s : State) (d : Nat) : State :=
  { s with lts := Assoc.clear s.lts (ltKey d 0) 4096
           heldPane := s.heldPane.zero 8 (ltKey d 0 * 2 ^ 19) (2 ^ 31) }

/-- The write-backs that slice sl is granted before WAIT elapses (R302). -/
def State.granted3 (s : State) (x : ShutIn) (sl : Nat) : Nat :=
  match x.stuck.find? (fun b => b.1 == 3 && b.2.1 == sl) with
  | some b => b.2.2
  | none => (s.dirtyOf sl).length

/-- R430: the blocks of a common shutter that WAIT finds with something in flight. -/
def State.forcedAll (s : State) (x : ShutIn) (bs : List (Nat × Nat)) : State :=
  (bs.filter (fun b => x.stuck.any (fun y => y.1 == b.1 && y.2.1 == b.2))).foldl (fun s b => s.forced b.1 b.2) s

/-- The shutters and the resets of every block of a casement, with one common WAIT: dirty lines go back first; a member holds with
cause 1. -/
def State.shutAll (s : State) (x : ShutIn) (d : Nat) : State :=
  let mask := s.mask d
  let ps := (diesOf mask).flatMap tilesOfDie
  let s1 := (s.runTiles ps).foldl State.shutTile s
  let s2 := (slicesOf mask).foldl (fun s sl => s.sliceBack sl (s.granted3 x sl)) s1
  let s3 := (portsOf mask).foldl (fun s p => s.linkGone p 0 true) s2
  let s4 := ((blocksOf mask).foldl (fun s b => s.release x b.1 b.2) (s3.forcedAll x (blocksOf mask))).dropTiles d
  s4.shtStat 6 0

/-- R422: CASEMENT_RESET's effect: the map, the page tables and HBM stay; the program is unloaded. -/
def State.casReset (s : State) (x : ShutIn) (d : Nat) : State :=
  let s1 := (s.shutAll x d).resetCvu d
  let c := s1.casement d
  (s1.setCas d { c with phase := .idle, held := false, nlt := 0, gx := 0, gy := 0, entry := 0, plen := 0, pva := 0
                        steps := 0, start := none, quiesce := false }).fabDiscard d

/-- R364: END of the fabric. -/
def State.fabEnd (s : State) (d : Nat) : State :=
  let s1 := (s.setRf (rFab d 0x18) 1 0 0).setReg (rFab d 0x10) 0
  { s1 with fabs := Assoc.put s1.fabs d Fab.reset Fab.reset }

/-- R425, R491 step 4: what belongs to casement d takes its reset values; its part of the member and group tables ends with the
table (R3). A write of a layer table entry that still waits for a commit goes on waiting, a GSX write as one (R184). -/
def State.casRegs (s : State) (d : Nat) : State :=
  let mb := s.rf (rFab d 4) 11 0
  let mc := min (s.rf (rFab d 4) 24 12) (4096 - mb)
  let gb := s.rf (rFab d 8) 11 0
  let gc := min (s.rf (rFab d 8) 24 12) (4096 - gb)
  let lays := (s.layersOf d)
  let s0 := lays.foldl (fun s n => s.setLay n { s.lay n with cur := LaySum.zero, nxt := LaySum.zero }) s
  let s1 := (s0.resetRegs (0x0210000 + 4 * mb) (4 * mc)).resetRegs (0x0218000 + 8 * gb) (8 * gc)
  let s2 := [0x0070100, 0x0070110, 0x0070120, 0x0070200, 0x0070220, 0x0070240, 0x0070250, 0x0070260, 0x0070500,
      0x0180000, 0x0180010, 0x0180020].foldl (fun s r => s.resetRegs (r + 4 * d) 4) s1
  let s3 := ((s2.resetRegs (0x0070300 + 0x20 * d) 0x18).resetRegs (0x0070400 + 8 * d) 8).resetRegs (rPga d 0) 0x100
  ((s3.resetRegs (rFab d 0) 0x40).setRf 0x0070F00 d d 0).resetCvu d

/-- The dies of a casement are free; an arm of its tag is disarmed (R457). -/
def State.casGone (s : State) (d : Nat) : State :=
  let s1 := ((s.disarmEnd d).fabEnd d).casRegs d
  { (s1.dropTiles d) with cas := Assoc.put s1.cas d Cas.reset Cas.reset }

/-- R425: a wide reset ends casement d at once: dirty lines are lost without a trace in HBM (R303); tiles are reset. -/
def State.casWiped (s : State) (d : Nat) : State :=
  let mask := s.mask d
  let s1 := (slicesOf mask).foldl (fun s sl => ((s.linesOf sl).foldl State.lineDrop s).sliceZero sl) s
  s1.casGone d

/-! ### Wide resets (R424, R425, R430, R431) -/

/-- R443, R444: a reset ends a seal test, and the sealed state. -/
def State.sealReset (s : State) (k : Nat) : State :=
  let st := s.rf 0x0020804 2 0
  if st = 1 then { (s.setRf 0x0020804 2 0 4).setRf 0x0020804 11 8 4 with sealing := SealSt.reset }
  else if (st = 2 ∨ st = 5) ∧ k ≤ 5 then s.setRf 0x0020804 2 0 0
  else s

/-- What sources 3 and 4 reset of the host side: configuration space, functions, MSI-X tables, intake engine, ITK, EVT. In the safe
state no bring-up follows: configuration space is served again at once (R448). -/
def State.hostReset (s : State) : State :=
  let s1 := (s.resetRegs 0x0040000 0x20000)
  let s2 := (List.range 16).foldl (fun s f => s.resetRegs (f * 2 ^ 26 + 0x3FF0000) 0x10000) s1
  { s2 with fns := [], cfgs := [], boot := { s2.boot with cfg := s.isSafe && s.boot.cfg, drs := false }
            arb := [arbEvent, arbAccept, arbReg 0x0040000, arbReg 0x0050000, arbReg 0x3FF0000].foldl
              (fun a k => Assoc.put a k 0 0) s2.arb }

/-- What sources 3 to 5 reset of the Package Controller: RST_WDT, FWU, READY. Bring-up resumes at step 3, but not in the safe state
(R448). -/
def State.pkcReset (s : State) : State :=
  let stk := s.rf 0x0030004 14 14
  let s1 := (s.resetRegs 0x0010020 8).resetRegs 0x0030000 0x10000
  let s2 := (s1.setRf 0x0030004 14 14 stk).setRf 0x0020808 3 0 (if s.isSafe then s.rf 0x0020808 3 0 else 3)
  (List.range 16).foldl (fun s f => s.setRf (0x0040000 + 0x100 * f) 0 0 0) (s2.setRf 0x1000014 5 5 0)

/-- R425: the management port's protocol state; a management reset keeps the addresses (R485). -/
def State.mgtReset (s : State) (k : Nat) : State :=
  { s with mgt := if k = 6 then { Mgt.reset with addr := s.mgt.addr, eidI3c := s.mgt.eidI3c, eidPcie := s.mgt.eidPcie } else Mgt.reset }

/-- R425: a fenced block that a reset of source k from 3 to 6 does not reach: a port, and of the register blocks those that its table keeps. -/
def keepsFence (k b : Nat) : Bool :=
  b / 1024 == 4 || b == blkNo clsBlock 2 || b == blkNo clsBlock 13 || (b == blkNo clsBlock 1 && k == 6)

/-- A reset of source k from 3 to 6: every shutter it reaches, with one common WAIT, then its reach. -/
def State.wideReset (s : State) (x : ShutIn) (k : Nat) : State :=
  if s.held then s.seen k
  else
    let s0 := ((s.cause k).sealReset k).shtStat 6 0
    let open_ := s0.shut.filter (fun b => decide (b / 1024 ≤ 3 ∨ (b / 1024 = 5 ∧ k ≤ 4)))
    let ds := (List.range 4).filter (fun d => (s0.casement d).exist)
    let reach := ds.flatMap (fun d => blocksOf (s0.mask d)) ++ if k ≤ 4 then [(5, 0)] else []
    let s1 := open_.foldl (fun s b => s.release x (b / 1024) (b % 1024)) (s0.forcedAll x reach)
    let s2 := ds.foldl State.casWiped s1
    let s3 := (List.range 640).foldl State.resetTile s2
    let s4 := { s3 with fenced := s3.fenced.filter (keepsFence k), wcopy := s3.wcopy.filter (fun w => cmpClass (cmpKind (w.1 / 1024)) == 4) }
    let s5 := if k ≤ 4 then s4.hostReset else s4
    let s6 := if k ≤ 5 then s5.pkcReset else s5
    (s6.fieldsReset (fun off => !(s.fieldUnits off).any (fun u => keepsFence k (blkNo u.1 u.2)))).mgtReset k

/-- R470, R487: what every reset leaves of MGT_PIN_STAT and MGT_THERM: the levels of input pins and of THERMTRIP_L. -/
def State.keepPins (s t : State) : State :=
  (t.setRf 0x1000014 4 0 (s.rf 0x1000014 4 0)).setRf 0x1000008 16 16 (s.rf 0x1000008 16 16)

/-- R462, R464: at a reset of source 1 or 2 the pending life-cycle state is in force; Retired destroys the identity key. -/
def Fuses.turned (x : Fuses) : Fuses := { x with lcs := x.pend, dead := x.dead || x.pend == 4 }

/-- R424, R425: sources 1 and 2 reset the whole package at once. The host's memory, the flash, the fuses, the queue of commands and
what HBM holds (R303, R426) are not of it. -/
def State.fullReset (s : State) : State :=
  s.keepPins { State.reset with
    pending := s.pending, hbm := s.hbm, host := s.host, hbad := s.hbad, flash := s.flash, fuses := s.fuses.turned
    free := s.free, out := s.out }

/-- Source 1: power-on; ROS fields take their reset values. -/
def State.powerOn (s : State) : State := s.fullReset

/-- POWER_ON_RESET (R424). -/
def execPowerOnReset (s : State) : Host.Outcome State Fault Refusal := .next s.powerOn

/-- Source 2: ROS fields stay; a restart of option loading counts in LOADRST (R435). -/
def State.sysReset (s : State) : State :=
  let old := (s.reg rCause).toNat
  let s1 := (s.fullReset.setReg rCause (BitVec.ofNat 32 (setFld old 24 24 0))).setRf 0x0030004 14 14 (s.rf 0x0030004 14 14)
  let s2 := if s.loaded || s.isSafe then s1 else s1.count rCause 23 16 1
  { (s2.cause 2).setRf 0x0020808 3 0 2 with rseq := s.rseq }

/-- SYS_RST (R470, R471): the filtered level of SYS_RST_L. -/
def execSysRst (asserted : Bool) (s : State) : Host.Outcome State Fault Refusal :=
  .next (if asserted && !s.sysHeld then s.sysReset.setRf 0x1000014 0 0 1
    else if asserted then s
    else s.setRf 0x1000014 0 0 0)

/-- PERST (R424, R470): PERST_L asserts; the link is held. -/
def execPerst (x : ShutIn) (s : State) : Host.Outcome State Fault Refusal :=
  .next (if s.rf 0x1000014 1 1 = 1 then s
    else
      let s1 := (s.wideReset x 3).setRf 0x1000014 1 1 1
      { s1 with boot := { s1.boot with link := false } })

/-- HOT_RESET (R424). -/
def execHotReset (x : ShutIn) (s : State) : Host.Outcome State Fault Refusal := .next (s.wideReset x 4)

/-- WDT_EXPIRY (R424). -/
def execWdtExpiry (x : ShutIn) (s : State) : Host.Outcome State Fault Refusal := .next (s.wideReset x 5)

/-- R395: the link is up and configuration space is loaded: the DRS message goes out once. -/
def State.ready395 (s : State) : State :=
  if s.boot.cfg && s.boot.link && !s.boot.drs then { s with boot := { s.boot with drs := true } }.emit .drs else s

/-- PERST_DEASSERT (R395): the link trains once bring-up has enabled it. -/
def execPerstDeassert (s : State) : Host.Outcome State Fault Refusal :=
  .next (let s1 := s.setRf 0x1000014 1 1 0
    if s.rf 0x1000014 1 1 = 1 then { s1 with boot := { s1.boot with link := s1.boot.cfg } }.ready395 else s)

/-! ### FLR (R423) -/

/-- The casement that a VF holds. -/
def State.ownCas (s : State) (f : Nat) : Option Nat := (s.casesOf f).head?

/-- FLR of VF f: its casement as by CASEMENT_RESET, its queue without records, its windows and rings. -/
def State.flr (s : State) (x : ShutIn) (f : Nat) : State :=
  let s1 := match s.ownCas f with
    | some d => s.casReset x d
    | none => s
  let s2 := (s1.resetRegs (0x0040000 + 0x100 * f) 0x100).resetRegs (0x0050000 + 0x100 * f) 0x100
  let s3 := { s2.resetRegs (f * 2 ^ 26 + 0x3FF0000) 0x10000 with cfgs := Assoc.clear s2.cfgs (f * 4096) 4096 }.setFn f
    { FnSt.reset with bar4 := (s2.fn f).bar4 }
  if s3.isReady then s3.setRf (0x0040000 + 0x100 * f) 0 0 1 else s3

/-- FLR (R423); the PF does not advertise it (R393). -/
def execFlr (f : Fin 16) (x : ShutIn) (s : State) : Host.Outcome State Fault Refusal :=
  .next (if f.val = 0 then s else if s.held then s.seen 7 else ((s.cause 7).sealReset 7).flr x f)

/-- VAUX_REMOVAL (R473, R480, R487): THERMTRIP_L is released, TRIPPED is cleared, and the package loses its power. -/
def execVauxRemoval (s : State) : Host.Outcome State Fault Refusal :=
  .next ((s.powerOn.setRf 0x1000014 4 4 0).setRf 0x1000008 16 16 0)

/-- RAIL_FAULT (R473): a rail leaves its range while the package is out of reset. -/
def execRailFault (_rail : Nat) (s : State) : Host.Outcome State Fault Refusal :=
  .next (if s.sysHeld then s else s.powerOn)

end Sys2Proof.Machine
end

