-- ==== Sys2Proof/Machine/Harden.lean ====
section
/-! DEFINITION. Hardened configuration (R372 to R378): the scrubber's visits, what an uncorrectable register does, and the
comparison of working copies. -/

namespace Sys2Proof.Machine

/-- R374: an uncorrectable register: an entry takes its reset value; the safe state; or the owner is shuttered and fenced, and the field
waits for its reset. -/
def State.uncorrectable (s : State) (off : Nat) : State :=
  if isEntry off then (s.resetRegs (entrySpan off).1 (entrySpan off).2).heal off
  else if isVital off then s.enterSafe 8
  else (s.fieldUnits off).foldl (fun s u => s.fence u.1 u.2) s

/-! ### Comparisons (R376 to R378) -/

/-- R378: the comparison of a register with the working copy w of a unit fails. -/
def State.disagree (s : State) (off unit w : Nat) (inj : Bool) : State :=
  let kind := cmpKind off
  let auth := if kind = 3 ∨ 5 ≤ kind then 1 else 0
  let s1 := ((s.setRf 0x0060300 3 0 kind).setRf 0x0060300 19 4 unit).count 0x0060304 15 0 1
  (s1.post { kind := 2, det := 0x0D, unit := unit, inj := inj
             info := (s.reg off).toNat + w % 2 ^ 32 * 2 ^ 32 + auth * 2 ^ 64 }).fence (cmpClass kind) unit

/-- R376: the value that unit u's data path shows for the register at off, where it differs from the register; none where they agree.
For row 3 it is whether the port holds reduction state of the tag. -/
def State.wcDiffers (s : State) (off u : Nat) : Option Nat :=
  if cmpKind off = 3 then
    let d := (off - 0x0202000) / 0x40
    let held := (s.fab d).reds.any (fun r => r.port == u) != bit (s.wcDiff off u) 0
    if held ∧ (s.rf off 1 0 = 0 ∨ s.rf off 1 0 = 3) then some 1 else none
  else if s.wcDiff off u &&& cmpMask off = 0 then none
  else some ((s.reg off).toNat ^^^ s.wcDiff off u)

/-- Bits of unit u's working copy are upset. -/
def State.wcFlip (s : State) (off u x : Nat) : State :=
  { s with wcopy := Assoc.put s.wcopy (off * 1024 + u) (s.wcDiff off u ^^^ x) 0 }

/-- R371, code 0x0D: the injection's target compares the register at off. -/
def State.cmpInj (s : State) (off : Nat) : Bool :=
  let t := s.rf 0x0060104 15 0
  (s.cmpUnits off).contains t && decide (cmpKind off ≤ 4) && s.injArmed 0x0D t

/-- The units whose working copies of the register at off differ from it, with what they hold. -/
def State.wcBad (s : State) (off : Nat) : List (Nat × Nat) :=
  (s.cmpUnits off).filterMap (fun u => (s.wcDiffers off u).map (fun w => (u, w)))

/-- R376, R377: every unit that holds a working copy of the register at off compares it. -/
def State.compare (s : State) (off : Nat) : State :=
  let inj := s.cmpInj off
  let t := s.rf 0x0060104 15 0
  let s0 := if inj then s.injFire.wcFlip off t 1 else s
  (s0.wcBad off).foldl (fun s x => s.disagree off x.1 x.2 (inj && x.1 == t)) s0

/-! ### The visit (R373) -/

/-- R371, code 0x0C: the copies that an armed injection flips, each in its bit 0. -/
def State.injCopies (s : State) : List Nat :=
  let c := fld s.injPat 24 23
  (c :: (if bit s.injPat 25 then [(c + 1) % 3] else [])).filter (fun c => decide (c < 3))

/-- Bit b of copy c flips; 32 is its parity bit. -/
def flipCopy (cs : List HCopy) (c b : Nat) : List HCopy :=
  let x := cs.getD c ⟨0, false⟩
  setNth cs c (if b = 32 then { x with par := !x.par } else { x with diff := x.diff ^^^ 2 ^ (b % 32) })

/-- What a visit of the register at off finds in its copies cs (R373): all agree; one is bad or differs and is rewritten; or nothing
holds. Copies that agree on another value give it to the register. -/
def State.visitCopies (s : State) (off : Nat) (cs : List HCopy) (inj : Bool) : State :=
  let ev := fun (s : State) => s.postArb (arbReg off) { kind := 2, det := 0x0C, unit := s.fieldUnit off, inj := inj, info := off }
  match heldCopy cs with
  | some c =>
    let s1 := (s.setReg off (s.reg off ^^^ BitVec.ofNat 32 (c.diff &&& hrwMask off))).heal off
    if cs.all (· == c) then s1.grant (arbReg off) else ev (s1.count 0x0060000 15 0 1)
  | none => (ev ({ s with hcopy := Assoc.put s.hcopy off cs HCopy.three }.count 0x0060000 31 16 1)).uncorrectable off

/-- The visit of the next register; flips are upsets of its copies (copy, bit), wc one of a unit's working copy (unit, bits). -/
def State.scrubVisit (s : State) (flips : List (Nat × Nat)) (wc : Option (Nat × Nat)) : State :=
  let off := hardNext s.hpos
  let s0 := { s with hpos := off }
  let inj := s.injArmed 0x0C 0 && decide (4 * fld s.injPat 22 0 = off) && hrwMask off != 0
  let up := (flips.filter (fun f => f.2 == 32 || bit (hrwMask off) f.2)).foldl (fun cs f => flipCopy cs (f.1 % 3) f.2) (s.copies off)
  let cs := if inj then s.injCopies.foldl (fun cs c => flipCopy cs c 32) up else up
  let s1 := if inj then s0.injFire else s0
  let s2 := if hrwMask off = 0 then s1 else s1.visitCopies off cs inj
  let s3 := match wc with
    | some (u, x) => if (s2.cmpUnits off).contains u then s2.wcFlip off u (x % 2 ^ 32) else s2
    | none => s2
  s3.compare off

/-- HARDENED_SCRUB_VISIT (R373, R374, R376 to R378): the scrubber visits its next register. -/
def execHardenedScrubVisit (flips : List (Nat × Nat)) (wc : Option (Nat × Nat)) (s : State) : Host.Outcome State Fault Refusal :=
  .next (if s.held || s.isSafe then s else s.scrubVisit flips wc)

end Sys2Proof.Machine
end

