-- ==== Sys2Proof/Machine/FabCmd.lean ====
section
/-! DEFINITION. The casement commands of the fabric (R350, R351, R361, R364) and the default routing entries (R341). -/

namespace Sys2Proof.Machine

/-- R341: the dimension-order port from package id to package to_, by its PORT code. -/
def dimPort (id to_ : Nat) : Nat :=
  if pkgX id < pkgX to_ then 2 else if pkgX to_ < pkgX id then 4
  else if pkgY id < pkgY to_ then 3 else if pkgY to_ < pkgY id then 1 else 0

def sameBoard (a b : Nat) : Bool := fld a 15 6 == fld b 15 6

/-- A PORT or ALT code that names a port held by the casement. -/
def heldPort (mask code : Nat) : Bool := decide (1 ≤ code ∧ code ≤ 8) && bit mask (portDie (code - 1))

/-- R350, checks 3 to 6 for one other member: the check that fails, or 0. -/
def State.memberCheck (s : State) (d : Nat) (ids : List Nat) (id : Nat) : Nat :=
  let own := s.pkgId
  let mask := s.mask d
  let k := routeKey id
  let port := s.rf k 3 0
  let alt := s.rf k 7 4
  if s.rf k 8 8 = 0 ∨ heldPort mask port = false ∨ (s.rf k 9 9 = 1 ∧ s.rf k 31 16 ≠ s.fabTag d) then 3
  else if !(5 ≤ port || (sameBoard own id && port == dimPort own id)) then 4
  else if port ≤ 4 ∧ ((s.port (port - 1)).found = false ∨ ids.contains (s.rf (rPort (port - 1) 0) 23 8) = false) then 5
  else if !(alt == 0 || (5 ≤ alt && heldPort mask alt)) then 6
  else 0

/-- R350, check 7 for group g. -/
def State.groupOk (s : State) (d g : Nat) : Bool :=
  let k := 0x0218000 + 8 * (s.rf (rFab d 8) 11 0 + g)
  let stride := s.rf k 31 24 + s.rf (k + 4) 3 0 * 256
  let count := s.rf k 23 12
  s.rf (k + 4) 4 4 == 0 || (decide (1 ≤ count ∧ 1 ≤ stride) &&
    decide (s.rf k 11 0 + (count - 1) * stride < s.rf (rFab d 4) 24 12))

/-- R350, check 8: ranges of entries that two casements share. -/
def State.rangeClash (s : State) (d : Nat) : Bool :=
  (List.range 4).any (fun e => e != d && (s.casement e).exist &&
    (overlap (s.rf (rFab d 4) 11 0) (s.rf (rFab d 4) 24 12) (s.rf (rFab e 4) 11 0) (s.rf (rFab e 4) 24 12) ||
     overlap (s.rf (rFab d 8) 11 0) (s.rf (rFab d 8) 24 12) (s.rf (rFab e 8) 11 0) (s.rf (rFab e 8) 24 12)))

/-- R350: the REASON and the first index that fails, lowest REASON first; none when every check passes. -/
def State.fabCheck (s : State) (d : Nat) : Option (Nat × Nat) :=
  let ms := s.members d
  let ids := ms.map (·.2)
  let own := s.pkgId
  let mine := ms.filter (fun m => m.2 == own)
  let bad := fun (n : Nat) => (ms.filter (fun m => m.2 != own)).find? (fun m => s.memberCheck d ids m.2 == n)
  if mine.length ≠ 1 then some (1, (mine.head?.map (·.1)).getD 0)
  else match ms.find? (fun m => decide (1 < (ids.filter (· == m.2)).length)) with
    | some m => some (2, m.1)
    | none =>
      match [3, 4, 5, 6].filterMap (fun n => (bad n).map (fun m => (n, m.1))) with
      | x :: _ => some x
      | [] =>
        match (List.range (s.rf (rFab d 8) 24 12)).find? (fun g => !s.groupOk d g) with
        | some g => some (7, g)
        | none => if s.rangeClash d then some (8, 0) else none

/-- The fabric state and REASON of casement d, with an event of the grant numbered n (R27). -/
def State.fabTo (s : State) (d st : Nat) (r : Option (Nat × Nat)) (n : Nat) : State :=
  let x := r.getD (0, 0)
  (((s.setRf (rFab d 0x18) 1 0 st).setRf (rFab d 0x18) 7 4 x.1).setRf (rFab d 0x18) 27 16 x.2).post
    { kind := 4, unit := d, ctag := s.tagOf d, arbseq := n, info := st }

/-- COMMIT (R350): the epoch is set to 0 (R352), which an arm may await (R457). -/
def State.fabCommit (s : State) (d n : Nat) : State :=
  let s1 := s.setReg (rFab d 0x10) 0
  (match s1.fabCheck d with
  | none => s1.fabTo d 1 none n
  | some r => s1.fabTo d 3 (some r) n).ripen d n

/-- RESUME (R361). -/
def State.fabResume (s : State) (d n : Nat) : State :=
  match s.fabCheck d with
  | none => s.fabTo d 1 none n
  | some r => s.fabTo d 2 (some r) n

/-- R364: OP written to FAB_CMDd, with the comparison that a change of STATE brings (R377); n is the number of the register arbiter's grant. -/
def State.fabCmd (s : State) (d op n : Nat) : State :=
  let st := s.fabState d
  let no := s.post { kind := 3, unit := d, ctag := s.tagOf d, arbseq := n, info := rFab d 0x14 }
  if !(s.casement d).exist then s
  else match op with
    | 1 => if st = 0 ∨ st = 3 then (s.fabCommit d n).compare (rFab d 0x18) else no
    | 2 => if st = 1 then (s.enterHold d 4 n).compare (rFab d 0x18) else no
    | 3 => if st = 2 then (s.fabResume d n).compare (rFab d 0x18) else no
    | 4 => (((s.fabEnd d).post { kind := 4, unit := d, ctag := s.tagOf d, arbseq := n }).ripen d n).compare (rFab d 0x18)
    | _ => s

/-- The LIVE casements to which an entry belongs (R351). -/
def State.entryOwners (s : State) (off : Nat) : List Nat :=
  (List.range 4).filter (fun d => (s.casement d).exist && s.fabState d == 1 &&
    (if off < 0x0218000 then
      let n := (off - 0x0210000) / 4
      decide (s.rf (rFab d 4) 11 0 ≤ n ∧ n < s.rf (rFab d 4) 11 0 + s.rf (rFab d 4) 24 12)
    else if off < 0x0400000 then
      let n := (off - 0x0218000) / 8
      decide (s.rf (rFab d 8) 11 0 ≤ n ∧ n < s.rf (rFab d 8) 11 0 + s.rf (rFab d 8) 24 12)
    else ((s.members d).map (·.2)).contains ((off - 0x0400000) / 8)))

/-- R351: the state after a write to an entry, or none when the write would fail the check of a LIVE casement. -/
def State.entryWrite (s : State) (off : Nat) (v : Word) : Option State :=
  let s1 := s.setReg off v
  if (s.entryOwners off).any (fun d => (s1.fabCheck d).isSome) then none else some s1

/-- R341: the default entry of package id as seen from this package. -/
def defaultEntry (own id : Nat) : Nat :=
  let u := 5 + id % 4
  let pa := if id = own then (0, 0) else if sameBoard own id then (dimPort own id, u) else (u, 5 + (id + 1) % 4)
  pa.1 + pa.2 * 16 + 256

/-- R341: the whole default table, as register entries in ascending offset. -/
def defaultRoutes (own : Nat) : List (Nat × Word) :=
  (List.range 65536).map (fun id => (routeKey id, BitVec.ofNat 32 (defaultEntry own id)))

end Sys2Proof.Machine
end

