-- ==== Sys2Proof/Machine/Sha3.lean ====
section
/-! DEFINITION. SHA3-512, which the spec names and does not define (R445, R453, R466): taken from FIPS 202 (PRESUMED, log 9). -/

namespace Sys2Proof.Machine

/-- A 64-bit lane rotated left. -/
def rotl64 (x n : Nat) : Nat := (x * 2 ^ (n % 64) % 2 ^ 64) ||| (x / 2 ^ (64 - n % 64))

/-- Rotation offsets of the 25 lanes, lane x + 5 y. -/
def kecRot : List Nat :=
  [0, 1, 62, 28, 27, 36, 44, 6, 55, 20, 3, 10, 43, 25, 39, 41, 45, 15, 21, 8, 18, 2, 61, 56, 14]

/-- The constants of the 24 rounds. -/
def kecRc : List Nat :=
  [0x0000000000000001, 0x0000000000008082, 0x800000000000808A, 0x8000000080008000, 0x000000000000808B, 0x0000000080000001] ++
  [0x8000000080008081, 0x8000000000008009, 0x000000000000008A, 0x0000000000000088, 0x0000000080008009, 0x000000008000000A] ++
  [0x000000008000808B, 0x800000000000008B, 0x8000000000008089, 0x8000000000008003, 0x8000000000008002, 0x8000000000000080] ++
  [0x000000000000800A, 0x800000008000000A, 0x8000000080008081, 0x8000000000008080, 0x0000000080000001, 0x8000000080008008]

/-- One round. -/
def kecRound (a : List Nat) (rc : Nat) : List Nat :=
  let g := fun (l : List Nat) (i : Nat) => l.getD i 0
  let c := (List.range 5).map (fun x => g a x ^^^ g a (x + 5) ^^^ g a (x + 10) ^^^ g a (x + 15) ^^^ g a (x + 20))
  let dd := (List.range 5).map (fun x => g c ((x + 4) % 5) ^^^ rotl64 (g c ((x + 1) % 5)) 1)
  let t := (List.range 25).map (fun i => rotl64 (g a i ^^^ g dd (i % 5)) (g kecRot i))
  let b := (List.range 25).map (fun i => let X := i % 5; let Y := i / 5; g t ((X + 3 * Y) % 5 + 5 * X))
  let e := (List.range 25).map (fun i =>
    let X := i % 5
    let Y := i / 5
    g b i ^^^ ((2 ^ 64 - 1 - g b ((X + 1) % 5 + 5 * Y)) &&& g b ((X + 2) % 5 + 5 * Y)))
  match e with
  | x :: r => (x ^^^ rc) :: r
  | [] => []

def kecF (a : List Nat) : List Nat := kecRc.foldl kecRound a

/-- Absorb blocks of 72 bytes; n bounds their number. -/
def kecAbsorb : Nat → List Nat → List Nat → List Nat
  | 0, a, _ => a
  | n + 1, a, m =>
    match m with
    | [] => a
    | _ =>
      let blk := m.take 72
      let a1 := a.mapIdx (fun i x => if i < 9 then x ^^^ leNat ((blk.drop (8 * i)).take 8) else x)
      kecAbsorb n (kecF a1) (m.drop 72)

/-- The padded message: 0x06, zeros, 0x80 at the end of a block. -/
def kecPad (m : List Nat) : List Nat :=
  let z := 71 - m.length % 72
  if z = 0 then m ++ [0x86] else m ++ [0x06] ++ List.replicate (z - 1) 0 ++ [0x80]

/-- SHA3-512 of a byte string: 64 bytes. -/
def sha3 (m : List Nat) : List Nat :=
  let p := kecPad m
  ((kecAbsorb (p.length / 72 + 1) (List.replicate 25 0) p).take 8).flatMap (leBytes 8)

end Sys2Proof.Machine
end

