-- ==== Sys2Proof/Machine/Trust.lean ====
section
/-! DEFINITION. Firmware, life cycle and attestation (16_firmware_and_trust.md): images in flash, the commands of R456, the
report of R466, life-cycle transitions (R462, R463). -/

namespace Sys2Proof.Machine

/-! ### Images (R453, R454) -/

/-- What an image's header says. -/
structure ImgHdr where
  ver : Nat
  svn : Nat
  len : Nat
  dig : List Nat
  deriving DecidableEq, Repr

def State.imgHdr (s : State) (base : Nat) : ImgHdr :=
  let h := s.flashRead base 8192
  ⟨leAt h 8 4, leAt h 12 4, leAt h 16 4, sha3 h⟩

/-- R454: the image of a bank is valid. -/
def State.imgValid (s : State) (base : Nat) : Bool :=
  let h := s.flashRead base 8192
  let len := leAt h 16 4
  let pk := (h.drop 88).take 2592
  h.take 8 == ascii "DZGFWIM1" && leAt h 20 4 == 0x576 && len % 256 == 0 && decide (len ≤ 8380416) &&
    (List.range 4).any (fun i => sha3 pk == Config.vendorDigest i && !bit s.fuses.revoked i) &&
    Config.mldsaVerify pk (sha3 (h.take 3072)) ((h.drop 3072).take 4627) &&
    (h.drop 24).take 64 == sha3 (s.flashRead (base + 8192) len) && decide (s.fuses.svnctr ≤ leAt h 12 4)

/-! ### Results of commands (R456, R468) -/

def rFwuStat : Nat := 0x0030004
def State.fwuBusy (s : State) : Bool := s.rf rFwuStat 0 0 == 1
def State.rsvLow (s : State) : Bool := s.rf 0x1000014 2 2 == 1
def State.anyCas (s : State) : Bool := (List.range 4).any (fun d => (s.casement d).exist)

/-- RES and REASON. -/
def State.fwuRes (s : State) (res reason : Nat) : State := (s.setRf rFwuStat 3 1 res).setRf rFwuStat 7 4 reason
/-- A refusal: RES, REASON and an event. n, here and below: the number of the register arbiter's grant that raises the events of a
command, 0 for the management path (R27). -/
def State.fwuNo (s : State) (res reason n : Nat) : State := (s.fwuRes res reason).post { kind := 9, arbseq := n, info := reason }
/-- A change of the arm, with its event. -/
def State.armEvent (s : State) (n : Nat) : State := s.post { kind := 9, ctag := 0, arbseq := n, info := s.jrn.st }

/-- The first reason that applies. -/
def firstReason : List (Bool × Nat) → Option Nat
  | [] => none
  | (b, n) :: r => if b then some n else firstReason r

/-! ### STAGE (R456, R458) -/

def State.fwuAddr (s : State) : Nat := (s.reg 0x0030008).toNat + (s.reg 0x003000C).toNat * 2 ^ 32

/-- The image is in the sill: STAGED if it is valid and has the length given. -/
def State.stageDone (s : State) (len : Nat) : State :=
  let h := s.imgHdr bankSill
  if s.imgValid bankSill && len == h.len + 8192 then
    (s.journal { s.jrn with st := 2, svn := h.svn, ver := h.ver, len := h.len, dig := h.dig.take 16, ctag := 0, epoch := 0 }).fwuRes 0 0
  else (s.journal { s.jrn with st := 0 }).fwuRes 3 0

/-- STAGE. cut: SUPPLY_RSV_L asserts (true) or a reset arrives (false) when that many sectors have been written. -/
def State.fwuStage (s : State) (cut : Option (Nat × Bool)) (n : Nat) : State :=
  match firstReason [(s.jrn.db, 3), (s.rsvLow, 2)] with
  | some r => s.fwuNo 2 r n
  | none =>
    let len := s.rf 0x0030010 23 0
    let m := min len bankSize
    let s1 := (s.journal { s.jrn with st := 1 }).hostAsk 0 s.fwuAddr len
    if s.hostAnswer s.fwuAddr len != 0 then (s1.journal { s1.jrn with st := 0 }).fwuRes 4 0
    else
      let img := s.hostRead s.fwuAddr m
      let put := fun (k : Nat) => (s1.flashErase bankSill (min bankSize (roundUp k 65536))).flashWrite bankSill (img.take k)
      match cut with
      | none => (put m).stageDone len
      | some (k, true) =>
        let s2 := (put (min m (65536 * k))).setRf 0x1000014 2 2 1
        (s2.journal { s2.jrn with st := 0 }).fwuNo 2 2 n
      | some (k, false) => (put (min m (65536 * k))).setRf rFwuStat 0 0 1

/-! ### ARM to DBCLR (R456, R457, R461) -/

def State.fwuArm (s : State) (n : Nat) : State :=
  let st := s.jrn.st
  match firstReason [(s.jrn.db, 3), (s.rsvLow, 2), (!(st == 2 || st == 3 || st == 4), 5)] with
  | some r => s.fwuNo 2 r n
  | none =>
    let now := s.rf 0x0030014 16 16
    ((s.journal { s.jrn with st := if now = 1 then 4 else 3, ctag := s.rf 0x0030014 15 0,
                             epoch := (s.reg 0x0030018).toNat }).fwuRes 0 0).armEvent n

def State.fwuDisarm (s : State) (n : Nat) : State :=
  if s.jrn.st = 3 ∨ s.jrn.st = 4 then ((s.journal { s.jrn with st := 2 }).fwuRes 0 0).armEvent n else s.fwuNo 2 5 n

def State.fwuActivate (s : State) (x : ShutIn) (n : Nat) : State :=
  match firstReason [(s.anyCas, 1), (s.rsvLow, 2), (s.jrn.db, 3), (s.jrn.st != 4, 4)] with
  | some r => s.fwuNo 2 r n
  | none => s.wideReset x 5

/-- FWU_SVN and GOLDOK as the fuses and the flash stand. -/
def State.showTrust (s : State) : State :=
  (s.setReg 0x0030024 (BitVec.ofNat 32 (s.run.svn % 2 ^ 16 + s.fuses.svnctr % 2 ^ 16 * 2 ^ 16))).setRf rFwuStat 9 9
    (b2n (s.imgValid bankGolden))

def State.fwuSvncommit (s : State) (n : Nat) : State :=
  match firstReason [(s.rsvLow, 2), (s.run.gold, 7), (decide (s.run.svn ≤ s.fuses.svnctr), 6), (decide (128 < s.run.svn), 8)] with
  | some r => s.fwuNo 2 r n
  | none =>
    let s1 := ({ s with fuses := { s.fuses with svnctr := s.run.svn } }.showTrust).fwuRes 0 0
    if s1.rf rFwuStat 9 9 = 0 then s1.post { kind := 9, arbseq := n } else s1

def State.fwuDbset (s : State) (n : Nat) : State :=
  let arm := s.jrn.st == 3 || s.jrn.st == 4
  let s1 := (s.journal { s.jrn with db := true, st := if arm then 2 else s.jrn.st }).fwuRes 0 0
  if arm then s1.armEvent n else s1

def State.fwuDbclr (s : State) (rq : Req) (n : Nat) : State :=
  match rq with
  | .mgt => (s.journal { s.jrn with db := false }).fwuRes 0 0
  | _ => s.fwuNo 5 0 n

/-! ### ATTEST (R466, R467) -/

/-- The serial number as 16 bytes. -/
def Fuses.serialBytes (x : Fuses) : List Nat := leBytes 16 x.serial

/-- R465: the identity key signs in the Provisioned, Deployed and Diagnostic states. -/
def State.idSign (s : State) (msg : List Nat) : List Nat :=
  let sig := Config.mldsaSign s.fuses.seed (sha3 msg)
  if s.fuses.lcs = 0 ∨ s.fuses.lcs = 4 then List.replicate 4627 0 else (List.range 4627).map (fun i => sig.getD i 0 % 256)

/-- R466: bytes 0 to 255 of a report. -/
def State.reportBody (s : State) (nonce : List Nat) : List Nat :=
  let st := s.jrn.st
  let staged := st == 2 || st == 3 || st == 4
  ascii "DZGATTR1" ++ s.fuses.serialBytes ++ leBytes 4 (s.reg 0).toNat ++
    [s.fuses.lcs, b2n s.run.gold,
     b2n s.jrn.db + s.rf rFwuStat 9 9 * 2 + b2n (st == 3) * 4 + b2n (st == 4) * 8 + s.rf rFwuStat 14 14 * 16, 0] ++
    leBytes 4 s.run.ver ++ leBytes 4 s.run.svn ++ leBytes 4 s.fuses.svnctr ++ leBytes 4 (s.reg 0x0020818).toNat ++
    ((List.range 64).map (fun i => s.run.dig.getD i 0)) ++
    (if staged then (s.imgHdr bankSill).dig else List.replicate 64 0) ++ nonce ++ leBytes 8 s.rseq ++ List.replicate 8 0

/-- R466: a report of 4,883 bytes. -/
def State.report (s : State) (nonce : List Nat) : List Nat :=
  let b := s.reportBody nonce
  b ++ s.idSign b

/-- FWU_NONCE0 to 15. -/
def State.fwuNonce (s : State) : List Nat := (List.range 16).flatMap (fun n => leBytes 4 (s.reg (0x0030040 + 4 * n)).toNat)

def State.fwuAttest (s : State) : State :=
  ({ s.hostWrite 0 s.fwuAddr (s.report s.fwuNonce) with rseq := s.rseq + 1 }).fwuRes 0 0

/-! ### The command register (R456, R468) -/

/-- What happens from outside during a write: what cuts a STAGE short (see fwuStage), and what the shutters of a reset meet. -/
structure During where
  cut : Option (Nat × Bool)
  sh : ShutIn
  deriving DecidableEq, Repr

/-- Nothing from outside. -/
def During.none : During := ⟨Option.none, ShutIn.none⟩

/-- A write of OP to FWU_CMD. -/
def State.fwuCmd (s : State) (rq : Req) (op : Nat) (u : During) (n : Nat) : State :=
  if op = 0 ∨ 8 < op then s
  else if s.fwuBusy then s.fwuRes 1 0
  else match op with
    | 1 => s.fwuStage u.cut n
    | 2 => s.fwuArm n
    | 3 => s.fwuDisarm n
    | 4 => s.fwuActivate u.sh n
    | 5 => s.fwuSvncommit n
    | 6 => s.fwuDbset n
    | 7 => s.fwuDbclr rq n
    | _ => s.fwuAttest

/-! ### Life cycle (R462 to R464) -/

/-- R463: a token for this package and target, signed by a vendor key; byte 24 is the key's index. -/
def State.tokenOk (s : State) (target : Nat) (tok : List Nat) : Bool :=
  let i := tok.getD 24 0
  tok.length == 4707 && tok.take 16 == s.fuses.serialBytes && leAt tok 16 4 == target && decide (i < 4) && !bit s.fuses.revoked i &&
    Config.mldsaVerify (Config.vendorKey i) (sha3 (tok.take 80)) (tok.drop 80)

/-- R463: who may bring the package from one state to another. -/
def State.lcAllowed (s : State) (rq : Req) (target : Nat) (tok : List Nat) : Bool :=
  match s.fuses.pend, target with
  | 0, 1 => s.tokenOk target tok
  | 1, 2 => true
  | 2, 3 => s.tokenOk target tok
  | x, 4 => x != 4 && rq == .mgt
  | _, _ => false

/-- The identity seed that the fuses take at provisioning: free bytes. -/
def State.newSeed (s : State) : List Nat := (List.range 32).map (fun i => (Config.freeByte (s.free + i)).toNat)

/-- R463: a transition is requested. n: as for a command (R27). -/
def State.lcRequest (s : State) (rq : Req) (target : Nat) (tok : List Nat) (n : Nat) : State :=
  if s.anyCas || !s.lcAllowed rq target tok then s.post { kind := 9, arbseq := n, info := target }
  else
    let x := s.fuses
    let s1 := if target = 1 then { s with fuses := { x with pend := 1, seed := s.newSeed }, free := s.free + 32 }
              else { s with fuses := { x with pend := target } }
    s1.setRf 0x0020000 5 3 target

/-- The token that a request through LCB_LC_CMD reads from FWU_ADDR. -/
def State.hostToken (s : State) : List Nat :=
  if s.hostAnswer s.fwuAddr 4707 = 0 then s.hostRead s.fwuAddr 4707 else []

/-! ### SUPPLY_RSV_L (R458, R468, R470, R472) -/

/-- SUPPLY_RSV: a filtered level of SUPPLY_RSV_L; a seal test that runs ends at its next test boundary (R444). -/
def execSupplyRsv (asserted : Bool) (s : State) : Host.Outcome State Fault Refusal :=
  .next (let s1 := s.setRf 0x1000014 2 2 (b2n asserted)
    if asserted && s.rf 0x0020804 2 0 == 1 then { s1 with sealing := { s1.sealing with rsv := true } } else s1)

/-- RSV_STUCK_TIMEOUT (R458, R472): SUPPLY_RSV_L has been asserted for 10 s. -/
def execRsvStuckTimeout (s : State) : Host.Outcome State Fault Refusal :=
  .next (if s.rsvLow && s.rf rFwuStat 14 14 == 0 then (s.setRf rFwuStat 14 14 1).post { kind := 9 } else s)

/-- RSVSTK_CLEAR_TIMEOUT (R468): SUPPLY_RSV_L has been deasserted for 1 s. -/
def execRsvstkClearTimeout (s : State) : Host.Outcome State Fault Refusal :=
  .next (if s.rsvLow then s else s.setRf rFwuStat 14 14 0)

end Sys2Proof.Machine
end

