-- ==== Sys2Proof/Machine/SealTest.lean ====
section
/-! DEFINITION. The seal test and its record (R441 to R446). -/

namespace Sys2Proof.Machine

/-! ### Requests (R443) -/

def State.sealState (s : State) : Nat := s.rf 0x0020804 2 0

/-- The tests of R441 other than tiles, in the scheduler's order (R442): stacks (number s) in the order s mod 6, slices
(100 + s), ports (200 + p), the PCIe core (300), Dispatchers and Die Sequencers (310 to 317), the Package Controller (400). -/
def sealTests : List Nat :=
  (List.range 6).flatMap (fun w => (List.range 4).map (fun d => 6 * d + w)) ++
  (List.range 4).flatMap (fun w => (List.range 4).map (fun d => 100 + 4 * d + w)) ++
  rangeFrom 200 8 ++ [300] ++ rangeFrom 310 8 ++ [400]

/-- R442: every rail that answers goes to 0.75 V for the test. -/
def State.holdRails (s : State) : State :=
  (List.range 4).foldl (fun s d => if bit s.pwr.held d || s.pwr.vcmd.getD d 0 == 750 then s
    else ({ s with pwr := { s.pwr with vcmd := setNth s.pwr.vcmd d 750 } }.setRf (0x1000100 + 4 * d) 21 12 750).emit (.vout d 750))
    { s with pwr := { s.pwr with low := [0, 0, 0, 0], down := [0, 0, 0, 0], up := [0, 0, 0, 0] } }

/-- R443: the request: refused with its REASON, or READY_L goes high and the test begins; it overwrites every Pane, slice and
stack. -/
def State.sealRequest (s : State) : State :=
  if s.held || s.isSafe || s.rf 0x0020808 3 0 != 9 || [1, 2, 5].contains s.sealState then s
  else
    let no := fun (r : Nat) => ((s.setRf 0x0020804 2 0 3).setRf 0x0020804 11 8 r).post { kind := 9, info := r }
    match firstReason [(s.anyCas, 1), (s.rf 0x0020000 2 0 == 4, 2), (s.rsvLow, 3)] with
    | some r => no r
    | none =>
      let s1 := (s.holdRails.setReg 0x0020804 1).setRf 0x1000014 5 5 0
      let s2 := (List.range 16).foldl (fun s f => s.setRf (0x0040000 + 0x100 * f) 0 0 0) s1
      { s2 with sealing := ⟨sealTests, 640, [], false⟩, pane := Mem.empty, scratch := Mem.empty, hbm := Mem.empty
                clines := [], cdirty := [], cdata := Mem.empty }

/-! ### The scheduler (R442) -/

/-- Declared powers (R441). -/
def testPower (x : Nat) : Nat :=
  if x < 100 then 55 else if x < 200 then 6 else if x < 300 then 10 else if x < 310 then 15 else if x < 400 then 4 else 0

/-- The test may run beside the ones that run: one stack and one slice per die at a time, the Package Controller last. -/
def SealSt.beside (x : SealSt) (n : Nat) : Bool :=
  if n < 100 then !x.running.any (fun r => decide (r.1 < 100) && r.1 / 6 == n / 6)
  else if n < 200 then !x.running.any (fun r => decide (100 ≤ r.1 ∧ r.1 < 200) && (r.1 - 100) / 4 == (n - 100) / 4)
  else if n = 400 then x.running.isEmpty && x.todo.length == 1 && x.tiles == 0
  else true

def SealSt.power (x : SealSt) : Nat := 180 + (x.running.map (·.2)).foldl (· + ·) 0

/-- The largest wave of tiles that fits: a multiple of 4, at most 160; waves run one at a time. -/
def SealSt.wave (x : SealSt) (cap : Nat) : Nat :=
  if x.running.any (fun r => decide (1000 ≤ r.1)) then 0 else min (min 160 x.tiles) ((cap - x.power) / 8 / 4 * 4)

/-- The next test: stacks, slices, tiles, and the rest once every tile wave has ended. -/
def SealSt.admitTests (x : SealSt) (cap : Nat) : SealSt :=
  let fits := fun (n : Nat) => x.beside n && decide (x.power + testPower n ≤ cap)
  let take := fun (n : Nat) => { x with todo := x.todo.filter (· != n), running := x.running ++ [(n, testPower n)] }
  match x.todo.find? (fun n => decide (n < 200) && fits n) with
  | some n => take n
  | none =>
    let w := x.wave cap
    if 0 < x.tiles ∨ x.running.any (fun r => decide (1000 ≤ r.1)) = true then
      if w = 0 then x else { x with tiles := x.tiles - w, running := x.running ++ [(1000 + w, 8 * w)] }
    else match x.todo.find? (fun n => decide (200 ≤ n) && fits n) with
      | some n => take n
      | none => x

/-- R442: CAP_W of LCB_BIST_CAP in force. -/
def State.bistCap (s : State) : Nat := max 400 (min 1200 (s.rf 0x002080C 11 0))

/-- R444: the test ends with a STATE and a REASON; a sealed package's Bronak transmitters are idle, so its ports are down (R432). -/
def State.sealStop (s : State) (st reason : Nat) : State :=
  let s1 := { ((s.setRf 0x0020804 2 0 st).setRf 0x0020804 11 8 reason).post { kind := 9, info := st } with sealing := SealSt.reset }
  if st = 2 ∨ st = 5 then (List.range 8).foldl (fun s p => s.linkGone p 0 true) s1 else s1

/-- A test boundary: the tests done have ended; SUPPLY_RSV_L ends the test, or the scheduler admits the next. -/
def State.testAdmit (s : State) (done : List Nat) : State :=
  let x := s.sealing
  let waves := (x.running.filter (fun r => decide (1000 ≤ r.1) && done.contains r.1)).length
  let x1 := { x with running := x.running.filter (fun r => !done.contains r.1) }
  let s1 := s.count 0x0020804 23 16 waves
  if x.rsv then s1.sealStop 5 3
  else { s1 with sealing := if s.pwr.watts ≤ s.bistCap then x1.admitTests s.bistCap else x1 }

/-- TEST_ADMIT (R442). -/
def execTestAdmit (done : List Nat) (s : State) : Host.Outcome State Fault Refusal :=
  .next (if s.sealState = 1 then s.testAdmit done else s)

/-! ### The record (R445, R446) -/

def slotBase (i : Nat) : Nat := 0x00010000 + 0x00010000 * i
def slotNo (b : List Nat) : Nat := leAt b 8 4

/-- R446: a slot is valid. -/
def State.slotValid (s : State) (i : Nat) : Bool :=
  let b := s.flashRead (slotBase i) 16384
  b.take 8 == ascii "DZGSEAL1" &&
    Config.mldsaVerify (Config.mldsaPub s.fuses.seed) (sha3 (b.take 11520)) ((b.drop 11520).take 4627)

/-- R446: the slot of the valid record of highest SEALNO. -/
def State.bestSlot (s : State) : Option Nat :=
  let no := fun (i : Nat) => slotNo (s.flashRead (slotBase i) 16)
  match s.slotValid 0, s.slotValid 1 with
  | true, true => if no 0 < no 1 then some 1 else some 0
  | true, false => some 0
  | false, true => some 1
  | false, false => none

/-- Coverage figures in the row order of R441, in units of 0.01 %; those given in words are free values. -/
def coverage : List Nat :=
  [9920, 9800, Config.sealCov 2 % 65536, Config.sealCov 3 % 65536, Config.sealCov 4 % 65536, 9600, 9500, 9800]

/-- TRNREP of one slice: at most 64 failing lines. -/
def trnRepOf (fails : List Nat) : List Nat :=
  if 64 < fails.length then leBytes 4 0xFFFFFFFE ++ List.replicate 252 0xFF
  else fails.flatMap (leBytes 4) ++ List.replicate (256 - 4 * fails.length) 0xFF

/-- R445: bytes 0 to 11,519. -/
def State.sealBody (s : State) (r : SealIn) (no : Nat) : List Nat :=
  ascii "DZGSEAL1" ++ leBytes 4 no ++ s.fuses.serialBytes ++ leBytes 4 s.run.ver ++ [s.fuses.lcs, 0, 0, 0] ++
    leBytes 4 r.durMs ++ leBytes 4 r.peakW ++ (coverage.flatMap (leBytes 2) ++ List.replicate 68 0) ++
    (List.range 80).map (fun i => ((List.range 8).map (fun j => b2n (!r.tileFail.contains (8 * i + j)) * 2 ^ j)).foldl (· + ·) 0) ++
    (List.range 24).flatMap (fun st => (List.range 32).flatMap (fun n => leBytes 4 (s.reg (rMem st (0x100 + 4 * n))).toNat) ++
      (List.range 8).flatMap (fun n => leBytes 4 (s.reg (rMem st (0x200 + 4 * n))).toNat)) ++
    (List.range 16).flatMap (fun sl => trnRepOf ((r.lineFail.filter (fun x => x.1 == sl)).map (·.2))) ++
    leBytes 8 r.lanesExcl ++ leBytes 4 (0x7F - (r.unitsFail &&& 0x7F)) ++ List.replicate 3364 0

/-- R445: the record of 16,384 bytes. -/
def State.sealRecord (s : State) (r : SealIn) (no : Nat) : List Nat :=
  let b := s.sealBody r no
  b ++ s.idSign b ++ List.replicate 237 0xFF

/-- R444, R446: every test has ended: the record is written to the slot that does not hold the best one. -/
def State.sealDone (s : State) (r : SealIn) : State :=
  let s1 := s.setReg 0x0020814 (BitVec.ofNat 32 r.durMs)
  if s.sealing.rsv then s1.sealStop 5 3
  else if !r.flashOk then s1.sealStop 4 5
  else
    let no := match s.bestSlot with
      | some i => slotNo (s.flashRead (slotBase i) 16) + 1
      | none => 1
    let tgt := match s.bestSlot with
      | some 0 => 1
      | _ => 0
    ((s1.flashErase (slotBase tgt) 65536).flashWrite (slotBase tgt) (s.sealRecord r no)).sealStop 2 0

/-- SEAL_TEST_COMPLETE (R444). -/
def execSealTestComplete (r : SealIn) (s : State) : Host.Outcome State Fault Refusal :=
  .next (if s.sealState = 1 ∧ s.sealing.todo = [] ∧ s.sealing.tiles = 0 ∧ s.sealing.running = [] then s.sealDone r else s)

end Sys2Proof.Machine
end

