-- ==== Sys2Proof/Machine/Bringup.lean ====
section
/-! DEFINITION. Bring-up (R434 to R440, R446, R447, R459, R289, R338, R341): one command runs every step that remains. -/

namespace Sys2Proof.Machine

/-- The safe state during bring-up: configuration space is served unless the PCIe core failed (R448). -/
def State.safeUp (s : State) (cause : Nat) : State :=
  let s1 := s.enterSafe cause
  { s1 with boot := { s1.boot with cfg := cause != 2, link := cause != 2 && s1.rf 0x1000014 1 1 == 0 } }

/-- The next step, unless the safe state has been entered. -/
def State.andThen (s : State) (f : State → State) : State := if s.isSafe then s else f s

/-- LCB_BOOT_STAT STEP: the step in progress (R450). -/
def State.atStep (s : State) (k : Nat) : State := s.setRf 0x0020808 3 0 k

/-! ### Step 2: option loading (R434, R337) -/

/-- R462: LCB_LCS and LCB_KH_STAT as the fuses give them. -/
def State.showLife (s : State) : State :=
  let x := s.fuses
  let opn := b2n (x.lcs == 0 || x.lcs == 1 || x.lcs == 3)
  (s.setReg 0x0020000 (BitVec.ofNat 32 (x.lcs + x.pend * 8))).setReg 0x0020008 (BitVec.ofNat 32 (opn * 7))

/-- Fuse shadows, option words (R451), straps and the start-up voltage of 0.75 V (R474). -/
def State.optionLoad (s : State) (b : BringIn) : State :=
  if !b.optOk then s.safeUp 6
  else
    let s1 := (List.range 4).foldl
      (fun s n => s.setReg (0x10 + 4 * n) (BitVec.ofNat 32 (s.fuses.serial / 2 ^ (32 * n)))) s.showLife
    let s2 := s1.setReg 0x0200000 (BitVec.ofNat 32 (b.straps % 65536 + 65536))
    let s3 := (List.range 4).foldl (fun s d => s.setRf (0x1000100 + 4 * d) 21 12 750) s2
    { s3.setRf rCause 24 24 1 with opts := Assoc.below s.flash sectorSize
                                   pwr := { s3.pwr with vcmd := [750, 750, 750, 750] } }

/-! ### Step 3: the boot ROM (R459) -/

/-- Steps 1 and 2 of R459: the entry in force is read (R458: STAGING is EMPTY); the sill is copied to the active bank. -/
def State.bootCopy (s : State) : State :=
  let s := s.jrnLoad
  let s0 := if s.jrn.st = 1 then s.journal { s.jrn with st := 0 } else s
  let j := s0.jrn
  if !s0.rsvLow && ((j.st == 4 && !j.db) || j.st == 5) then
    if s0.imgValid bankSill then
      let s1 := s0.journal { j with st := 5 }
      let n := (s1.imgHdr bankSill).len + 8192
      let s2 := (s1.flashErase bankActive bankSize).flashWrite bankActive (s1.flashRead bankSill n)
      if s2.imgValid bankActive then s2.journal { s2.jrn with st := 6 } else s2
    else s0.journal { j with st := 7 }
  else s0

/-- The image of a bank runs; FWU_STAT, FWU_VER and FWU_SVN show it (R461, R468). -/
def State.runBank (s : State) (gold : Bool) : State :=
  let h := s.imgHdr (if gold then bankGolden else bankActive)
  let s1 := { s with run := ⟨gold, h.ver, h.svn, h.dig⟩ }
  let s2 := ((s1.setRf rFwuStat 8 8 (b2n gold)).setRf rFwuStat 13 11 s1.jrn.st).setRf rFwuStat 10 10 (b2n s1.jrn.db)
  (s2.setReg 0x0030020 (BitVec.ofNat 32 h.ver)).showTrust

/-- Step 3. -/
def State.bootRom (s : State) : State :=
  let s1 := s.bootCopy
  if s1.imgValid bankActive then s1.runBank false
  else if s1.imgValid bankGolden then (s1.runBank true).post { kind := 9 }
  else s1.safeUp 9

/-! ### The seal record (R446) -/

/-- The code of LCB_BOOT_STAT SEAL, and the slot of the record accepted. -/
def State.sealCheck (s : State) : Nat × Option Nat :=
  match s.bestSlot with
  | none => (1, none)
  | some i =>
    let r := s.flashRead (slotBase i) 16384
    if leAt r 16380 4 ≠ 0xFFFFFFFF then (2, none)
    else if leAt r 28 4 ≠ s.run.ver then (3, none)
    else if leAt r 32 1 ≠ s.fuses.lcs then (4, none)
    else if leAt r 12 16 ≠ s.fuses.serial then (5, none)
    else (0, some i)

/-- The bytes of the record accepted. -/
def State.sealBytes (s : State) (slot : Option Nat) : List Nat :=
  match slot with
  | some i => s.flashRead (slotBase i) 16384
  | none => []

/-- What the tests say: tiles that failed, dies whose logic failed, failing lines (slice, line), the safe cause of a failing
hub unit or 0, whether the ports' logic failed. -/
structure TestRes where
  tiles : List Nat
  dies : List Nat
  lines : List (Nat × Nat)
  hub : Nat
  ports : List Nat

/-- From the record accepted (R445), or from the start test; a slice with more than 64 failing lines gets the start test. -/
def testRes (b : BringIn) (r : List Nat) (valid : Bool) : TestRes :=
  if valid then
    let un := leAt r 8152 4
    let ln := fun (sl : Nat) =>
      let e := (List.range 64).map (fun i => leAt r (4048 + 256 * sl + 4 * i) 4)
      if e.getD 0 0 = 0xFFFFFFFE then b.trnFail.filter (fun x => x.1 == sl)
      else (e.filter (· != 0xFFFFFFFF)).map (fun x => (sl, x))
    ⟨(List.range 640).filter (fun p => !bit (r.getD (128 + p / 8) 0) (p % 8)), (List.range 4).filter (fun d => !bit un d),
     (List.range 16).flatMap ln, if !bit un 5 then 1 else if !bit un 4 then 2 else 0, if bit un 6 then [] else List.range 8⟩
  else ⟨b.tileFail, b.dieFail, b.trnFail, b.hubFail, b.portFail⟩

/-- Step 5: LCB_BOOT_STAT, LCB_SEAL_NO, LCB_BIST_DUR; the record accepted is consumed. -/
def State.sealUse (s : State) (b : BringIn) (code : Nat) (slot : Option Nat) : State :=
  let s1 := (s.setRf 0x0020808 6 4 code).setRf 0x0020808 7 7 (b2n (code != 0))
  match slot with
  | some i => (s1.setReg 0x0020818 (BitVec.ofNat 32 (slotNo (s1.flashRead (slotBase i) 16)))).flashWrite (slotBase i + 16380) [0, 0, 0, 0]
  | none => (s1.setReg 0x0020814 (BitVec.ofNat 32 b.testMs)).setReg 0x0020818 0

/-! ### Step 6: HBM training (R289, R296) -/

/-- Step 6: every stack trains. -/
def State.trainAll (s : State) (b : BringIn) : State := (List.range 24).foldl (fun s st => s.trainHbm b.dqBad b.caBad st) s

/-! ### Step 7: the spare map (R438) -/

/-- R438: the spares of a die whose good positions are given in row-major order. -/
def spareMap (good : List Nat) : List Nat :=
  let n := good.length
  (List.range (n - 144)).map (fun j => good.getD ((j + 1) * n / (n - 144) - 1) 0)

/-- The map of one die from the tiles in STATE 3. -/
def State.buildMap (s : State) (d : Nat) : State :=
  let good := (tilesOfDie d).filter (fun p => s.tilState p != 3)
  let rest := s.spares.filter (fun p => dieOfTile p != d)
  { s with spares := NSet.insertAll rest (spareMap good) }

/-- A die is lost at bring-up for a cause other than its tiles: failing logic, too many failing lines, an unrepairable channel. -/
def dieFails (b : BringIn) (r : TestRes) (d : Nat) : Bool :=
  r.dies.contains d ||
    (rangeFrom (4 * d) 4).any (fun sl => decide (512 < (r.lines.filter (fun x => x.1 == sl)).length)) ||
    (rangeFrom (6 * d) 6).any (fun st => (List.range 32).any (noRepair b.dqBad b.caBad st))

/-- R18: fewer than 144 tiles of the die are outside STATE 3. -/
def State.fewTiles (s : State) (d : Nat) : Bool := decide (s.goodTiles d < 144)

/-- Tiles and dies that failed leave service. -/
def State.loseDies (s : State) (lost : List Nat) : State :=
  let s1 := { s with boot := { s.boot with lost := lost.foldl (fun a d => a + 2 ^ d) 0 } }
  ((List.range 4).filter (fun d => lost.contains d || s1.fewTiles d)).foldl (fun s d => s.dieLost d) s1

/-- Step 7. -/
def State.mapTiles (s : State) (b : BringIn) (r : TestRes) : State :=
  let s1 := r.tiles.foldl (fun s p => if p < 640 then s.setTilState p 3 else s) s
  ((List.range 4).foldl State.buildMap s1).loseDies ((List.range 4).filter (dieFails b r))

/-! ### Step 8: ports (R338, R341, R439) -/

/-- Port p trains and exchanges HELLO with its peer; a port whose peer has not answered goes on training. -/
def State.bringPort (s : State) (b : BringIn) (r : TestRes) (p : Nat) : State :=
  if r.ports.contains p then (s.setPort p { s.port p with bad := true }).post { kind := 4, unit := p }
  else
    let s1 := s.portTrain p (b.lanes.getD p 0)
    match b.peers.find? (fun x => x.1 == p) with
    | some x =>
      if s1.portState p = 1 then
        let s2 := ((s1.setRf (rPort p 0) 23 8 x.2.1).setRf (rPort p 0) 27 24 x.2.2).setPort p { s1.port p with rxNext := 1, found := true }
        (s2.setRf (rPort p 0) 2 0 (if peerOk s2.pkgId p (x.2.1 % 65536) (x.2.2 % 16) then 2 else 3)).post { kind := 4, unit := p }
      else s1
    | none => s1

/-- R341: the default routing entries. -/
def State.defaultTable (s : State) : State :=
  { s with regs := Assoc.below s.regs 0x0400000 ++ defaultRoutes s.pkgId ++ Assoc.atLeast s.regs 0x0480000 }

/-- Step 8: the ports, then the default routing entries. -/
def State.portsUp (s : State) (b : BringIn) (r : TestRes) : State :=
  let s1 := ((List.range 8).foldl (fun s p => s.bringPort b r p) s).defaultTable
  { s1 with boot := { s1.boot with built := true } }

/-- Steps 5 to 8, each shown in STEP. -/
def State.buildUp (s : State) (b : BringIn) : State :=
  let c := s.sealCheck
  let r := testRes b (s.sealBytes c.2) (c.1 == 0)
  let s5 := { (s.atStep 5).sealUse b c.1 c.2 with trnRep := r.lines }
  let s6 := (s5.atStep 6).trainAll b
  ((s6.atStep 7).mapTiles b r).andThen (fun s => (s.atStep 8).portsUp b r)

/-! ### Steps 3, 4 and 9 -/

/-- The safe cause of a hub unit that fails, found by the start test or by the record that step 5 will accept (R447, R446). -/
def State.hubFails (s : State) (b : BringIn) : Nat :=
  let c := s.bootRom.sealCheck
  (testRes b (s.sealBytes c.2) (c.1 == 0)).hub

/-- Step 4: configuration space is loaded and the link enabled (R395). -/
def State.linkUp (s : State) : State :=
  { s with boot := { s.boot with cfg := true, link := s.rf 0x1000014 1 1 == 0 } }.ready395

/-- Step 9: READY_L (R440). -/
def State.readyUp (s : State) : State :=
  let s1 := (s.atStep 9).setRf 0x1000014 6 5 1
  (List.range 16).foldl (fun s f => s.setRf (0x0040000 + 0x100 * f) 0 0 1) s1

/-- Steps 3 to 9: the hub's units are tested before the firmware runs, the PCIe core before the link is enabled (R436, R447). h: the
safe cause of a hub unit that fails, or 0. -/
def State.stepsUp (s : State) (b : BringIn) (h : Nat) : State :=
  let s3 := s.atStep 3
  (if h = 0 ∨ h = 2 then s3.bootRom else s3.safeUp h).andThen (fun s =>
    let s4 := s.atStep 4
    (if h = 2 then s4.safeUp 2 else s4.linkUp).andThen (fun s =>
      (if s.boot.built then s else s.buildUp b).andThen State.readyUp))

/-- R436, R437: every step that remains; b.flash is what has been programmed from outside. -/
def State.bringup (s : State) (b : BringIn) : State :=
  let s0 := b.flash.foldl (fun s x => s.flashBoard x.1 x.2) s
  (if s0.loaded then s0 else (s0.atStep 2).optionLoad b).andThen (fun s =>
    (if b.regDead.isEmpty then s else s.safeUp 10).andThen (fun s => s.stepsUp b (s.hubFails b)))

/-- BRINGUP (R436). -/
def execBringup (b : BringIn) (s : State) : Host.Outcome State Fault Refusal :=
  .next (if s.sysHeld || s.isSafe || s.rf 0x0020808 3 0 == 9 then s else s.bringup b)

end Sys2Proof.Machine
end

