-- ==== Sys2Proof/Machine/Flags.lean ====
section
/-! DEFINITION. What an instruction leaves beside its result: the arithmetic status (R81, R103, R175, R254), the range word of
its destination (R97), and the TWIN check (R205). -/

namespace Sys2Proof.Machine

/-! ### Status (R81) -/

/-- R81: NSEEN, ISEEN and FIRSTPOS of the tile: nan and inf say what was written, first is the lowest non-finite index. -/
def State.status (s : State) (p : Nat) (nan inf : Bool) (first : Option Nat) : State :=
  let s1 := if nan then s.raise (rTil p 4) 0 else s
  let s2 := if inf then s1.raise (rTil p 4) 1 else s1
  match first with
  | some i => if s2.rf (rTil p 4) 2 2 = 1 then s2 else (s2.raise (rTil p 4) 2).setReg (rTil p 8) (BitVec.ofNat 32 i)
  | none => s2

/-- The status of values written at the given indices, in ascending order. -/
def State.statusOf (s : State) (p : Nat) (l : List (Nat × FV)) : State :=
  s.status p (l.any (fun x => x.2.isNaN)) (l.any (fun x => x.2.isInf)) ((l.find? (fun x => !x.2.isFin)).map (·.1))

/-! ### Range word (R97) -/

/-- The largest magnitude among the finite values, as AF32 bits [30:0]. -/
def rangeOf (l : List (Nat × FV)) : Nat :=
  ffAF32.encX (.fin (Dy.maxAbs ((l.filter (fun x => x.2.isFin)).map (fun x => x.2.toDy))))

/-- R97: the range word after an instruction wrote values of greatest magnitude m. -/
def rangeNext (old m : Nat) : Nat := 2 ^ 31 + (if bit old 31 then max (old % 2 ^ 31) m else m)

/-- R97: the destination's range word takes the values written. -/
def State.putRange (s : State) (k : TC) (t : Tens) (l : List (Nat × FV)) : State :=
  if t.rwen then
    s.paneWrite k.p t.rword (clean (leBytes 4 (rangeNext (s.rdNat k 0 t.rword 4) (rangeOf l))))
  else s

/-! ### Writing a wide tensor -/

/-- The values of codes written, with their indices; a line that is not written is none. -/
def writtenVals (f : Fmt) (len : Nat) (lines : List (Option (List Nat))) : List (Nat × FV) :=
  (lines.mapIdx (fun c l => match l with
    | some cs => cs.mapIdx (fun q x => (c * len + q, f.ff.dec x))
    | none => [])).flatten

/-- The data of lines of a tensor: one code per element, no padding. -/
def State.putLines (s : State) (k : TC) (t : Tens) (lines : List (Option (List Nat))) : State :=
  (lines.mapIdx (fun c l => (c, l))).foldl (fun s x => match x.2 with
    | some cs => s.spWrite k.d k.p t.sp (t.base + x.1 * t.stride) (clean (packCodes t.fmt cs))
    | none => s) s

/-- R254: an instruction that computes and writes a wide tensor: data, status, range word. -/
def State.putWide (s : State) (k : TC) (t : Tens) (lines : List (Option (List Nat))) : State :=
  let v := writtenVals t.fmt t.len lines
  ((s.putLines k t lines).statusOf k.p v).putRange k t v

/-- The ranges a wide destination writes: its data (R54) and its range word. -/
def Tens.wrRngs (t : Tens) : List Rng := t.lineAll ++ t.rwRng

/-! ### TWIN (R205) -/

/-- How many runs of the two lane groups disagree. -/
def twinTries (ups : List Upset) : Nat :=
  (ups.map (fun u => match u with | .twin _ _ n => n | .array _ _ _ _ _ | .fold _ _ => 0)).foldl max 0

/-- R205: the comparison of a TWIN instruction: none when the tile's second run disagrees too. -/
def State.twinCheck (s : State) (k : TC) : State × Bool :=
  if k.twin then
    let inj := s.injArmed 2 k.p
    let n := max (twinTries k.ups) (if inj then (if s.injPersist then 2 else 1) else 0)
    let s1 := if inj then s.injFire else s
    if n = 0 then (s1, true)
    else
      let e : Ev := { kind := 2, det := 2, unit := k.p, ctag := s.tagOf k.d, inj := inj }
      if n = 1 then ((s1.post e).count (rTil k.p 0x40) 15 0 1, true)
      else
        let s3 := (s1.postFailing k.p e).count (rTil k.p 0x40) 31 16 1
        (s3.setTile k.p { s3.tile k.p with failing := true }, false)
  else (s, true)

/-- The TWIN comparison, then the effects. -/
def twinned (s : State) (k : TC) (go : State → TRes) : TRes :=
  match s.twinCheck k with
  | (s', true) => go s'
  | (s', false) => .fault s' ⟨0x10, 0, 0⟩

/-! ### Stored checks (R59, R63, R65) -/

/-- A tensor whose descriptor and planes are good: what it holds in memory can be checked. -/
def State.holds (s : State) (k : TC) (t : Tens) : Bool := t.check.isNone && (s.planeCheck k t).isNone

/-- The stored record, sideband words and outlier records of a tensor whose descriptor and planes are good. -/
def State.stored (s : State) (k : TC) (t : Tens) : Option TFault := if s.holds k t then s.storedCheck k t else none

/-- The checks of what the tensors ts and `more` hold in memory, as a visit of the words held finds them (R201, R291). -/
def State.storedFault (s : State) (k : TC) (ts : List Tens) (more : State → Option TFault) (held : List Rng) : Option TFault :=
  let v := s.rngTouch k held
  lowest (ts.map (v.stored k) ++ [more v])

/-- What the checks of memory read: of the good tensors, and of the records `recs` that lie where they may be read. -/
def State.heldRngs (s : State) (k : TC) (ts : List Tens) (recs : List Rng) : List Rng :=
  (ts.filter (s.holds k)).flatMap Tens.heldRngs ++ recs.filter (fun r => (s.rngCheck k false [r]).1.isNone)

/-- As withRanges, with the checks of what the tensors ts and the records recs hold in memory. R251: the lowest code is
reported, so a fault above the format fault waits for the pages that the checks read; R15: a fault has no other effect. -/
def withStored (s : State) (k : TC) (own : List (Option TFault)) (ts : List Tens) (recs : List Rng) (more : State → Option TFault)
    (rds wrs consumed : List Rng) (go : State → TRes) : TRes :=
  if s.rngHazard k rds wrs then .wait else
  let held := s.heldRngs k ts recs
  let late := (s.rngCheck k false held).2
  match s.rngFault k own rds wrs with
  | some f =>
    if decide (2 < f.code) && late then .wait
    else
      let g := if late then f else (lowest [some f, s.storedFault k ts more held]).getD f
      .fault (s.faulted k rds wrs g) g
  | none =>
    if s.rngWaits k rds wrs then .wait
    else
      match s.storedFault k ts more held with
      | some f => .fault s f
      | none =>
        let s1 := s.visited k rds wrs
        match s1.rngPoison k consumed with
        | some f => .fault s1 f
        | none => go s1

end Sys2Proof.Machine
end

