-- ==== Sys2Proof/Machine/Rng.lean ====
section
/-! DEFINITION. The random generator of 06_randomness.md (R145 to R147), stochastic rounding (R157), and the draws of R158
to R160. Every random bit is a pure function of key, stream, step and coordinate. -/

namespace Sys2Proof.Machine

/-- R146: the round constants c[r]. -/
def rngC : List Nat :=
  [0x6D2B79F3, 0xB5E34A17, 0x1F83D9AB, 0xC4A16E03, 0x7B1D2C59, 0xE6F50B8D, 0x2A9C4471, 0x93D7B2E5, 0x58E01F3B, 0xA74FC6C1]
/-- R146: the rotation amounts p[r]. -/
def rngP : List Nat := [16, 12, 8, 24, 20, 16, 12, 8, 24, 20]
/-- R146: the rotation amounts q[r]. -/
def rngQ : List Nat := [8, 20, 12, 16, 4, 28, 8, 20, 12, 16]

/-- A 32-bit word rotated left (R146). -/
def rotl32 (v n : Nat) : Nat := (v * 2 ^ n) % 2 ^ 32 + v / 2 ^ (32 - n)

/-- The generator's four working words. -/
structure RngSt where
  x0 : Nat
  x1 : Nat
  x2 : Nat
  x3 : Nat
  deriving DecidableEq, Repr

/-- R146: round r. -/
def rngRound (key : Nat) (s : RngSt) (r : Nat) : RngSt :=
  let kc := (if r % 2 = 0 then key % 2 ^ 32 else key / 2 ^ 32 % 2 ^ 32) ^^^ nth rngC r 0
  let x0 := (s.x0 + s.x1 + kc) % 2 ^ 32
  let x3 := rotl32 (s.x3 ^^^ x0) (nth rngP r 0)
  let x2 := (s.x2 + x3) % 2 ^ 32
  let x1 := rotl32 (s.x1 ^^^ x2) (nth rngQ r 0)
  ⟨x0, x1, x2, x3⟩

/-- R145 to R147: the 128-bit output Y = y3:y2:y1:y0 for a key, stream, step and coordinate. -/
def rngY (key stream step coord : Nat) : Nat :=
  let s0 : RngSt := ⟨coord % 2 ^ 32, coord / 2 ^ 32 % 2 ^ 32, step % 2 ^ 32, stream % 2 ^ 32⟩
  let s := (List.range 10).foldl (rngRound key) s0
  s.x0 + s.x1 * 2 ^ 32 + s.x2 * 2 ^ 64 + s.x3 * 2 ^ 96

/-- The first word y0 (R147). -/
def rngY0 (key stream step coord : Nat) : Nat := rngY key stream step coord % 2 ^ 32

/-- R153: the streams reserved to the X576. -/
def streamReserved (st : Nat) : Bool := decide (0xFFFFFFF0 ≤ st)

/-- R154: the coordinate of an element, from its logical line and position. -/
def coordOf (line pos : Nat) : Nat := (line % 2 ^ 32) * 2 ^ 32 + pos % 2 ^ 32

/-- R159: a uniform draw, exact. -/
def uniformDraw (y : Nat) : Dy := ⟨((2 * (y % 2 ^ 32 / 2 ^ 8) + 1 : Nat) : Int), -25⟩

/-- R160: a normal draw as an AF32 code. -/
def normalDraw (y : Nat) : Nat :=
  let hs := (List.range 8).map (fun i => y / 2 ^ (16 * i) % 2 ^ 16)
  let n : Int := ((hs.foldl (· + ·) 0 : Nat) : Int) - 262140
  ffAF32.encX (.fin ((Dy.ofInt n).mul (FV.toDy (afv 0x379CC471))))

/-- ceil(log2(num/den)) for positive num/den. -/
def clog2 (num den : Nat) : Int :=
  let l := ilog2 num den
  let exact := if 0 ≤ l then num == den * 2 ^ l.toNat else num * 2 ^ (-l).toNat == den
  if exact then l else l + 1

/-- R157 steps 3 to 6: whether the value lies at or above hi after stochastic rounding. tn/td is t = (|v| - lo)/(hi - lo),
in (0, 1); gn/gd is (hi - lo) * s / u; y the generator's output for the element. -/
def srUp (tn td gn gd y : Nat) : Bool :=
  let d := (min 64 (max 1 (clog2 gn gd))).toNat
  decide (y % 2 ^ d < tn * 2 ^ d / td)

/-- Stochastic rounding of the magnitude num/den to a floating grid (p, bias), s/u given as sn/sd (R157): the code of
lo, or of hi when the bits say so. -/
def srCode (p bias num den sn sd y : Nat) : Nat :=
  let lo := magCode .floor p bias num den
  let ld := codeMag p bias lo
  let hd := codeMag p bias (lo + 1)
  let gap := hd.sub ld
  let (gn, gd) := gap.frac
  let (ln, lden) := ld.frac
  -- |v| - lo as a fraction
  let rn := num * lden - ln * den
  let rd := den * lden
  if rn = 0 then lo
  else if srUp (rn * gd) (rd * gn) (gn * sn) (gd * sd) y then lo + 1 else lo

/-- Stochastic rounding of the magnitude num/den to an integer (R157 with the integer grid). -/
def srInt (num den sn sd y : Nat) : Nat :=
  let lo := num / den
  let rn := num % den
  if rn = 0 then lo
  else if srUp rn den sn sd y then lo + 1 else lo

/-- The unit in the last place of a finite value's code in its source format, subnormals included (R157 step 3). -/
def FFmt.ulp (f : FFmt) (code : Nat) : Dy :=
  let e := code % 2 ^ f.sgn / 2 ^ f.p
  ⟨1, (max e 1 : Nat) - (f.bias : Int) - (f.p : Int)⟩

/-- R157 with divisor 1: a source value to a floating format that has infinities: past the largest finite value by rne,
otherwise stochastically with the unit u of the source. -/
def FFmt.sr (f : FFmt) (v : FV) (u : Dy) (y : Nat) : Nat :=
  match v with
  | .fin neg m e =>
    let (n, d) := Dy.frac ⟨(m : Int), e⟩
    if (codeMag f.p f.bias f.maxc).lt ⟨(m : Int), e⟩ then f.enc v
    else
      let (un, ud) := u.frac
      f.pack neg (srCode f.p f.bias n d ud un y)
  | x => f.enc x

end Sys2Proof.Machine
end

