-- ==== Sys2Proof/Machine/Quant.lean ====
section
/-! DEFINITION. The conversion of 04_scaling_quantisation.md on lists of values: rotation (R120 to R122), constant lines
(R109), outliers (R124 to R126), coarse and fine scales (R92, R94, R99, R107), rounding (R100 to R103, R110, R111) and the
figures of a conversion (R112, R113). Reading and writing the planes is the instructions' part. -/

namespace Sys2Proof.Machine

/-- A source element: its value and the unit in the last place of its code in its format (R157). -/
structure QEl where
  v : FV
  u : Dy
  deriving DecidableEq, Repr

/-- An element from its code in a wide format. -/
def qel (f : FFmt) (c : Nat) : QEl := ⟨f.dec c, f.ulp c⟩
def qel32 (c : Nat) : QEl := qel ffAF32 c

/-- A list cut into pieces of n; fuel is the number of pieces at most. -/
def chunks {α : Type} (n : Nat) : Nat → List α → List (List α)
  | 0, _ => []
  | k + 1, l => match l with
    | [] => []
    | l => l.take n :: chunks n k (l.drop n)

/-- What a conversion of a tensor depends on beside its elements. `near` rounds every element to nearest (the rung retake of
R135). -/
structure QPar where
  fmt : Fmt
  lev : Nat
  rlog : Nat
  osh : Nat
  key : Nat
  sstr : Nat
  sstp : Nat
  role : Bool
  sr : Bool
  near : Bool
  stream : Nat
  step : Nat
  lorg : Nat
  porg : Nat
  sporg : Nat
  deriving DecidableEq, Repr

/-- R157: the generator's output for element k of line c. -/
def QPar.y (q : QPar) (c k : Nat) : Nat := rngY q.key q.stream q.step (coordOf (c + q.lorg) (k + q.porg))

/-! ### Rotation (R120 to R122, R266) -/

/-- R122: the sign at logical position p is negative. -/
def sgnNeg (key stream step p : Nat) : Bool := bit (rngY0 key stream step p) 0

/-- One butterfly stage of half-size h on AF32 codes. -/
def butterfly (h : Nat) (x : List Nat) : List Nat :=
  (chunks (2 * h) (x.length + 1) x).flatMap (fun l =>
    let a := l.take h
    let b := l.drop h
    (a.zip b).map (fun p => afAdd p.1 p.2) ++ (a.zip b).map (fun p => afSub p.1 p.2))

/-- The k butterfly stages of R121. -/
def butterflies (k : Nat) (x : List Nat) : List Nat := (List.range k).foldl (fun x i => butterfly (2 ^ i) x) x

/-- Signs applied exactly. -/
def signs (neg : List Bool) (x : List Nat) : List Nat := (x.zip neg).map (fun p => if p.2 then afNeg p.1 else p.1)

/-- R121: one window of 2^k AF32 codes, forward; role false is a left operand. -/
def rotForward (k : Nat) (role : Bool) (neg : List Bool) (x : List Nat) : List Nat :=
  let s := if role then (k + 1) / 2 else k / 2
  (butterflies k (signs neg x)).map (fun c => afScale c (-(s : Int)))

/-- R266: the inverse transform of one window. -/
def rotInverse (k : Nat) (role : Bool) (neg : List Bool) (x : List Nat) : List Nat :=
  let t := if role then k / 2 else (k + 1) / 2
  signs neg ((butterflies k x).map (fun c => afScale c (-(t : Int))))

/-- R120: the rotation exponent in use. -/
def rotExp (rlog : Nat) : Nat := max 4 (min 8 rlog)

/-- R120, R121: a line of a tensor, every whole window rotated. -/
def QPar.rotate (q : QPar) (l : List QEl) : List QEl :=
  let k := rotExp q.rlog
  let n := 2 ^ k
  ((chunks n (l.length + 1) l).mapIdx (fun w x =>
    if x.length = n then
      let neg := (rangeFrom (w * n + q.sporg) n).map (fun p => sgnNeg q.key q.sstr q.sstp (p % 2 ^ 32))
      (rotForward k q.role neg (x.map (fun e => ffAF32.enc e.v))).map qel32
    else x)).flatten

/-! ### Constant lines and outliers -/

def FV.dyAbs (v : FV) : Dy := v.toDy.abs

/-- R109: the BF16 code of a constant channel. -/
def constOf (l : List QEl) : Option Nat :=
  match l with
  | [] => none
  | e :: r =>
    let c := ffBF16.enc e.v
    if e.v.isFin && !e.v.isZero && r.all (fun x => x.v.isFin && FV.feq x.v e.v) && FV.feq (ffBF16.dec c) e.v then some c
    else none

/-- R124: the candidates of one block, as positions from p with their magnitudes. -/
def candidates (osh p : Nat) (blk : List QEl) : List (Nat × Dy) :=
  let n := blk.length
  if n < 2 || blk.any (fun e => !e.v.isFin) then []
  else
    let tot := Dy.sum (blk.map (fun e => e.v.dyAbs))
    (blk.mapIdx (fun i e => (p + i, e.v.dyAbs))).filter (fun c =>
      let rest := tot.sub c.2
      !rest.isZero && (rest.scale osh).lt (c.2.mul (Dy.ofNat (n - 1))))

/-- R125: a candidate's rank: how many come before it. -/
def candRank (l : List (Nat × Dy)) (c : Nat × Dy) : Nat :=
  (l.filter (fun x => c.2.lt x.2 || (c.2.eq x.2 && decide (x.1 < c.1)))).length

/-- R125: the positions that take slots in one panel, ascending, and how many candidates are rejected. -/
def pickOutliers (l : List (Nat × Dy)) : List Nat × Nat :=
  let kept := if l.length ≤ 32 then l else l.filter (fun c => decide (candRank l c < 32))
  (kept.map (·.1), l.length - kept.length)

/-- A prepared line: stages 1 to 3 of R91. -/
structure QLine where
  els : List QEl
  const : Option Nat
  outs : List Nat
  rej : Nat
  deriving DecidableEq, Repr

/-- R117: the formats that the ladder rotates. -/
def Fmt.laddered (f : Fmt) : Bool := f.hasFine

/-- Stages 1 to 3 of R91 for one line. -/
def QPar.prep (q : QPar) (l : List QEl) : QLine :=
  let rot := q.fmt.laddered && decide (1 ≤ q.lev ∧ q.lev ≤ 3)
  let x := if rot then q.rotate l else l
  let con := if q.fmt = .u4 then constOf x else none
  if q.fmt.laddered && decide (2 ≤ q.lev ∧ q.lev ≤ 3) && con.isNone then
    let ps := (chunks 2048 (x.length + 1) x).mapIdx (fun n pan =>
      pickOutliers (((chunks 16 (pan.length + 1) pan).mapIdx (fun b blk => candidates q.osh (2048 * n + 16 * b) blk)).flatten))
    ⟨x, con, (ps.map (·.1)).flatten, (ps.map (·.2)).foldl (· + ·) 0⟩
  else ⟨x, con, [], 0⟩

/-- R98: the largest finite magnitude. -/
def tensorMax (ls : List QLine) : Dy :=
  ls.foldl (fun a l => l.els.foldl (fun a e => if e.v.isFin then a.max e.v.dyAbs else a) a) Dy.zero

/-! ### Scales -/

/-- R92: the target magnitude, or span for U4. -/
def Fmt.target (f : Fmt) : Nat :=
  match f with
  | .e2m1 => 6 | .s4 => 7 | .u4 => 14 | .s8 => 127 | .e4m3 => 448 | .e5m2 => 57344 | _ => 1

/-- ru(v / E, CS16) for a dyadic v. -/
def coarse (f : Fmt) (v : Dy) : Nat :=
  if v.isZero then 0
  else
    let r := v.ratio (Dy.ofNat f.target)
    ruCS16 r.1 r.2

/-- R99: the classes of a block. -/
inductive BCls where
  | nan | zero | normal | under | miss
  deriving DecidableEq, Repr

/-- R99, R107: the range of a block's ordinary elements: the least, the greatest (both taken about zero). -/
def blkLo (l : List QEl) : Dy := l.foldl (fun a e => if e.v.toDy.lt a then e.v.toDy else a) Dy.zero
def blkHi (l : List QEl) : Dy := l.foldl (fun a e => a.max e.v.toDy) Dy.zero

/-- R99, R107: the class of a block and its fine scale; ord: its elements outside outlier slots. -/
def classify (f : Fmt) (cs : Nat) (ord : List QEl) : BCls × Nat :=
  if ord.any (fun e => !e.v.isFin) then (.nan, 0xFF)
  else
    let m := if f = .u4 then (blkHi ord).sub (blkLo ord) else (blkHi ord).max (blkLo ord).neg
    if m.isZero || cs == 0 then (.zero, 0)
    else
      let r := m.ratio ((cs16Val cs).mul (Dy.ofNat f.target))
      if r.2 * 114688 < r.1 then (.miss, 0xFE)
      else if r.1 * 2 ^ 17 < r.2 then (.under, 1)
      else (.normal, ruUE5M3 r.1 r.2)

/-! ### Rounding (R100 to R102, R107) -/

/-- How an element is rounded: to nearest, or stochastically with the generator's output. -/
inductive Rnd where
  | rne
  | sr (y : Nat)
  deriving DecidableEq, Repr

/-- The magnitude |x| / s rounded to an integer. -/
def roundInt (rn : Rnd) (x s u : Dy) : Nat :=
  let r := x.abs.ratio s
  match rn with
  | .rne => cutDiv .rne r.1 r.2
  | .sr y => let su := s.ratio u; srInt r.1 r.2 su.1 su.2 y

/-- The magnitude |x| / s rounded to an E2M1 magnitude code. -/
def roundE2 (rn : Rnd) (x s u : Dy) : Nat :=
  let r := x.abs.ratio s
  match rn with
  | .rne => magCode .rne 1 1 r.1 r.2
  | .sr y => let su := s.ratio u; srCode 1 1 r.1 r.2 su.1 su.2 y

/-- |x| > E * s. -/
def beyond (x s : Dy) (e : Nat) : Bool := (s.mul (Dy.ofNat e)).lt x.abs

/-- R100 to R102, R107: the code of an element of a block with step s and zero point z, and whether it saturated. -/
def codeOf (f : Fmt) (c : BCls) (s : Dy) (z : Nat) (rn : Rnd) (e : QEl) : Nat × Bool :=
  let x := e.v.toDy
  let neg := decide (x.m < 0)
  match f with
  | .u4 =>
    let k := roundInt rn x s e.u
    let q : Int := (if neg then -(k : Int) else (k : Int)) + (z : Int)
    if q < 0 then (0, true) else if 15 < q then (15, true) else (q.toNat, false)
  | .e2m1 =>
    let sat := c == .miss && beyond x s 6
    let k := if sat then 7 else roundE2 rn x s e.u
    (if k = 0 then 0 else k + b2n neg * 8, sat)
  | f =>
    let sat := c == .miss && beyond x s f.target
    let k := if sat then f.target else roundInt rn x s e.u
    (wrap (if neg then -(k : Int) else (k : Int)) f.bits, sat)

/-- R107: the zero point. -/
def zeroPoint (lo s : Dy) : Nat :=
  if lo.isZero then 0 else let r := lo.abs.ratio s; min 15 (cutDiv .ceil r.1 r.2)

/-- A block as written: class, fine scale, codes (one per element below K), sideband word, saturated elements. -/
structure BlkOut where
  cls : BCls
  fs : Nat
  codes : List Nat
  side : Nat
  sat : Nat
  deriving DecidableEq, Repr

/-- Stage 8 for block b of line c; outs: slotted positions of the line. -/
def QPar.block (q : QPar) (cs c b : Nat) (outs : List Nat) (els : List QEl) : BlkOut :=
  let idx := els.mapIdx (fun i e => (16 * b + i, e))
  let ord := (idx.filter (fun x => !outs.contains x.1)).map (·.2)
  let k := classify q.fmt cs ord
  let zs : List Nat := els.map (fun _ => 0)
  match k.1 with
  | .nan => ⟨.nan, 0xFF, zs, 0, 0⟩
  | .zero => ⟨.zero, 0, zs, 0, 0⟩
  | cls =>
    let s := (cs16Val cs).mul (ue5m3Val k.2)
    let z := if q.fmt = .u4 then zeroPoint (blkLo ord) s else 0
    let rs := idx.map (fun x =>
      if outs.contains x.1 then (0, false, true)
      else
        let rn := if !q.near && (q.sr || cls == .under) then Rnd.sr (q.y c x.1) else .rne
        let r := codeOf q.fmt cls s z rn x.2
        (r.1, r.2, r.1 == z))
    let codes := rs.map (·.1)
    if cls == .under && rs.all (fun r => r.2.2) then ⟨.under, 0, zs, 0, 0⟩
    else
      ⟨cls, k.2, codes, if q.fmt = .u4 then codes.foldl (· + ·) 0 + z * 256 else 0, (rs.filter (fun r => r.2.1)).length⟩

/-! ### A whole conversion to a fine-scaled format -/

/-- What a conversion counted (R112). -/
structure QStat where
  nblk : Nat
  miss : Nat
  under : Nat
  zerob : Nat
  constb : Nat
  nanb : Nat
  sate : Nat
  rej : Nat
  retake : Bool
  deriving DecidableEq, Repr

/-- Stage 6: the Range-miss blocks of a line under a coarse scale. -/
def missLine (f : Fmt) (cs : Nat) (l : QLine) : Nat :=
  if l.const.isSome then 0
  else
    (((chunks 16 (l.els.length + 1) l.els).mapIdx (fun b blk =>
      let ord := ((blk.mapIdx (fun i e => (16 * b + i, e))).filter (fun x => !l.outs.contains x.1)).map (·.2)
      (classify f cs ord).1 == BCls.miss)).filter id).length

/-- Stage 8 for a line: the line as stored (R53, R108, R109, R126) and its blocks. Every block of a constant channel has CONST = 1,
those wholly of padding too (R109). -/
def QPar.line (q : QPar) (cs c : Nat) (l : QLine) : Line × List BlkOut :=
  let n := l.els.length
  let bl := chunks 16 (n + 1) l.els
  match l.const with
  | some v => (⟨List.replicate n 0, bl.map (fun _ => 0), List.replicate (padLen n / 16) 0x8000, v, []⟩, [])
  | none =>
    let bs := bl.mapIdx (fun b els => q.block cs c b l.outs els)
    let base : Line := ⟨(bs.map (·.codes)).flatten, bs.map (·.fs), bs.map (·.side), 0, []⟩
    let outs := l.outs.map (fun p =>
      let x := (nth l.els p ⟨.nan, Dy.zero⟩).v.toDy
      let b := (lineElem q.fmt cs base p).dy
      (p, ffBF16.encX (.fin (x.sub b))))
    ({ base with outs := outs }, bs)

/-- Stages 6 to 8 (R104, R105): a retake when allowed; retake: RETAKE_EN and MISS_LOG2. -/
def QPar.convert (q : QPar) (ls : List QLine) (cs0 : Nat) (amax : Dy) (retEn : Bool) (t : Nat) : TVal × QStat :=
  let len := match ls with | [] => 0 | l :: _ => l.els.length
  let nb := ls.length * ceilDiv len 16
  let miss := (ls.map (missLine q.fmt cs0)).foldl (· + ·) 0
  let ret := retEn && decide (nb < miss * 2 ^ t)
  let cs := if ret then coarse q.fmt amax else cs0
  let out := ls.mapIdx (fun c l => q.line cs c l)
  let bs := (out.map (·.2)).flatten
  let cnt := fun (p : BlkOut → Bool) => (bs.filter p).length
  (⟨q.fmt, cs, len, out.map (·.1)⟩,
   ⟨nb, miss, cnt (fun b => b.cls == .under), cnt (fun b => b.fs == 0), (ls.filter (fun l => l.const.isSome)).length * ceilDiv len 16,
    cnt (fun b => b.cls == .nan), (bs.map (·.sat)).foldl (· + ·) 0, (ls.map (·.rej)).foldl (· + ·) 0, ret⟩)

/-! ### Eight-bit floats and plain conversion (R110, R111) -/

/-- R110: the code of an element under a coarse scale, and whether it missed the range. -/
def QPar.code8 (q : QPar) (cs c k : Nat) (e : QEl) : Nat × Bool :=
  let f := q.fmt.ff
  match e.v with
  | .nan => (f.nanc, false)
  | .inf s => (f.enc (.inf s), false)
  | .fin neg m x =>
    if cs = 0 then (0, false)
    else
      let s := cs16Val cs
      let d : Dy := ⟨(m : Int), x⟩
      let r := d.ratio s
      if beyond d s q.fmt.target then (f.pack neg f.maxc, true)
      else if q.sr && !q.near then
        let su := s.ratio e.u
        (f.pack neg (srCode f.p f.bias r.1 r.2 su.1 su.2 (q.y c k)), false)
      else (f.pack neg (magCode .rne f.p f.bias r.1 r.2), false)

/-- R110: the blocks of 16 of a line that hold a range miss. -/
def miss8Line (f : Fmt) (cs : Nat) (l : QLine) : Nat :=
  ((chunks 16 (l.els.length + 1) l.els).filter (fun b =>
    b.any (fun e => e.v.isFin && cs != 0 && beyond e.v.toDy (cs16Val cs) f.target))).length

def QPar.convert8 (q : QPar) (ls : List QLine) (cs0 : Nat) (amax : Dy) (retEn : Bool) (t : Nat) : TVal × QStat :=
  let len := match ls with | [] => 0 | l :: _ => l.els.length
  let nb := ls.length * ceilDiv len 16
  let miss := (ls.map (miss8Line q.fmt cs0)).foldl (· + ·) 0
  let ret := retEn && decide (nb < miss * 2 ^ t)
  let cs := if ret then coarse q.fmt amax else cs0
  let out := ls.mapIdx (fun c l => l.els.mapIdx (fun k e => q.code8 cs c k e))
  let nan := (ls.map (fun l => ((chunks 16 (l.els.length + 1) l.els).filter (fun b => b.any (fun e => !e.v.isFin))).length)).foldl
    (· + ·) 0
  (⟨q.fmt, cs, len, out.map (fun l => ⟨l.map (·.1), [], [], 0, []⟩)⟩,
   ⟨nb, miss, 0, 0, 0, nan, (out.map (fun l => (l.filter (·.2)).length)).foldl (· + ·) 0, 0, ret⟩)

/-- R111: a plain conversion. -/
def QPar.convertW (q : QPar) (ls : List QLine) : TVal × QStat :=
  let f := q.fmt.ff
  let len := match ls with | [] => 0 | l :: _ => l.els.length
  let code := fun (c k : Nat) (e : QEl) => if q.sr then f.sr e.v e.u (q.y c k) else f.enc e.v
  (⟨q.fmt, 0, len, ls.mapIdx (fun c l => ⟨l.els.mapIdx (fun k e => code c k e), [], [], 0, []⟩)⟩,
   ⟨ls.length * ceilDiv len 16, 0, 0, 0, 0, 0, 0, 0, false⟩)

/-- Every conversion of QNT under a coarse scale already chosen. -/
def QPar.run (q : QPar) (ls : List QLine) (cs0 : Nat) (amax : Dy) (retEn : Bool) (t : Nat) : TVal × QStat :=
  if q.fmt.hasFine then q.convert ls cs0 amax retEn t
  else if q.fmt.hasRecord then q.convert8 ls cs0 amax retEn t
  else q.convertW ls

/-- R113: SSE and SSX as AF32 codes, over the finite elements outside NaN blocks in order. DESIGN CHOICE (log 23): R103 makes
NaN blocks of fine-scaled formats only, so in E4M3 and E5M2 the finite elements of a group of 16 that also holds a NaN or an
infinity count here, though R112's NANB counts that group. -/
def sums (ls : List QLine) (t : TVal) : Nat × Nat :=
  (ls.zip t.lines).foldl (fun a p =>
    (p.1.els.mapIdx (fun k e => (k, e))).foldl (fun a x =>
      if !x.2.v.isFin || nth p.2.fine (x.1 / 16) 0 == 0xFF then a
      else
        let w := lineVal t.fmt t.cs p.2 x.1
        let wv : FV := match w with | .fin d => .fin (decide (d.m < 0)) d.m.natAbs d.e | .inf s => .inf s | .nan => .nan
        let e := ffAF32.enc (x.2.v.sub wv)
        let c := ffAF32.enc x.2.v
        (afAdd a.1 (afMul e e), afAdd a.2 (afMul c c))) a) (0, 0)

end Sys2Proof.Machine
end

