-- ==== Sys2Proof/Machine/Reduce.lean ====
section
/-! DEFINITION. In-port reduction and fabric epochs (R280, R346 to R348, R352 to R360): ARED, the frames of a reduction, TOKEN
and HOLD. -/

namespace Sys2Proof.Machine

/-! ### Segments and pieces (R353) -/

/-- The pieces of segment s of n of a contribution of e8 chunks: piece index, first chunk, number of chunks. -/
def segPieces (e8 n s : Nat) : List (Nat × Nat × Nat) :=
  let a := s * e8 / n
  let b := (s + 1) * e8 / n
  (List.range (ceilDiv (b - a) 2048)).map (fun i => (i, a + 2048 * i, min 2048 (b - a - 2048 * i)))

/-- The number of pieces of a whole shard. -/
def allPieces (e8 n : Nat) : Nat := ((List.range n).map (fun s => (segPieces e8 n s).length)).foldl (· + ·) 0

/-- R353: the port that holds a segment at its reducer. -/
def State.segPort (s : State) (d g seg : Nat) : Nat :=
  let ps := portsOf (s.mask d)
  nth ps ((g + seg) % ps.length) 0

/-- R355: the element-wise sum of two chunks of eight AF32 codes. -/
def chunkAdd (x y : Nat) : Nat :=
  (List.range 8).foldl (fun acc j => acc + afAdd (fld x (32 * j + 31) (32 * j)) (fld y (32 * j + 31) (32 * j)) * 2 ^ (32 * j)) 0

def chunkBytes (cs : List Nat) : List Nat := cs.flatMap (leBytes 32)
/-- R354: the digest of a piece. -/
def pieceDigest (cs : List Nat) : Nat := crc64 (chunkBytes cs)

/-! ### The tree (R77, R355) -/

def RedNode.join (a b : RedNode) : RedNode :=
  ⟨a.leaf, a.lvl + 1, (a.chunks.zip b.chunks).map (fun p => chunkAdd p.1 p.2), NSet.insertAll a.psn b.psn⟩

/-- A node enters the tree of n leaves: it joins its sibling when that is there, and is carried up where there is none. -/
def treeInsert (n : Nat) : Nat → RedNode → List RedNode → List RedNode
  | 0, x, l => x :: l
  | k + 1, x, l =>
    if n ≤ 2 ^ x.lvl then x :: l
    else
      let left := x.leaf / 2 ^ x.lvl % 2 == 0
      let sib := if left then x.leaf + 2 ^ x.lvl else x.leaf - 2 ^ x.lvl
      if n ≤ sib then treeInsert n k { x with lvl := x.lvl + 1 } l
      else
        match l.find? (fun y => y.leaf == sib && y.lvl == x.lvl) with
        | none => x :: l
        | some y =>
          treeInsert n k (if left then x.join y else y.join x) (l.filter (fun z => !(z.leaf == sib && z.lvl == x.lvl)))

/-! ### Sending pieces and results (R354) -/

/-- PSN of a frame's chunks [o, o + n). -/
def psnMask (psn : List Nat) (o n : Nat) : Nat :=
  (List.range n).foldl (fun m i => if NSet.mem psn (o + i) then m + 2 ^ i else m) 0

/-- Data of a piece or a result in frames of 16 chunks, then its DIGEST. -/
def State.sendData (s : State) (dest ctag h : Nat) (del : Bool) (chunks psn : List Nat) : State :=
  let n := ceilDiv chunks.length 16
  let s1 := (List.range n).foldl (fun s i =>
    let part := (chunks.drop (16 * i)).take 16
    let last := i + 1 == n
    (s.sendTo dest ctag (psnMask psn (16 * i) part.length)
      (if del then .deliver h (16 * i) last part else .piece h (16 * i) last part)).1) s
  (s1.sendTo dest ctag 0 (.digest h (pieceDigest chunks))).1

/-! ### Delivery into the target tile (R280, R354 step 6, R358) -/

/-- Chunks from number `first` of a shard, written as its destination describes, line by line: a word that the piece fills takes the
poison of its data alone (R202, R322). -/
def State.writeShard (s : State) (d : Nat) (x : FShard) (first : Nat) (chunks psn : List Nat) : State :=
  let t := tens x.desc 1
  let line := 4 * t.len
  let bs := ((chunks.mapIdx (fun i c => (leBytes 32 c).map (fun b => (b, NSet.mem psn i)))).flatten).take (4 * x.elems - 32 * first)
  foldPieces (fun s a b => s.deliver d x.tile (t.base + a / line * t.stride + a % line) b) (cuts line (32 * first) bs.length) bs s

/-- One piece of a shard has arrived; the last one adds an arrival at the target tile. -/
def State.pieceHome (s : State) (d g shard first : Nat) (chunks psn : List Nat) : State :=
  match (s.fab d).shards.find? (fun x => x.gidx == g && x.shard == shard) with
  | none => s
  | some x =>
    let s1 := s.writeShard d x first chunks psn
    let f := s1.fab d
    let rest := f.shards.erase x
    if x.left ≤ 1 then (s1.setFab d { f with shards := rest }).arrive d x.tile x.cnt
    else s1.setFab d { f with shards := { x with left := x.left - 1 } :: rest }

/-! ### The reducer -/

def FRed.is (r : FRed) (g shard seg piece : Nat) : Bool := r.gidx == g && r.shard == shard && r.seg == seg && r.piece == piece

def State.updRed (s : State) (d : Nat) (r r' : FRed) : State :=
  let f := s.fab d
  s.setFab d { f with reds := f.reds.map (fun x => if x.is r.gidx r.shard r.seg r.piece then r' else x) }

def State.dropRed (s : State) (d : Nat) (r : FRed) : State :=
  let f := s.fab d
  s.setFab d { f with reds := f.reds.filter (fun x => !x.is r.gidx r.shard r.seg r.piece) }

/-- The piece under reduction with these names. -/
def State.red? (s : State) (d g shard seg piece : Nat) : Option FRed := (s.fab d).reds.find? (fun r => r.is g shard seg piece)

/-- R354 step 6: the result goes to every member, this one included; the record stays until all have acknowledged. -/
def State.sendResult (s : State) (d : Nat) (r : FRed) : State :=
  match r.nodes with
  | [x] =>
    let s1 := s.updRed d r { r with sent := true }
    let own := s.pkgId
    let s2 := (r.mems.filter (fun m => m.pkg != own)).foldl (fun s m => s.sendData m.pkg (s.fabTag d) m.ret true x.chunks x.psn) s1
    let e8 := ceilDiv r.elems 8
    let s3 := s2.pieceHome d r.gidx r.shard (r.seg * e8 / r.n + 2048 * r.piece) x.chunks x.psn
    if r.mems.all (fun m => m.acked || m.pkg == own) then s3.dropRed d r else s3
  | _ => s

/-- The sums of a fold disagree: how often, injections included (R368, R371). -/
def State.foldTries (s : State) (p addBad : Nat) : Nat × Bool :=
  if s.injArmed 0x0B p then (max addBad (if s.injPersist then 2 else 1), true) else (addBad, false)

/-- R355, R356, R368: one fold: a grant of the port's reduction arbiter; the sums are compared; the piece enters the tree; the
last one makes the result. False when the sums disagree twice. -/
def State.fold (s : State) (d : Nat) (r : FRed) (gi addBad : Nat) (chunks psn : List Nat) : State × Bool :=
  let p := r.port
  let bad := s.foldTries p addBad
  let s0 := if bad.2 then s.injFire else s
  let s1 := s0.grant (arbPort p)
  let q := s1.arbN (arbPort p)
  let s2 := (s1.setReg (rPort p 0x10) (BitVec.ofNat 32 q)).setReg (rPort p 0x14) (BitVec.ofNat 32 (q / 2 ^ 32))
  let s3 := if bad.1 = 0 then s2 else s2.post { kind := 2, det := 0x0B, unit := p, ctag := s.tagOf d, inj := bad.2 }
  if 2 ≤ bad.1 then ((s3.count (0x0060500 + 4 * p) 31 16 1).portFence p, false)
  else
    let s4 := if bad.1 = 1 then s3.count (0x0060500 + 4 * p) 15 0 1 else s3
    let r' := { r with nodes := treeInsert r.n 20 ⟨gi, 0, chunks, psn⟩ r.nodes
                       mems := r.mems.map (fun m => if m.gi = gi then { m with folded := true, chunks := [], psn := [] } else m) }
    let s5 := s4.updRed d r r'
    (if r'.mems.length = r'.n ∧ r'.mems.all (·.folded) then s5.sendResult d r' else s5, true)

/-- R358: a request of E elements and of group index gi fits the shard's others. -/
def State.fits (s : State) (d g shard seg piece gi e : Nat) : Bool :=
  (s.fab d).reds.all (fun r => !(r.gidx == g && r.shard == shard) || (r.elems == e &&
    (!r.is g shard seg piece || r.mems.all (fun m => m.gi != gi))))

/-- A member joins a piece under reduction, which begins with the first. -/
def State.joinRed (s : State) (d g shard seg piece n e : Nat) (m : FMem) : State :=
  let f := s.fab d
  let cnt := ((segPieces (ceilDiv e 8) n seg).find? (fun x => x.1 == piece)).elim 0 (·.2.2)
  match s.red? d g shard seg piece with
  | some r => s.updRed d r { r with mems := r.mems ++ [m] }
  | none => s.setFab d { f with reds := f.reds ++ [⟨g, shard, seg, piece, s.segPort d g seg, n, e, cnt, [m], [], false⟩] }

/-- R354: the reducer's own contribution takes steps 1 and 5; addBad: how often the fold's sums disagree (R368). -/
def State.redLocal (s : State) (d g shard seg piece n e addBad : Nat) (chunks psn : List Nat) : State :=
  if s.fits d g shard seg piece seg e then
    let s1 := s.joinRed d g shard seg piece n e ⟨seg, s.pkgId, 0, 0, none, false, true, 0, [], []⟩
    match s1.red? d g shard seg piece with
    | some r => (s1.fold d r seg addBad chunks psn).1
    | none => s1
  else s.enterHold d 7

/-- R356: the bytes of reduction memory in use at port p. -/
def State.redUsed (s : State) (p : Nat) : Nat :=
  ((List.range 4).flatMap (fun d => (s.fab d).reds.filter (fun r => r.port == p))).foldl
    (fun n r => n + 32 * r.count * (r.nodes.length + (r.mems.filter (fun m => m.handle.isSome && !m.folded)).length)) 0

/-- R356: the next request of a piece that may be granted: in ascending group index, at most 8 beyond the lowest member not
folded, where memory is free. -/
def State.grantable (s : State) (r : FRed) : Option FMem :=
  let done := fun (gi : Nat) => r.mems.any (fun m => m.gi == gi && (m.folded || m.handle.isSome))
  let low := ((List.range r.n).find? (fun gi => !(r.mems.any (fun m => m.gi == gi && m.folded)))).getD r.n
  match (List.range r.n).find? (fun gi => gi != r.seg && !done gi) with
  | none => none
  | some gi =>
    let out := (r.mems.filter (fun m => m.handle.isSome && !m.folded && decide (low < m.gi))).length
    if (low < gi ∧ 8 ≤ out) ∨ 2 ^ 22 < s.redUsed r.port + 32 * r.count then none
    else r.mems.find? (fun m => m.gi == gi)

/-- R354 step 3: memory is reserved and GRANT is sent. -/
def State.grantTo (s : State) (d : Nat) (r : FRed) (m : FMem) : State :=
  let f := s.fab d
  let h := f.nextHandle
  let s1 := s.setFab d { f with nextHandle := (h + 1) % 2 ^ 16 }
  let s2 := s1.updRed d r { r with mems := r.mems.map (fun x => if x.gi = m.gi then { x with handle := some h } else x) }
  (s2.sendTo m.pkg (s2.fabTag d) 0 (.grant m.reqid h)).1

/-- One grant of a piece, if one is possible. -/
def State.tryGrant (s : State) (d : Nat) (r : FRed) : State :=
  match s.grantable r with
  | some m => s.grantTo d r m
  | none => s

/-! ### ARED (R280, R354 steps 1 and 2) -/

/-- A contribution: its chunks with the numbers of the poisoned ones. -/
def State.contribution (s : State) (k : TC) (a : Tens) : List Nat × List Nat :=
  let bs := (List.range a.lines).flatMap (fun c => s.spRead k.d k.p a.sp (a.base + c * a.stride) (4 * a.len))
  let cs := chunks 32 (bs.length + 1) bs
  (cs.map (fun c => leNat (pvals c)), (cs.mapIdx (fun i c => (i, ppsn c))).filterMap (fun x => if x.2 then some x.1 else none))

/-- Part [first, first + n) of a contribution. -/
def partOf (c : List Nat × List Nat) (first n : Nat) : List Nat × List Nat :=
  ((c.1.drop first).take n, (c.2.filter (fun i => decide (first ≤ i ∧ i < first + n))).map (· - first))

/-- The contributor asks the reducer of a piece for memory; a request that no route takes fails at once (R343, R359). -/
def State.askFor (s : State) (d g gi shard seg piece e tile tgt first : Nat) (desc : Desc) (c : List Nat × List Nat) : State :=
  let f := s.fab d
  let id := f.nextReq
  let h := f.nextHandle
  let s1 := s.setFab d { f with
    nextReq := (id + 1) % 2 ^ 16, nextHandle := (h + 1) % 2 ^ 16
    reqs := f.reqs ++ [⟨id, g, gi, shard, seg, piece, tgt, none, c.1, c.2⟩]
    rets := f.rets ++ [⟨h, g, shard, seg, piece, first, c.1.length, tgt, [], [], 0⟩] }
  match s1.sendTo tgt (s1.fabTag d) 0 (.preq id g gi shard piece e tile h desc.toNat) with
  | (s2, true) => s2
  | (s2, false) => s2.enterHold d 2

/-- R348: a group that the casement does not hold or that lacks this member; R351: a casement that is not live. -/
def State.groupBad (s : State) (d g : Nat) : Bool :=
  let k := 0x0218000 + 8 * (s.rf (rFab d 8) 11 0 + g)
  s.fabState d == 0 || s.fabState d == 3 || decide (s.rf (rFab d 8) 24 12 ≤ g) || s.rf (k + 4) 4 4 == 0 ||
    !(s.groupPkgs d g).contains s.pkgId

/-- The tries in which the sums of an ARED's nth own fold differ (R368). -/
def foldBad (ups : List Upset) (n : Nat) : Nat :=
  ups.foldl (fun a u => match u with | .fold i tries => if i = n then max a tries else a | _ => a) 0

/-- ARED's effect: the contribution is read into port memory and every piece of every segment goes its way. -/
def State.contributeShard (s : State) (k : TC) : State :=
  let a := k.tA
  let g := fld k.imm 11 0
  let shard := fld k.imm 43 12
  let pk := s.groupPkgs k.d g
  let n := pk.length
  let me := pk.idxOf s.pkgId
  let e := a.lines * a.len
  let e8 := ceilDiv e 8
  let c := s.contribution k a
  let tile := k.sc k.w.srcb
  let desc := k.x.td (opIdx k.w.dst)
  let f := s.fab k.d
  let s1 := s.setFab k.d { f with shards := f.shards ++ [⟨g, shard, e, tile, fld k.imm 47 44, desc, allPieces e8 n⟩] }
  let all := (List.range n).flatMap (fun seg => (segPieces e8 n seg).map (fun p => (seg, p)))
  all.foldl (fun s x =>
    if s.fabState k.d = 1 then
      let part := partOf c x.2.2.1 x.2.2.2
      if x.1 = me then s.redLocal k.d g shard x.1 x.2.1 n e (foldBad k.ups x.2.1) part.1 part.2
      else s.askFor k.d g me shard x.1 x.2.1 e tile (nth pk x.1 0) x.2.2.1 desc part
    else s) s1

/-- ARED's faults. -/
def aredFaults (s : State) (k : TC) : List (Option TFault) :=
  let a := k.tA
  let dst := k.tDst
  [ inPane dst, inPane a, dst.check, a.check, need (!dst.is .af32) 2 1, need (!a.is .af32) 2 2,
    s.planeCheck k dst, s.planeCheck k a,
    need (dst.len != a.len || dst.lines != a.lines) 7 1,
    need (decide ((s.casement k.d).nlt ≤ k.sc k.w.srcb)) 0x0B 3,
    need (s.groupBad k.d (fld k.imm 11 0)) 0x0E 5 ]

/-- ARED's course. -/
def aredBody (s : State) (k : TC) : TRes :=
  withRanges s k (aredFaults s k) k.tA.lineAll [] [] (fun s =>
    .ok ⟨s.contributeShard k, k.tA.pane, [], [], .ared, false, none⟩)

/-- ARED (R280). -/
def execAred (d : Fin 4) (t : Fin 4096) (w : IFields) (ups : List Upset) (s : State) : Host.Outcome State Fault Refusal :=
  .next (issue d t 0x3A w ups aredBody s)

/-! ### Frames of a reduction -/

/-- Take the first frame of this kind from port p's inbox, for the LIVE casement it names. -/
def State.onLive (s : State) (p : Nat) (f : FBody → Bool) (go : State → Nat → Frame → State) : State :=
  s.withFrame p f (fun s fr => match s.fabOf fr.ctag with
    | some d => if s.fabState d = 1 then go s d fr else s
    | none => s)

/-- R354 step 2 at the reducer: the request is registered, and granted when it may be. -/
def State.preq (s : State) (p : Nat) : State :=
  s.onLive p isPreq (fun s d fr =>
    match fr.body with
    | .preq id g gi shard piece e _ ret _ =>
      let pk := s.groupPkgs d g
      let n := pk.length
      let seg := pk.idxOf s.pkgId
      if s.groupBad d g || nth pk gi s.pkgId != fr.src || decide (n ≤ gi) ||
          decide ((segPieces (ceilDiv e 8) n seg).length ≤ piece) then s
      else if s.fits d g shard seg piece gi e then
        let s1 := s.joinRed d g shard seg piece n e ⟨gi, fr.src, id, ret, none, false, false, 0, [], []⟩
        match s1.red? d g shard seg piece with
        | some r => s1.tryGrant d r
        | none => s1
      else s.enterHold d 7
    | _ => s)

/-- PREQ (R354, R356). -/
def execPreq (p : Fin 8) (s : State) : Host.Outcome State Fault Refusal := .next (s.preq p)

/-- GRANT_ISSUE (R356): the first waiting request that port p can now grant. -/
def State.grantIssue (s : State) (p : Nat) : State :=
  let all := (List.range 4).flatMap (fun d => ((s.fab d).reds.filter (fun r => r.port == p)).map (fun r => (d, r)))
  match all.find? (fun x => (s.grantable x.2).isSome) with
  | some x => s.tryGrant x.1 x.2
  | none => s

/-- GRANT_ISSUE (R356). -/
def execGrantIssue (p : Fin 8) (s : State) : Host.Outcome State Fault Refusal := .next (s.grantIssue p)

/-- R354 step 4: a granted piece is sent with its digest. -/
def State.granted (s : State) (p : Nat) : State :=
  s.onLive p isGrant (fun s d fr =>
    match fr.body with
    | .grant id h =>
      let f := s.fab d
      match f.reqs.find? (fun r => r.reqid == id && r.tgt == fr.src && r.handle.isNone) with
      | some r =>
        let s1 := s.setFab d { f with reqs := f.reqs.map (fun x => if x.reqid = id then { x with handle := some h } else x) }
        s1.sendData r.tgt (s1.fabTag d) h false r.chunks r.psn
      | none => s
    | _ => s)

/-- GRANT (R354). -/
def execGrant (p : Fin 8) (s : State) : Host.Outcome State Fault Refusal := .next (s.granted p)

/-- Chunks of a frame placed at their offset behind what has been received. -/
def putChunks (old new : List Nat) (off : Nat) : List Nat := old.take off ++ new
def putPsn (old : List Nat) (mask n off : Nat) : List Nat :=
  old.filter (fun i => decide (i < off)) ++ ((List.range n).filter (fun i => bit mask i)).map (off + ·)

/-- R354 step 4 at the reducer: chunks of a granted piece. -/
def State.pieceIn (s : State) (p : Nat) : State :=
  s.onLive p isPiece (fun s d fr =>
    match fr.body with
    | .piece h off _ cs =>
      let f := s.fab d
      s.setFab d { f with reds := f.reds.map (fun r => { r with mems := r.mems.map (fun m =>
        if m.handle = some h ∧ m.pkg = fr.src ∧ m.folded = false then
          { m with chunks := putChunks m.chunks cs off, psn := putPsn m.psn fr.psn cs.length off }
        else m) }) }
    | _ => s)

/-- PIECE (R354). -/
def execPiece (p : Fin 8) (s : State) : Host.Outcome State Fault Refusal := .next (s.pieceIn p)

/-- R354 step 6 at a member: chunks of a result. -/
def State.deliverIn (s : State) (p : Nat) : State :=
  s.onLive p isDeliver (fun s d fr =>
    match fr.body with
    | .deliver h off _ cs =>
      let f := s.fab d
      s.setFab d { f with rets := f.rets.map (fun r =>
        if r.ret = h ∧ r.from_ = fr.src then { r with chunks := putChunks r.chunks cs off, psn := putPsn r.psn fr.psn cs.length off }
        else r) }
    | _ => s)

/-- DELIVER (R354). -/
def execDeliver (p : Fin 8) (s : State) : Host.Outcome State Fault Refusal := .next (s.deliverIn p)

/-- R357: a digest that fails at port p: counted; the third one of a piece holds the casement, the others ask again. -/
def State.digestBad (s : State) (p d h dest tries : Nat) : State :=
  let s1 := (s.count (rPort p 0xC) 31 16 1).post { kind := 2, det := 0x0A, unit := p, ctag := s.tagOf d }
  if 3 ≤ tries + 1 then s1.enterHold d 6 else (s1.sendTo dest (s1.fabTag d) 0 (.ack h true)).1

/-- R354 step 5: a contribution's digest at the reducer. -/
def State.digestPiece (s : State) (p d h crc addBad : Nat) (r : FRed) (m : FMem) : State :=
  if m.chunks.length = r.count ∧ pieceDigest m.chunks = crc then
    match s.fold d r m.gi addBad m.chunks m.psn with
    | (s1, true) => (s1.sendTo m.pkg (s1.fabTag d) 0 (.ack h false)).1
    | (s1, false) => s1
  else
    (s.updRed d r { r with mems := r.mems.map (fun x =>
      if x.gi = m.gi then { x with tries := x.tries + 1, chunks := [], psn := [] } else x) }).digestBad p d h m.pkg m.tries

/-- R354 step 6: a result's digest at a member. -/
def State.digestResult (s : State) (p d crc : Nat) (x : FRet) : State :=
  let f := s.fab d
  if x.chunks.length = x.count ∧ pieceDigest x.chunks = crc then
    let s1 := s.setFab d { f with rets := f.rets.erase x }
    let s2 := s1.pieceHome d x.gidx x.shard x.first x.chunks x.psn
    (s2.sendTo x.from_ (s2.fabTag d) 0 (.ack x.ret false)).1
  else
    (s.setFab d { f with rets := f.rets.map (fun y =>
      if y.ret = x.ret then { y with tries := y.tries + 1, chunks := [], psn := [] } else y) }).digestBad p d x.ret x.from_ x.tries

/-- R357: the first DIGEST at port p. -/
def State.digestIn (s : State) (p addBad : Nat) : State :=
  s.onLive p isDigest (fun s d fr =>
    match fr.body with
    | .digest h crc =>
      let hit := (s.fab d).reds.findSome? (fun r =>
        (r.mems.find? (fun m => m.handle == some h && m.pkg == fr.src && !m.folded)).map (fun m => (r, m)))
      match hit with
      | some x => s.digestPiece p d h crc addBad x.1 x.2
      | none =>
        match (s.fab d).rets.find? (fun x => x.ret == h && x.from_ == fr.src) with
        | some x => s.digestResult p d crc x
        | none => s
    | _ => s)

/-- DIGEST (R357, R368). -/
def execDigest (p : Fin 8) (addBad : Nat) (s : State) : Host.Outcome State Fault Refusal := .next (s.digestIn p addBad)

/-- R354, R357: an ACK of a piece frees it, a NAK sends it again; likewise for a result. -/
def State.ackIn (s : State) (p : Nat) : State :=
  s.onLive p isAck (fun s d fr =>
    match fr.body with
    | .ack h nak =>
      let f := s.fab d
      match f.reqs.find? (fun r => r.handle == some h && r.tgt == fr.src) with
      | some r =>
        if nak then s.sendData r.tgt (s.fabTag d) h false r.chunks r.psn
        else s.setFab d { f with reqs := f.reqs.erase r }
      | none =>
        let hit := f.reds.findSome? (fun r =>
          (r.mems.find? (fun m => r.sent && m.ret == h && m.pkg == fr.src && !m.acked)).map (fun m => (r, m)))
        match hit with
        | some (r, m) =>
          if nak then
            match r.nodes with
            | [x] => s.sendData m.pkg (s.fabTag d) h true x.chunks x.psn
            | _ => s
          else
            let r' := { r with mems := r.mems.map (fun y => if y.gi = m.gi then { y with acked := true } else y) }
            if r'.mems.all (·.acked) then s.dropRed d r else s.updRed d r r'
        | none => s
    | _ => s)

/-- ACK (R354, R357). -/
def execAck (p : Fin 8) (s : State) : Host.Outcome State Fault Refusal := .next (s.ackIn p)

/-- A request of casement d that still waits for its GRANT fails (R343, R344, R359). -/
def State.requestFails (s : State) (d id : Nat) : State :=
  if (s.fab d).reqs.any (fun r => r.reqid == id && r.handle.isNone) then s.enterHold d 2 else s

/-- ERR (R343). -/
def execErr (p : Fin 8) (s : State) : Host.Outcome State Fault Refusal :=
  .next (s.onLive p isErr (fun s d fr =>
    match fr.body with
    | .err id _ => s.requestFails d id
    | _ => s))

/-- REQUEST_TIMEOUT (R344). -/
def execRequestTimeout (d : Fin 4) (reqid : Nat) (s : State) : Host.Outcome State Fault Refusal :=
  .next (if s.fabState d = 1 then s.requestFails d reqid else s)

/-! ### Epochs and HOLD (R352, R359) -/

/-- The name of a piece under reduction as one number. -/
def FRed.key (r : FRed) : Nat := ((r.gidx * 2 ^ 32 + r.shard) * 2 ^ 12 + r.seg) * 2 ^ 32 + r.piece

/-- What a token that arrives now waits for: pieces of this member not acknowledged, pieces granted and not folded, results
sent and not acknowledged, pieces that the ports hold folded (R352). -/
def Fab.outstanding (f : Fab) : List (Nat × Nat) :=
  f.reqs.map (fun r => (0, r.reqid)) ++
  f.reds.flatMap (fun r => r.mems.filterMap (fun m => if m.folded then none else m.handle.map (fun h => (1, h)))) ++
  f.reds.flatMap (fun r => r.mems.filterMap (fun m => if r.sent && !m.acked then some (2, m.pkg * 2 ^ 16 + m.ret) else none)) ++
  f.reds.filterMap (fun r => if r.nodes.isEmpty then none else some (3, r.key))

/-- TOKEN (R352): the member's token slot takes it. -/
def execToken (p : Fin 8) (s : State) : Host.Outcome State Fault Refusal :=
  .next (s.onLive p isToken (fun s d fr =>
    match fr.body with
    | .token e =>
      let f := s.fab d
      s.setFab d { f with tokHeld := some e, tokWait := f.outstanding }
    | _ => s))

/-- R352: a drained token sets the epoch; it goes on, or completes the master's TOKEN. The tile whose TOKEN it was. -/
def State.tokenForward (s : State) (d : Nat) : State × Option (Nat × Nat) :=
  let f := s.fab d
  match f.tokHeld with
  | none => (s, none)
  | some e =>
    if s.fabState d ≠ 1 ∨ f.tokWait.any f.outstanding.contains then (s, none)
    else
      let s1 := ((s.setFab d { f with tokHeld := none, tokWait := [], tokOut := none }).setReg (rFab d 0x10) (BitVec.ofNat 32 e)).ripen d
      match f.tokOut with
      | some o => (s1, some o)
      | none => ((s1.sendTo (s1.successor d) (s1.fabTag d) 0 (.token e)).1, none)

/-- HOLD (R359): a HOLD frame of the casement. -/
def execHold (p : Fin 8) (s : State) : Host.Outcome State Fault Refusal :=
  .next (s.onLive p isHold (fun s d _ => s.enterHold d 3))

end Sys2Proof.Machine
end

