-- ==== Sys2Proof/Machine/Product.lean ====
section
/-! DEFINITION. The arithmetic of a matrix product on lists of values (03_product_arithmetic.md R68 to R80; R127, R129, R134):
block terms, group values, accumulation, the checksum's comparison (R190, R191), the outlier side sum, the low-rank term and
the patch error. -/

namespace Sys2Proof.Machine

/-! ### Blocks -/

/-- What the U4 rule needs of a block (R71). -/
structure U4Blk where
  s : Dy
  codes : List Nat
  sumq : Nat
  z : Nat
  bias : Dy
  deriving DecidableEq, Repr

/-- A block as it enters a cell: its element values, and its stored fields when R71 applies. -/
structure MBlk where
  vals : List XV
  u4 : Option U4Blk
  deriving DecidableEq, Repr

/-- R70, R72: the value of element q as the cell takes it, the coarse scale left to the final factor. -/
def cellVal (t : TVal) (l : Line) (q : Nat) : XV :=
  lineElem t.fmt (if t.cs = 0 ∨ cs16IsNaN t.cs = true ∨ t.fmt = .u4 then t.cs else 0x7F00) l q

/-- R71: the U4 fields of block b, none when a special makes every element special. -/
def u4Of (t : TVal) (l : Line) (b : Nat) (codes : List Nat) : Option U4Blk :=
  let fs := nth l.fine b 0
  let bias := ffBF16.dec l.bias
  if t.fmt = .u4 ∧ cs16IsNaN t.cs = false ∧ fs ≠ 0xFF ∧ bias.isFin = true then
    let w := nth l.side b 0
    some ⟨if t.cs = 0 ∨ fs = 0 then Dy.zero else (cs16Val t.cs).mul (ue5m3Val fs), codes, fld w 7 0, fld w 11 8, bias.toDy⟩
  else none

/-- The blocks of a line; full: element values complete with coarse scale and outliers (R128). -/
def mblks (t : TVal) (full : Bool) (l : Line) : List MBlk :=
  (chunks 16 (t.len + 1) (List.range t.len)).mapIdx (fun b qs =>
    if full then ⟨qs.map (lineVal t.fmt t.cs l), none⟩
    else ⟨qs.map (cellVal t l), u4Of t l b (qs.map (fun q => nth l.codes q 0))⟩)

/-- The AF32 overflow threshold 2^128 - 2^103. -/
def ovfAt : Dy := ⟨((2 ^ 25 - 1 : Nat) : Int), 103⟩

/-- R72: an overflowing product becomes an infinity. -/
def overflowed (v : XV) : XV :=
  match v with
  | .fin d => if ovfAt.le d.abs then .inf (decide (d.m < 0)) else v
  | v => v

/-- R71: the block term of two U4 blocks. -/
def u4Term (a w : U4Blk) : Dy :=
  let n : Int := (a.codes.length : Int)
  let p : Int := (((a.codes.zip w.codes).map (fun x => x.1 * x.2)).foldl (· + ·) 0 : Nat)
  let sa : Int := a.sumq
  let sw : Int := w.sumq
  let za : Int := a.z
  let zw : Int := w.z
  let d := p - zw * sa - za * sw + n * za * zw
  Dy.sum [(a.s.mul w.s).mul (Dy.ofInt d), (a.bias.mul w.s).mul (Dy.ofInt (sw - n * zw)),
    (w.bias.mul a.s).mul (Dy.ofInt (sa - n * za)), (a.bias.mul w.bias).mul (Dy.ofInt n)]

/-- R68 to R72, R80: the block term. -/
def blockTerm (a w : MBlk) : XV :=
  match a.u4, w.u4 with
  | some x, some y => .fin (u4Term x y)
  | _, _ => XV.sum ((a.vals.zip w.vals).map (fun p => overflowed (p.1.mul p.2)))

/-! ### Groups (R74, R76) -/

/-- R74: the top bit position of a group's terms, none when all are zero. -/
def topOf (ts : List Dy) : Option Int :=
  ts.foldl (fun a d => if d.isZero then a else match a with
    | none => some d.top
    | some m => some (max m d.top)) none

/-- |t| cut to units of 2^e: the integer, and whether bits were discarded. -/
def cutAt (t : Dy) (e : Int) : Nat × Bool :=
  if e ≤ t.e then (t.m.natAbs * 2 ^ (t.e - e).toNat, false)
  else (t.m.natAbs / 2 ^ (e - t.e).toNat, t.m.natAbs % 2 ^ (e - t.e).toNat != 0)

/-- R74: the value of finite terms in the 64-bit window with jamming. -/
def alignSum (ts : List Dy) : Dy :=
  match topOf ts with
  | none => Dy.zero
  | some top =>
    let e := top - 58
    let ks := ts.map (fun t => (decide (t.m < 0), cutAt t e))
    let g : Int := ks.foldl (fun g k => if k.1 then g - (k.2.1 : Int) else g + (k.2.1 : Int)) 0
    let sticky := ks.any (fun k => k.2.2)
    if g = 0 then Dy.zero
    else
      let mag := if sticky && g.natAbs % 2 == 0 then g.natAbs + 1 else g.natAbs
      ⟨if g < 0 then -(mag : Int) else (mag : Int), e⟩

/-- R74, R80: the group value. -/
def groupVal (ts : List XV) : XV :=
  if ts.all XV.isFin then .fin (alignSum (ts.map XV.dy)) else XV.sum ts

/-- The block terms of an element, group by group. -/
def groupTerms (a w : List MBlk) : List (List XV) :=
  let ts := (a.zip w).map (fun p => blockTerm p.1 p.2)
  chunks 16 (ts.length + 1) ts

/-- An exact value as a floating one (zero is +0, R79). -/
def XV.toFV (v : XV) : FV :=
  match v with
  | .fin d => .fin (decide (d.m < 0)) d.m.natAbs d.e
  | .inf s => .inf s
  | .nan => .nan

/-- R76: the AF32 partial of group values in ascending order. -/
def accum (vs : List XV) : Nat := vs.foldl (fun a v => ffAF32.enc ((afv a).add v.toFV)) 0

/-! ### Final factor and side terms (R78, R127, R129) -/

/-- R70 to R72: a tensor's part of F. -/
def TVal.factor (t : TVal) : Dy :=
  if t.fmt.hasRecord && t.fmt != .u4 && !cs16IsNaN t.cs then cs16Val t.cs else ⟨1, 0⟩

/-- root * F, rounded (R78 step 1). -/
def timesF (root : Nat) (f : Dy) : Nat := ffAF32.enc ((afv root).mul (XV.fin f).toFV)

/-- R127: the outlier side sum O_i of one output element. DEDUCED (log 24): R127 sends the specials of A * W to R80 step 1,
so that step's overflow clause takes a product of full values of 2^128 - 2^103 or more to an infinity here too. -/
def sideSum (ta tw : TVal) (a w : Line) : XV :=
  let at_ := a.outs.map (·.1)
  let ps := at_ ++ (w.outs.map (·.1)).filter (fun p => !at_.contains p)
  XV.sum (ps.map (fun q =>
    (overflowed ((lineVal ta.fmt ta.cs a q).mul (lineVal tw.fmt tw.cs w q))).add
      ((lineElem ta.fmt ta.cs a q).mul (lineElem tw.fmt tw.cs w q)).neg))

/-- The exact sum of products of two lists of values (R84, R134, R190). -/
def dot (a w : List XV) : XV := XV.sum ((a.zip w).map (fun p => p.1.mul p.2))

/-- R129: the low-rank sum: products under R80 step 1, its overflow clause included, then their exact sum under step 2. -/
def lowDot (p v : List XV) : XV := XV.sum ((p.zip v).map (fun x => overflowed (x.1.mul x.2)))

/-- The full values of a line (R49, R50, R62). -/
def fullVals (t : TVal) (l : Line) : List XV := (List.range t.len).map (lineVal t.fmt t.cs l)

/-! ### The checksum (R190, R191) -/

/-- R190: the checksum weights of one block-row: sums over the columns, truncated and jammed for 16-bit formats. -/
def checkWeights (wide : Bool) (cols : List MBlk) : List XV :=
  let n := ((cols.map (fun c => c.vals.length)).foldl max 0)
  (List.range n).map (fun i =>
    let vs := cols.map (fun c => nth c.vals i (.fin Dy.zero))
    if wide then groupVal vs else XV.sum vs)

/-- R191: whether a group passes when d is added to its column sum: a: the activation blocks of the group, cols: the same
blocks of each column. -/
def checkPasses (wide : Bool) (a : List MBlk) (cols : List (List MBlk)) (d : Dy) : Bool :=
  let tss := cols.map (fun w => (a.zip w).map (fun p => blockTerm p.1 p.2))
  let vs := tss.map groupVal
  let sum := (Dy.sum (vs.map XV.dy)).add d
  let chk :=
    if wide then
      Dy.sum ((a.mapIdx (fun b x => (dot x.vals (checkWeights true (cols.map (fun w => nth w b ⟨[], none⟩)))).dy)))
    else Dy.sum (tss.map (fun ts => Dy.sum (ts.map XV.dy)))
  let tau := (Dy.sum (tss.map (fun ts => match topOf (ts.map XV.dy) with
    | some t => Dy.mk 1 (t - 58)
    | none => Dy.zero))).mul (Dy.ofNat 17)
  let mu := if wide then
      Dy.sum (a.mapIdx (fun b x => Dy.sum (x.vals.mapIdx (fun i v =>
        (v.dy.abs).mul (Dy.maxAbs (cols.map (fun w => (nth (nth w b ⟨[], none⟩).vals i (.fin Dy.zero)).dy)))))))
    else Dy.zero
  ((chk.sub sum).abs).le (tau.add (mu.scale (-52)))

/-! ### The peephole's figure (R134) -/

/-- The clamp 2^16 - 2^-32 in units of 2^-32. -/
def rhoClamp : Nat := 2 ^ 48 - 1

/-- num / den in units of 2^-32, rounded down and clamped. -/
def ratio32 (num den : Dy) : Nat :=
  let r := num.ratio den
  min rhoClamp (r.1 * 2 ^ 32 / r.2)

/-- R134: the patch error in units of 2^-32 of contributions v and references r (AF32 codes); none when it is not measured. -/
def patchRho (vr : List (Nat × Nat)) : Option Nat :=
  if vr.any (fun p => !(afv p.2).isFin) then none
  else if vr.any (fun p => !(afv p.1).isFin) then some rhoClamp
  else
    let sq := fun (d : Dy) => d.mul d
    let e := Dy.sum (vr.map (fun p => sq ((afv p.1).toDy.sub (afv p.2).toDy)))
    let r := Dy.sum (vr.map (fun p => sq (afv p.2).toDy))
    if e.isZero then some 0 else if r.isZero then some rhoClamp else some (ratio32 e r)

end Sys2Proof.Machine
end

