-- ==== Sys2Proof/Machine/Convert.lean ====
section
/-! DEFINITION. QNT and DQT (R89 to R116, R264, R265), ROT (R266) and OUTX (R267). -/

namespace Sys2Proof.Machine

/-! ### Operands -/

def TC.lsel (k : TC) : Nat := fld k.mod 5 3
def TC.layLow (k : TC) : Nat := fld k.imm 11 0
/-- R241: stream and step of the pair named at bit lo of IMM. -/
def TC.stream (k : TC) (lo : Nat) : Nat := k.x.sreg (fld k.imm (lo + 4) lo)
def TC.rstep (k : TC) (lo : Nat) : Nat := k.x.sreg (fld k.imm (lo + 4) lo + 1)
/-- R153, R241: the stream fault. -/
def TC.streamBad (k : TC) (lo : Nat) (reads : Bool) : Option TFault := need (reads && streamReserved (k.stream lo)) 9 7

/-- R240: an address pair. -/
def TC.pairA (k : TC) (b : BitVec 8) : Nat := k.x.pair (opIdx b)
def pairAddr (v : Nat) : Nat := v % 2 ^ 48
def pairSp (v : Nat) : Nat := fld v 49 48
/-- R240: bits [63:50] of an address must be 0. -/
def pairBad (v slot : Nat) : Option TFault := need (fld v 63 50 != 0) 4 slot (v % 2 ^ 50)

/-- Some two of the ranges share a byte. -/
def selfOverlap : List (Nat × Nat) → Bool
  | [] => false
  | r :: l => rangesOverlap [r] l || selfOverlap l

/-! ### History record (R93 to R95) -/

structure Hist where
  fill : Nat
  idx : Nat
  len : Nat
  margin : Nat
  slots : List Nat
  bad : Bool
  deriving DecidableEq, Repr

/-- R93: a history record and its checks. -/
def histOf (b : List Nat) : Hist :=
  let w := fun i => nth b (2 * i) 0 + nth b (2 * i + 1) 0 * 256
  let c := w 0
  let fill := fld c 3 0
  let idx := fld c 6 4
  let len := fld c 9 7 + 1
  let slots := (List.range 8).map (fun j => w (1 + j))
  let valid := (List.range (min fill len)).map (fun j => nth slots ((idx + len * 8 - 1 - j) % len) 0)
  ⟨fill, idx, len, fld c 13 10, valid,
   fld c 15 14 != 0 || (b.drop 18).any (· != 0) || decide (len < fill) || decide (len ≤ idx) || valid.any cs16IsNaN⟩

/-- R94: the coarse scale of stage 5. -/
def coarse5 (f : Fmt) (h : Option Hist) (amax : Dy) : Nat :=
  match h with
  | none => coarse f amax
  | some x =>
    let a := x.slots.foldl max 0
    if a = 0 then coarse f amax else coarse f ((cs16Val a).scale x.margin)

/-- R95: the record after a conversion of maximum amax. -/
def histNext (b : List Nat) (h : Hist) (amax : Dy) : List Nat :=
  let code := if amax.isZero then 0 else let r := amax.frac; ruCS16 r.1 r.2
  let idx := (h.idx + 1) % h.len
  let c := min (h.fill + 1) h.len + idx * 2 ^ 4 + (h.len - 1) * 2 ^ 7 + h.margin * 2 ^ 10
  let b1 := leBytes 2 c ++ b.drop 2
  b1.take (2 + 2 * h.idx) ++ leBytes 2 code ++ b1.drop (4 + 2 * h.idx)

/-! ### QNT -/

def qntSrcOk (t : Tens) : Bool := t.wide
def qntDstOk (t : Tens) : Bool := !(t.is .af32 || t.is .ue5m3 || t.is .cs16)

/-- R119: the level at which a QNT executes. -/
def qntLevel (asked : Nat) (f : Fmt) (outl : Bool) : Nat :=
  if f.laddered then
    let l := if 4 ≤ asked then 3 else asked
    if (l = 2 ∨ l = 3) ∧ outl = false then 1 else l
  else asked

/-- The history record that SRCB names. -/
def TC.histNamed (k : TC) : List Rng :=
  if opNone k.w.srcb then [] else [⟨3, pairSp (k.pairA k.w.srcb), pairAddr (k.pairA k.w.srcb), 32⟩]
/-- The history record's range, when there is one to read (R111). -/
def TC.histRng (k : TC) : List Rng := if k.tDst.fmt.hasRecord then k.histNamed else []
/-- The statistics record's range. -/
def TC.statRng (k : TC) : List Rng := if opNone k.w.srcc then [] else [⟨4, 0, k.sc k.w.srcc, 32⟩]

/-- R90: planes and records overlap, in every format that DST may have. -/
def qntOverlap (k : TC) : Bool :=
  let inP := fun (l : List Rng) => (l.filter (fun r => r.sp == 0)).map (fun r => (r.a, r.n))
  selfOverlap k.tDst.all || rangesOverlap k.tDst.all k.tA.all || rangesOverlap (inP k.histNamed) (k.tDst.all ++ k.tA.all) ||
    rangesOverlap (inP k.statRng) (k.tDst.all ++ k.tA.all ++ inP k.histNamed)

/-- QNT's checks before anything is read. -/
def qntFaults (s : State) (k : TC) : List (Option TFault) :=
  let a := k.tA
  let dst := k.tDst
  let reads := k.rnd || dst.fmt.hasRecord
  [ inPane dst, inPane a, dst.check, a.check,
    need (!qntSrcOk a) 2 2, need (!qntDstOk dst) 2 1,
    s.planeCheck k dst, s.planeCheck k a,
    (if opNone k.w.srcb then none else pairBad (k.pairA k.w.srcb) 3),
    need (!opNone k.w.srcb && k.pairA k.w.srcb % 32 != 0) 3 3 (k.pairA k.w.srcb % 2 ^ 50),
    need (!opNone k.w.srcc && k.sc k.w.srcc % 32 != 0) 3 4 (k.sc k.w.srcc),
    need (qntOverlap k) 5 1,
    need (a.lines != dst.lines || a.len != dst.len) 7 1,
    k.streamBad 12 reads,
    need ((s.layer k.d k.layLow).isNone) 0x0A 5 ]

/-- The bytes of one plane entry list, padded to n entries of w bytes. -/
def padBytes (w n : Nat) (l : List Nat) : List Nat := ((l ++ List.replicate (n - l.length) 0).take n).flatMap (leBytes w)

/-- R61, R125: the 32 slots of panel n. -/
def slotBytes32 (outs : List (Nat × Nat)) (n : Nat) : List Nat :=
  padBytes 4 32 ((outs.filter (fun o => o.1 / 2048 == n)).map (fun o => o.2 + o.1 % 2048 * 2 ^ 16 + 2 ^ 31))

/-- Stage 8: line c's planes. -/
def State.putQLine (s : State) (k : TC) (t : Tens) (c : Nat) (l : Line) : State :=
  let kp := padLen t.len
  let put := fun (s : State) (p : Plane) (b : List Nat) => s.spWrite k.d k.p t.sp (p.base + c * p.stride) (clean b)
  let s1 := put s t.pData (packCodes t.fmt (l.codes ++ List.replicate (kp - l.codes.length) 0))
  let s2 := if t.fmt.hasFine then put s1 t.pFine (padBytes 1 (kp / 16) l.fine) else s1
  let s3 := if t.is .u4 then put (put s2 t.pSum (padBytes 2 (kp / 16) l.side)) t.pBias (leBytes 2 l.bias) else s2
  if t.outl then put s3 t.pOut ((List.range t.panels).flatMap (slotBytes32 l.outs)) else s3

/-- R64: the scale record of a conversion. -/
def recordOf (t : Tens) (v : TVal) (st : QStat) : Nat :=
  v.cs + t.fc * 2 ^ 16 + b2n t.outl * 2 ^ 20 + b2n st.retake * 2 ^ 21 + b2n (st.sate != 0) * 2 ^ 22 + b2n (st.rej != 0) * 2 ^ 23
    + st.miss * 2 ^ 32

/-- R112: a statistics record. -/
def statBytes (st : QStat) (scaled : Bool) (sse ssx : Nat) : List Nat :=
  let z := fun (n : Nat) => if scaled then n else 0
  leBytes 2 st.nblk ++ leBytes 2 (z st.miss) ++ leBytes 2 (z st.under) ++ leBytes 2 (z st.zerob) ++ leBytes 2 (z st.constb) ++
    leBytes 2 (z st.nanb) ++ leBytes 4 (z st.sate) ++ leBytes 4 sse ++ leBytes 4 ssx ++ List.replicate 8 0

/-- R137: a conversion's ratio in units of 2^-32, none when SSX is 0. -/
def qRatio (sse ssx : Nat) : Option Nat :=
  let e := afv sse
  let x := afv ssx
  if x.isZero then none
  else if e.isInf then some rhoClamp
  else if x.isInf then some 0
  else
    let r := e.toDy.ratio x.toDy
    some (min rhoClamp (r.1 * 2 ^ 32 / r.2))

/-- R116, R119, R125, R137: what a QNT leaves in the NUM block. DEDUCED (log 23): R125's "its level is the level in force" is
read as R137's "executes at its layer's level in force", so a QNT that executes below that level sets MISMATCH only: neither
OVF nor the count of rejected candidates takes it. -/
def State.qntCounts (s : State) (k : TC) (n asked lev : Nat) (st : QStat) (sse ssx : Nat) : State :=
  let s1 := if st.retake then s.count (0x0070110 + 4 * k.d) 31 0 1 else s
  let s2 := if st.sate != 0 then s1.count (0x0070120 + 4 * k.d) 31 0 1 else s1
  if k.lsel = 6 then
    if lev = asked then
      let n16 := st.nblk * 16
      let s3 := if (s2.sumOf k.x n).elemsFull n16 st.sate st.rej then s2.raise (rLay n 0xC) 4 else s2
      let s4 := if st.rej != 0 then s3.raise (rLay n 0xC) 3 else s3
      let s5 := s4.contribute k.x n (fun a => { a.addElems n16 st.sate st.rej with ovf := a.ovf || st.rej != 0 })
      match qRatio sse ssx with
      | some v =>
        let s6 := if (s5.sumOf k.x n).mseFull then s5.raise (rLay n 0xC) 4 else s5
        s6.contribute k.x n (LaySum.addMse v)
      | none => s5
    else s2.raise (rLay n 0xC) 0
  else s2

/-- R98: the tensor maximum from the source's range word, when it serves. -/
def State.rangeWord (s : State) (k : TC) (t : Tens) : Option Dy :=
  if t.rwen then
    let w := s.rdNat k 0 t.rword 4
    if bit w 31 && fld w 30 23 != 255 then some (afv (w % 2 ^ 31)).toDy else none
  else none

/-- The settings of a QNT of layer entry n at level lev. DESIGN CHOICE (log 23): the logical K position of a rotation sign
(R122) counts from SRCA's PORG, the coordinate of a random draw (R154) from DST's LORG and PORG. -/
def State.qpar (s : State) (k : TC) (n lev : Nat) : QPar :=
  ⟨k.tDst.fmt, lev, s.rf (rLay n 0) 17 14, s.rf (rLay n 0) 28 25, s.keyOf k.d, (s.reg (rLay n 4)).toNat, (s.reg (rLay n 8)).toNat,
   k.tDst.role, k.rnd, false, k.stream 12, k.rstep 12, k.tDst.lorg, k.tDst.porg, k.tA.porg⟩

/-- How a QNT executes: layer entry, level asked for and level taken, whether SRCA's range word serves (R98, R119). -/
structure QCase where
  n : Nat
  asked : Nat
  lev : Nat
  useRw : Bool
  deriving DecidableEq, Repr

def State.qcase (s : State) (k : TC) : QCase :=
  let n := (s.layer k.d k.layLow).getD 0
  let asked := s.levelOf k.lsel n
  let lev := qntLevel asked k.tDst.fmt k.tDst.outl
  ⟨n, asked, lev, k.tDst.fmt.hasRecord && k.tA.rwen && (!k.tDst.fmt.laddered || lev == 0)⟩

/-- A conversion: the source as prepared, its maximum, the history record's bytes, the result and what was counted. -/
structure QConv where
  src : List QLine
  amax : Dy
  hist : Option (List Nat)
  val : TVal
  st : QStat

/-- The conversion of SRCA (R91 to R113). -/
def State.qconv (s : State) (k : TC) (c : QCase) : QConv :=
  let q := s.qpar k c.n c.lev
  let ls := (s.codes k k.tA).map (fun l => q.prep (l.map (qel k.tA.fmt.ff)))
  let amax := ((if c.useRw then s.rangeWord k k.tA else none).getD (tensorMax ls))
  let hb := (k.histRng.map (fun r => s.rd k r.sp r.a 32)).head?
  let ctl := 0x0070100 + 4 * k.d
  let r := q.run ls (coarse5 k.tDst.fmt (hb.map histOf) amax) amax (s.rf ctl 0 0 == 1) (s.rf ctl 7 4)
  ⟨ls, amax, hb, r.1, r.2⟩

/-- What a conversion writes: the planes and the record of DST, the statistics and history records, the range word, the
status, the counters (R95, R97, R112, R116). -/
def State.qput (s : State) (k : TC) (c : QCase) (x : QConv) : State :=
  let dst := k.tDst
  let sm := sums x.src x.val
  let s1 : State := (x.val.lines.mapIdx (fun c l => (c, l))).foldl (fun (s : State) x => s.putQLine k dst x.1 x.2) s
  let s2 := if dst.fmt.hasRecord then s1.spWrite k.d k.p dst.sp dst.side (clean (leBytes 16 (recordOf dst x.val x.st))) else s1
  let s3 := k.statRng.foldl (fun (s : State) (g : Rng) => s.paneWrite k.p g.a (clean (statBytes x.st dst.fmt.hasRecord sm.1 sm.2))) s2
  let s4 := match x.hist with
    | some b => k.histRng.foldl (fun (s : State) (g : Rng) => s.spWrite k.d k.p g.sp g.a (clean (histNext b (histOf b) x.amax))) s3
    | none => s3
  let vals := (x.val.lines.mapIdx (fun c l => (List.range dst.len).map (fun i =>
    (c * dst.len + i, if dst.fmt.isWide then dst.fmt.ff.dec (nth l.codes i 0) else (lineVal dst.fmt x.val.cs l i).toFV)))).flatten
  let s5 := if dst.fmt.isWide then s4.putRange k dst vals else s4
  (s5.statusOf k.p vals).qntCounts k c.n c.asked c.lev x.st sm.1 sm.2

/-- The history record can be read: a good pair address, inside its space, and no poison. -/
def TC.histLegible (k : TC) (s : State) : Bool :=
  (pairBad (k.pairA k.w.srcb) 3).isNone && (s.rngCheck k false k.histRng).1.isNone && s.sound k k.histRng

/-- R93: the history record's content breaks its rules. -/
def TC.histFault (k : TC) (s : State) : Option TFault :=
  need (k.histLegible s && k.histRng.any (fun r => (histOf (s.rd k r.sp r.a 32)).bad)) 2 3

/-- The ranges that QNT reads and writes. -/
def TC.qntRds (k : TC) (c : QCase) : List Rng :=
  k.tA.lineAll ++ k.histRng ++ (if c.useRw then [⟨2, 0, k.tA.rword, 4⟩] else []) ++ (if k.tDst.fmt.isWide then k.tDst.rwRng else [])
def TC.qntWrs (k : TC) : List Rng :=
  k.tDst.lineAll ++ k.histRng ++ k.statRng ++ (if k.tDst.fmt.isWide then k.tDst.rwRng else [])

/-- QNT's course. -/
def qntBody (s : State) (k : TC) : TRes :=
  let c := s.qcase k
  withStored s k (qntFaults s k) [] k.histRng k.histFault (k.qntRds c) k.qntWrs (k.qntRds c) (fun s =>
    let x := s.qconv k c
    twinned s k (fun s => .ok ⟨s.qput k c x, paneOf (k.qntRds c), paneOf k.qntWrs, [], .plain, false, none⟩))

/-- QNT (R91, R264). -/
def execQnt (d : Fin 4) (t : Fin 4096) (w : IFields) (ups : List Upset) (s : State) : Host.Outcome State Fault Refusal :=
  .next (issue d t 0x18 w ups qntBody s)

/-! ### DQT (R114, R265) -/

/-- The value of an element as DQT converts it: a wide code keeps the sign of its zero. -/
def dqtVal (v : TVal) (l : Line) (q : Nat) : FV :=
  if v.fmt.isWide then v.fmt.ff.dec (nth l.codes q 0) else (lineVal v.fmt v.cs l q).toFV

/-- R112, R114: the blocks of a line: zero, constant, NaN. -/
def dqtBlocks (v : TVal) (l : Line) : List (Bool × Bool × Bool) :=
  (List.range (ceilDiv v.len 16)).map (fun b =>
    if v.fmt.hasFine then
      let con := v.fmt == .u4 && bit (nth l.side b 0) 15
      (nth l.fine b 0 == 0 && !con, con, nth l.fine b 0 == 0xFF)
    else (false, false, (rangeFrom (16 * b) (min 16 (v.len - 16 * b))).any (fun q => !(dqtVal v l q).isFin)))

/-- DQT's statistics record (R112, R114). DESIGN CHOICE (log 23): R114 names the record and its CONST count only; the model
writes NBLK, ZEROB, CONSTB and NANB of the source's blocks, and 0 in MISS, UNDER, SATE, SSE and SSX. -/
def dqtStat (v : TVal) : List Nat :=
  let bs := v.lines.flatMap (dqtBlocks v)
  let n := fun (p : Bool × Bool × Bool → Bool) => (bs.filter p).length
  statBytes ⟨bs.length, 0, 0, n (·.1), n (·.2.1), n (·.2.2), 0, 0, false⟩ true 0 0

/-- DQT's checks. -/
def dqtFaults (s : State) (k : TC) : List (Option TFault) :=
  let a := k.tA
  let dst := k.tDst
  let st := k.statRng.map (fun r => (r.a, r.n))
  [ inPane dst, dst.check, a.check, need (!dst.wide) 2 1,
    s.planeCheck k dst, s.planeCheck k a,
    need (!opNone k.w.srcc && k.sc k.w.srcc % 32 != 0) 3 4 (k.sc k.w.srcc),
    need (dst.overlaps a || rangesOverlap st (dst.all ++ a.pane)) 5 1,
    need (a.lines != dst.lines || a.len != dst.len) 7 1 ]

/-- SRCA and the range word of DST: what conversions, rotations and line reductions read. -/
def TC.unaryRds (k : TC) : List Rng := k.tA.lineAll ++ k.tDst.rwRng
def TC.dqtWrs (k : TC) : List Rng := k.tDst.wrRngs ++ k.statRng

/-- DQT's effect for a source v (R114): the statistics record, then DST. -/
def State.dqtDo (s : State) (k : TC) (v : TVal) : State :=
  let s1 := k.statRng.foldl (fun (s : State) (g : Rng) => s.paneWrite k.p g.a (clean (dqtStat v))) s
  s1.putWide k k.tDst (v.lines.map (fun l => some ((List.range v.len).map (fun q => k.tDst.fmt.ff.enc (dqtVal v l q)))))

/-- DQT's course. -/
def dqtBody (s : State) (k : TC) : TRes :=
  withStored s k (dqtFaults s k) [k.tA] [] (fun _ => none) k.unaryRds k.dqtWrs k.unaryRds (fun s =>
    let v := s.readT k k.tA
    twinned s k (fun s => .ok ⟨s.dqtDo k v, paneOf k.unaryRds, paneOf k.dqtWrs, [], .plain, false, none⟩))

/-- DQT (R114). -/
def execDqt (d : Fin 4) (t : Fin 4096) (w : IFields) (ups : List Upset) (s : State) : Host.Outcome State Fault Refusal :=
  .next (issue d t 0x19 w ups dqtBody s)

/-! ### ROT (R266) -/

/-- The checks of an instruction from one wide Pane tensor to another of its shape, which may coincide. -/
def wideFaults (s : State) (k : TC) (a dst : Tens) : List (Option TFault) :=
  [ inPane dst, inPane a, dst.check, a.check, need (!a.wide) 2 a.slot, need (!dst.wide) 2 1,
    s.planeCheck k dst, s.planeCheck k a,
    need (dst.overlaps a && !dst.coincides a) 5 1,
    need (a.lines != dst.lines || a.len != dst.len) 7 1 ]

/-- R266: one line of values rotated in the windows at logical multiples of n that lie wholly in it; org its logical origin. -/
def rotLine (k : Nat) (inv role : Bool) (key sstr sstp org : Nat) (x : List Nat) : List Nat :=
  let n := 2 ^ k
  let first := roundUp org n - org
  let body := x.drop first
  x.take first ++ ((chunks n (body.length + 1) body).mapIdx (fun w y =>
    if y.length = n then
      let neg := (rangeFrom (org + first + w * n) n).map (fun p => sgnNeg key sstr sstp (p % 2 ^ 32))
      if inv then rotInverse k role neg y else rotForward k role neg y
    else y)).flatten

/-- ROT's result with the settings of layer entry n, line by line. -/
def State.rotLines (s : State) (k : TC) (n : Nat) : List (Option (List Nat)) :=
  (s.codes k k.tA).map (fun l =>
    some ((rotLine (rotExp (s.rf (rLay n 0) 17 14)) (bit k.fmt 0) k.tDst.role (s.keyOf k.d) (s.reg (rLay n 4)).toNat
      (s.reg (rLay n 8)).toNat k.tA.porg (l.map (fun c => ffAF32.enc (k.tA.fmt.ff.dec c)))).map (fun c => k.tDst.fmt.ff.enc (afv c))))

/-- ROT's faults. -/
def rotFaults (s : State) (k : TC) : List (Option TFault) :=
  wideFaults s k k.tA k.tDst ++ [need (s.layer k.d k.layLow).isNone 0x0A 5]

/-- ROT's course. -/
def rotBody (s : State) (k : TC) : TRes :=
  let n := (s.layer k.d k.layLow).getD 0
  withRanges s k (rotFaults s k) k.unaryRds k.tDst.wrRngs k.unaryRds (fun s =>
    let lines := s.rotLines k n
    twinned s k (fun s => .ok ⟨s.putWide k k.tDst lines, paneOf k.unaryRds, paneOf k.tDst.wrRngs, [], .plain, false, none⟩))

/-- ROT (R266). -/
def execRot (d : Fin 4) (t : Fin 4096) (w : IFields) (ups : List Upset) (s : State) : Host.Outcome State Fault Refusal :=
  .next (issue d t 0x1A w ups rotBody s)

/-! ### OUTX (R267) -/

/-- The outlier plane of a tensor, line by line. -/
def Tens.outRngs (t : Tens) : List Rng := (List.range t.lines).map (fun c => ⟨t.slot, t.sp, t.pOut.base + c * t.pOut.stride, t.pOut.bytes⟩)

/-- The bytes of one element of a wide tensor. -/
def Tens.elRng (t : Tens) (c q : Nat) : Rng := ⟨t.slot, t.sp, t.base + c * t.stride + q * (t.fmt.bits / 8), t.fmt.bits / 8⟩

/-- OUTX's checks. -/
def outxFaults (s : State) (k : TC) : List (Option TFault) :=
  let a := k.tA
  let dst := k.tDst
  [ inPane dst, dst.check, a.check, need (!a.outl) 2 2, need (!dst.wide) 2 1,
    s.planeCheck k dst, s.planeCheck k a,
    need (dst.overlaps a) 5 1,
    need (a.lines != dst.lines || a.len != dst.len) 7 1 ]

/-- FMT 1: each slotted element takes its value plus VAL; the others are left. -/
def State.outxAdd (s : State) (k : TC) (dst : Tens) (slots : List (Nat × Nat × Nat)) : State :=
  let news := slots.map (fun x =>
    let r := dst.elRng x.1 x.2.1
    let d := dst.fmt.ff.dec (s.rdNat k r.sp r.a r.n)
    (x.1, x.2.1, dst.fmt.ff.enc (d.add (ffBF16.dec x.2.2))))
  let s1 := news.foldl (fun s x => let r := dst.elRng x.1 x.2.1; s.paneWrite k.p r.a (clean (leBytes r.n x.2.2))) s
  let v := news.map (fun x => (x.1 * dst.len + x.2.1, dst.fmt.ff.dec x.2.2))
  (s1.statusOf k.p v).putRange k dst v

/-- The outliers of SRCA: line by line as (position, value), and in one list as (line, position, value). -/
def State.outsOf (s : State) (k : TC) : List (List (Nat × Nat)) := (List.range k.tA.lines).map (fun c => (s.readLine k k.tA c).outs)
def State.outSlotsOf (s : State) (k : TC) : List (Nat × Nat × Nat) :=
  ((s.outsOf k).mapIdx (fun c l => l.map (fun o => (c, o.1, o.2)))).flatten

/-- The record that OUTX checks (R65): SRCA's scale record. -/
def TC.outxRec (k : TC) : List Rng := if k.tA.fmt.hasRecord then [⟨2, k.tA.sp, k.tA.side, 16⟩] else []

/-- The ranges that OUTX reads, and those of them whose poison it consumes before it knows the slotted elements. -/
def TC.outxRds (k : TC) : List Rng := k.tA.outRngs ++ k.outxRec ++ (if bit k.fmt 0 then k.tDst.lineAll else []) ++ k.tDst.rwRng
def TC.outxEats (k : TC) : List Rng := k.tA.outRngs ++ k.outxRec ++ k.tDst.rwRng

/-- What OUTX's checks of memory read, when SRCA's descriptor and planes are good. -/
def TC.outRecs (k : TC) (s : State) : List Rng := if s.holds k k.tA then k.outxRec ++ k.tA.outRngs else []

/-- R63, R65: what OUTX finds wrong with SRCA's scale record and outlier records; it reads no sideband word. -/
def TC.outxHeld (k : TC) (s : State) : Option TFault :=
  if s.holds k k.tA then lowest [need (s.recordBad k k.tA) 2 2, need (s.outBad k k.tA) 8 2] else none

/-- FMT 0: the outliers' values at their positions, zeros elsewhere. -/
def State.outxLines (s : State) (k : TC) : List (Option (List Nat)) :=
  (s.outsOf k).map (fun l => some ((List.range k.tDst.len).map (fun q => match l.find? (fun o => o.1 == q) with
    | some o => k.tDst.fmt.ff.enc (ffBF16.dec o.2)
    | none => 0)))

/-- The slotted elements of DST that FMT 1 reads. -/
def State.outxEls (s : State) (k : TC) : List Rng :=
  if bit k.fmt 0 then (s.outSlotsOf k).map (fun x => { k.tDst.elRng x.1 x.2.1 with slot := 1 }) else []

/-- OUTX's effect. -/
def State.outxDo (s : State) (k : TC) : State :=
  if bit k.fmt 0 then s.outxAdd k k.tDst (s.outSlotsOf k) else s.putWide k k.tDst (s.outxLines k)

/-- OUTX's course. -/
def outxBody (s : State) (k : TC) : TRes :=
  withStored s k (outxFaults s k) [] (k.outRecs s) k.outxHeld k.outxRds k.tDst.wrRngs k.outxEats (fun s =>
    match s.rngPoison k (s.outxEls k) with
    | some f => .fault s f
    | none => .ok ⟨s.outxDo k, paneOf k.outxRds, paneOf k.tDst.wrRngs, [], .plain, false, none⟩)

/-- OUTX (R267). -/
def execOutx (d : Fin 4) (t : Fin 4096) (w : IFields) (s : State) : Host.Outcome State Fault Refusal :=
  .next (issue d t 0x1B w [] outxBody s)

end Sys2Proof.Machine
end

