-- ==== Sys2Proof/Machine/Matrix.lean ====
section
/-! DEFINITION. MMQ, MMW and LRC (R117 to R119, R127 to R136, R190 to R196, R258 to R263). -/

namespace Sys2Proof.Machine

/-! ### Operands in IMM -/

def TC.layIdx (k : TC) : Nat := fld k.imm 15 4
def TC.gtot (k : TC) : Nat := fld k.imm 56 41
def TC.lrv (k : TC) : Bool := bit k.imm 40
def TC.chk (k : TC) : Bool := bit k.mod 2
def TC.acc (k : TC) : Bool := bit k.fmt 0
def TC.tImm (k : TC) (hi lo : Nat) : Tens := tens (k.x.td (fld k.imm hi lo)) 7
def TC.tWA (k : TC) : Tens := k.tImm 21 16
def TC.tWW (k : TC) : Tens := k.tImm 27 22
def TC.tLP (k : TC) : Tens := k.tImm 33 28
def TC.tLV (k : TC) : Tens := k.tImm 39 34

/-! ### Levels (R118, R119) -/

/-- The level at which an MMQ executes: asked is its ladder value's. -/
def mmqLevel (asked : Nat) (laddered lrv split : Bool) : Nat :=
  let l := if laddered && decide (4 ≤ asked) then 3 else asked
  if l = 3 ∧ lrv = false ∧ split = false then 2 else l

/-- R119: MISMATCH of layer entry n, unless the level was named. -/
def State.mismatch (s : State) (lsel n : Nat) (below : Bool) : State :=
  if lsel = 6 ∧ below then s.raise (rLay n 0xC) 0 else s

/-! ### Shape (R225, R259) -/

/-- R225, R259: the split rule. -/
def splitBad (a dst : Tens) (gtot : Nat) : Bool :=
  let i := dst.split
  let n := dst.scnt
  if gtot = 0 then n != 1
  else
    a.porg != 256 * (i * gtot / n) || ceilDiv (a.porg + a.len) 256 != (i + 1) * gtot / n ||
      (decide (i + 1 < n) && a.len % 256 != 0)

/-- R67: the format pairs of MMQ. -/
def mmqPair (a w : Tens) : Bool :=
  let four := fun (t : Tens) => t.is .e2m1 || t.is .s4
  let eight := fun (t : Tens) => t.is .e4m3 || t.is .e5m2
  (four a && four w) || (a.is .u4 && w.is .u4) || (a.is .s8 && w.is .s8) || (eight a && eight w)

/-- R67: the format pairs of MMW. -/
def mmwPair (a w : Tens) : Bool := (a.is .bf16 || a.is .f16) && (w.is .bf16 || w.is .f16)

/-- The row mask of SRCC (R196): its Pane range. -/
def TC.maskRng (k : TC) : List Rng := if opNone k.w.srcc then [] else [⟨4, 0, k.sc k.w.srcc, ceilDiv k.tA.lines 8⟩]

/-- R196: row i is masked. -/
def State.masked (s : State) (k : TC) (i : Nat) : Bool :=
  if opNone k.w.srcc then false else bit (nth (s.rd k 0 (k.sc k.w.srcc + i / 8) 1) 0 0) (i % 8)

/-- AF32 outside a Pane (R45). -/
def placeBad (t : Tens) : Option TFault := need (t.is .af32 && t.sp != 0) 6 t.slot

/-- The checks that MMQ, MMW and LRC share: shape of the product's operands. -/
def prodShape (a w dst : Tens) (gtot dlen : Nat) : List (Option TFault) :=
  [ need (a.len != w.len || a.porg != w.porg) 7 3,
    need (dst.lines != a.lines || dst.len != dlen) 7 1,
    need (splitBad a dst gtot) 7 1 ]

/-! ### What a product computes -/

/-- One output element before it is written: the contribution v that the peephole compares, the split partial p, the side
sum o, and in plumb mode the exact sum. -/
structure Contr where
  v : Nat
  p : Nat
  o : Nat
  ex : Option XV
  deriving DecidableEq, Repr

/-- A product's settings: complete element values (LRC), outlier records present, split, plumb mode, the low-rank values of P
and V line by line when the term is added. -/
structure Prod where
  a : TVal
  w : TVal
  full : Bool
  outl : Bool
  split : Bool
  plumb : Bool
  low : Option (List (List XV) × List (List XV))
  deriving DecidableEq, Repr

/-- An error added to a group value (R191): row, column, group, amount. -/
structure Bump where
  row : Nat
  col : Nat
  grp : Nat
  amt : Dy
  deriving DecidableEq, Repr

def lineAt (t : TVal) (c : Nat) : Line := nth t.lines c ⟨[], [], [], 0, []⟩

/-- The group values of output (i, j), errors included. -/
def Prod.groups (q : Prod) (bumps : List Bump) (i j : Nat) : List XV :=
  let ts := groupTerms (mblks q.a q.full (lineAt q.a i)) (mblks q.w q.full (lineAt q.w j))
  ts.mapIdx (fun g t => bumps.foldl (fun v b =>
    if b.row = i ∧ b.col = j ∧ b.grp = g then v.add (.fin b.amt) else v) (groupVal t))

/-- R76, R78, R84, R127, R129, R130, R260: output (i, j) before the addend. -/
def Prod.contr (q : Prod) (bumps : List Bump) (i j : Nat) : Contr :=
  let low := match q.low with
    | some (p, v) => lowDot (nth p i []) (nth v j [])
    | none => .fin Dy.zero
  if q.plumb then
    let e := (dot (fullVals q.a (lineAt q.a i)) (fullVals q.w (lineAt q.w j))).add low
    ⟨ffAF32.encX e, ffAF32.encX e, 0, some e⟩
  else
    let f := if q.full then ⟨1, 0⟩ else q.a.factor.mul q.w.factor
    let p := timesF (accum (q.groups bumps i j)) f
    let o := if q.outl then ffAF32.encX (sideSum q.a q.w (lineAt q.a i) (lineAt q.w j)) else 0
    let v := if q.outl then afAdd p o else p
    ⟨if q.low.isSome then afAdd v (ffAF32.encX low) else v, p, o, none⟩

/-! ### The checksum column (R190 to R194) -/

/-- The rows that array arr takes of each band of 64, for m rows (R187). -/
def arrayRows (arr m : Nat) : List (List Nat) :=
  (List.range (ceilDiv m 64)).map (fun band => (rangeFrom (64 * band + 16 * arr) 16).filter (fun i => decide (i < m)))

/-- A group of one row and one block of 16 columns. -/
structure Unit3 where
  row : Nat
  cb : Nat
  grp : Nat
  deriving DecidableEq, Repr

/-- The blocks of group g of a line. -/
def grpBlks (bs : List MBlk) (g : Nat) : List MBlk := (bs.drop (16 * g)).take 16

/-- R192: a block term of the group of some column is not finite. -/
def Prod.nonFin (q : Prod) (n : Nat) (u : Unit3) : Bool :=
  let a := grpBlks (mblks q.a q.full (lineAt q.a u.row)) u.grp
  (rangeFrom (16 * u.cb) (min 16 (n - 16 * u.cb))).any (fun j =>
    (a.zip (grpBlks (mblks q.w q.full (lineAt q.w j)) u.grp)).any (fun p => !(blockTerm p.1 p.2).isFin))

/-- Every group of an array in the order in which it takes them. -/
def units (arr m n g : Nat) : List Unit3 :=
  (arrayRows arr m).flatMap (fun rows => (List.range (ceilDiv n 16)).flatMap (fun cb =>
    (List.range g).flatMap (fun gi => rows.map (fun r => ⟨r, cb, gi⟩))))

/-- A mismatch of array arr in the output tile of its 16 rows and 16 columns (R187), with how many computations of the tile
mismatch and whether an injection made it. -/
structure Miss where
  arr : Nat
  rows : Nat
  cols : Nat
  tries : Nat
  inj : Bool
  deriving DecidableEq, Repr

/-- What an upset of an array does: nothing, an error that passes, or a mismatch of so many computations. -/
inductive Hit where
  | none
  | pass (b : Bump)
  | miss (m : Miss)
  deriving DecidableEq, Repr

/-- R191: an upset of array arr: its nth compared group, column col, 2^(L - 58 + pos). -/
def Prod.hit (q : Prod) (wide : Bool) (m n : Nat) (live : Nat → Bool) (arr col pos n0 tries : Nat) (inj : Bool) : Hit :=
  let us := (units arr m n (ceilDiv q.a.len 256)).filter (fun u => live u.row && !q.nonFin n u)
  match us[n0]? with
  | none => .none
  | some u =>
    let j := 16 * u.cb + col
    if n ≤ j ∨ tries = 0 then .none
    else
      let a := grpBlks (mblks q.a q.full (lineAt q.a u.row)) u.grp
      let cols := (rangeFrom (16 * u.cb) (min 16 (n - 16 * u.cb))).map (fun j => grpBlks (mblks q.w q.full (lineAt q.w j)) u.grp)
      let ts := (a.zip (nth cols col [])).map (fun p => (blockTerm p.1 p.2).dy)
      match topOf ts with
      | none => .none
      | some top =>
        let d : Dy := ⟨1, top - 58 + (pos : Int)⟩
        if checkPasses wide a cols d then .pass ⟨u.row, j, u.grp, d⟩ else .miss ⟨arr, u.row / 16, u.cb, tries, inj⟩

/-- R193: the arrays tried for an output tile after array a: those that have passed, in cyclic order, then the others. -/
def tryOrder (passed : List Nat) (a : Nat) : List Nat :=
  let c := [(a + 1) % 4, (a + 2) % 4, (a + 3) % 4]
  a :: (c.filter passed.contains ++ c.filter (fun x => !passed.contains x)).take 2

/-- The mismatches of one output tile are one recomputation (R193): it takes as many computations as the worst of them. -/
def mergeMiss : List Miss → List Miss
  | [] => []
  | m :: r =>
    let same := r.filter (fun x => x.rows == m.rows && x.cols == m.cols)
    { m with tries := (same.map (·.tries)).foldl max m.tries, inj := m.inj || same.any (·.inj) } ::
      (mergeMiss r).filter (fun x => !(x.rows == m.rows && x.cols == m.cols))

/-- R193: the counts of one output tile's mismatch: corrected, the array that passed the recomputation joining those that have
passed, or failed for good, with the failing arrays. -/
def State.checkMiss (s : State) (k : TC) (m : Miss) : State × List Nat :=
  let order := tryOrder (s.tile k.p).passed m.arr
  let bad := order.take (min 3 m.tries)
  let s1 := bad.foldl (fun s a => s.count (rTil k.p 0x1C) (8 * a + 7) (8 * a) 1) s
  let e : Ev := { kind := 2, det := 1, unit := k.p, ctag := s.tagOf k.d, inj := m.inj }
  let s2 := if m.tries < 3 then s1.post e else s1.postFailing k.p e
  let x := s2.tile k.p
  if m.tries < 3 then
    ((s2.count (rTil k.p 0x14) 15 0 1).setTile k.p { x with passed := NSet.insertAll x.passed ((order.drop m.tries).take 1) }, [])
  else ((s2.count (rTil k.p 0x14) 31 16 1).setTile k.p { x with failing := true }, bad)

/-- The comparisons of one instruction: every array with rows ramps up (R198); skipped groups are counted (R192); upsets and
an armed injection strike, and either every output tile is right in the end, with the errors that pass outside the tiles
that were recomputed (R82), or the array-check fault names the failing arrays. -/
def State.checksum (s : State) (k : TC) (q : Prod) (wide : Bool) (m n : Nat) (live : Nat → Bool) :
    State × List Bump × List Nat :=
  if q.plumb then (s, [], [])
  else
    let g := ceilDiv q.a.len 256
    let slots := (List.range 4).map (fun arr => (arr, units arr m n g))
    let all := slots.map (fun x => (x.1, x.2.filter (fun u => live u.row)))
    let skip := (all.map (fun x => (x.2.filter (q.nonFin n)).length)).foldl (· + ·) 0
    let s1 := s.count (rTil k.p 0x18) 31 0 skip
    let ran := all.filter (fun x => x.2.any (fun u => !q.nonFin n u))
    let pat := s.injPat
    let injHere := s.injArmed 1 k.p && ran.any (fun x => x.1 == fld pat 13 12)
    let ups := (if injHere then [(true, Upset.array (fld pat 13 12) (fld pat 11 8) (fld pat 5 0) 0 (if s.injPersist then 3 else 1))]
      else []) ++ k.ups.map (fun u => (false, u))
    let s2 := if injHere then s1.injFire else s1
    let hits := ups.map (fun u => match u.2 with
      | .array arr col pos n0 tries => q.hit wide m n live (arr % 4) (col % 16) pos n0 tries u.1
      | .twin _ _ _ | .fold _ _ => Hit.none)
    let misses := mergeMiss (hits.filterMap (fun h => match h with | .miss x => some x | _ => none))
    let bumps := hits.filterMap (fun h => match h with | .pass b => some b | _ => none)
    let kept := bumps.filter (fun b => !misses.any (fun x => x.rows == b.row / 16 && x.cols == b.col / 16))
    let x := s2.tile k.p
    let ramped := (slots.filter (fun a => !a.2.isEmpty)).map (·.1)
    let s3 := s2.setTile k.p { x with
      passed := NSet.insertAll x.passed ((ran.map (·.1)).filter (fun a => !misses.any (fun y => y.arr == a))),
      stopped := x.stopped.filter (fun a => !ramped.contains a) }
    misses.foldl (fun acc m =>
      let r := acc.1.checkMiss k m
      (r.1, acc.2.1, acc.2.2 ++ r.2)) (s3, kept, [])

/-- The failing arrays as a mask (R252). -/
def arrMask (l : List Nat) : Nat := (List.range 4).foldl (fun m a => if l.contains a then m + 2 ^ a else m) 0

/-! ### The peephole (R132 to R136) -/

def rPeep (d : Nat) : Nat := 0x0070200 + 4 * d

/-- R133: patch (P, Q) is sampled. -/
def State.sampled (s : State) (k : TC) (p q : Nat) : Bool :=
  let r := rPeep k.d
  let coord := k.layIdx * 2 ^ 52 + fld k.imm 3 0 * 2 ^ 48 + p % 2 ^ 24 * 2 ^ 24 + q % 2 ^ 24
  s.rf r 0 0 == 1 && rngY0 (s.keyOf k.d) 0xFFFFFFFE (s.numStep k.d) coord % 2 ^ s.rf r 4 1 == 0

/-- A patch of the output: its rows and columns in this tensor. -/
structure Patch where
  rows : List Nat
  cols : List Nat
  deriving DecidableEq, Repr

/-- R133: the sampled patches of an output of m rows and n columns whose logical origin is (lorg, porg). -/
def State.patches (s : State) (k : TC) (dst : Tens) (m n : Nat) : List Patch :=
  let pr := rangeFrom (dst.lorg / 16) ((dst.lorg + m - 1) / 16 + 1 - dst.lorg / 16)
  let pc := rangeFrom (dst.porg / 16) ((dst.porg + n - 1) / 16 + 1 - dst.porg / 16)
  pr.flatMap (fun p => (pc.filter (fun q => s.sampled k p q)).map (fun q =>
    ⟨(List.range m).filter (fun i => (i + dst.lorg) / 16 == p), (List.range n).filter (fun j => (j + dst.porg) / 16 == q)⟩))

/-- The cells of a patch that exist and are not masked. -/
def Patch.cells (x : Patch) (live : Nat → Bool) : List (Nat × Nat) :=
  (x.rows.filter live).flatMap (fun i => x.cols.map (fun j => (i, j)))

/-- R135: one operand's lines of a patch converted for rung r: src the wide source, old the stored operand. DESIGN CHOICE (log
24): the positions of the rotation signs count from the PORG of the wide source's own descriptor. -/
def rungLines (s : State) (k : TC) (n : Nat) (role : Bool) (r : Nat) (src : TVal) (old : TVal) (org : Tens) (ls : List Nat) : TVal :=
  let els := ls.map (fun c => (lineAt src c).codes.map (fun x => qel src.fmt.ff x))
  let par := fun (f : Fmt) => QPar.mk f r (s.rf (rLay n 0) 17 14) (s.rf (rLay n 0) 28 25) (s.keyOf k.d)
    (s.reg (rLay n 4)).toNat (s.reg (rLay n 8)).toNat role false true 0 0 0 0 org.porg
  let run := fun (f : Fmt) (cs : Nat) =>
    let q := par f
    (q.run (els.map q.prep) cs Dy.zero false 0).1
  if r ≤ 3 then run old.fmt old.cs
  else if r = 4 then
    run .e4m3 (coarse .e4m3 (tensorMax (els.map (fun l => ⟨l, none, [], 0⟩))))
  else run .bf16 0

/-- R135: the patch's contributions recomputed at rung r. -/
def rungContr (s : State) (k : TC) (n r : Nat) (q : Prod) (wa ww : TVal) (x : Patch) (i j : Nat) : Nat :=
  let a := rungLines s k n false r wa q.a k.tWA x.rows
  let w := rungLines s k n true r ww q.w k.tWW x.cols
  let low := if r = 3 then q.low.map (fun l => (x.rows.map (fun i => nth l.1 i []), x.cols.map (fun j => nth l.2 j []))) else none
  let q' : Prod := ⟨a, w, false, decide (r = 2 ∨ r = 3) && a.fmt.laddered, q.split, false, low⟩
  (q'.contr [] (x.rows.idxOf i) (x.cols.idxOf j)).v

/-- What the peephole made of one patch: the elements to write, the layer's figures. -/
structure PeepOut where
  cells : List (Nat × Nat × Contr)
  rho : Option Nat
  retook : Bool
  hard : Bool
  deriving DecidableEq, Repr

/-- R134, R135: one sampled patch; lev the level of execution, lowP the low-rank values even when the level does not add
them, add an injected error. -/
def peepPatch (s : State) (k : TC) (n lev : Nat) (q : Prod) (lowAny : Option (List (List XV) × List (List XV)))
    (wa ww : TVal) (x : Patch) (live : Nat → Bool) (out : Nat → Nat → Contr) (add : Option Nat) : PeepOut :=
  let cs := x.cells live
  let bump := fun (c : Contr) => match add with
    | some m => ⟨afAdd c.v m, afAdd c.p m, c.o, c.ex.map (fun e => e.add (afv m).toX)⟩
    | none => c
  let us := cs.map (fun p => (p.1, p.2, bump (out p.1 p.2)))
  let refs := cs.map (fun p => ffAF32.encX (dot (fullVals wa (lineAt wa p.1)) (fullVals ww (lineAt ww p.2))))
  let rho := patchRho ((us.map (fun u => u.2.2.v)).zip refs)
  let hardAt := s.rf (rPeep k.d) 9 5
  let above := fun (r : Option Nat) => match r with | some v => decide (2 ^ 32 < v * 2 ^ hardAt) | none => false
  if above rho && s.rf (rPeep k.d) 10 10 == 1 then
    let again := if lev < 5 then cs.map (fun p => rungContr s k n (lev + 1) { q with low := if q.split then none else lowAny } wa ww x p.1 p.2)
      else []
    if lev < 5 && !above (patchRho (again.zip refs)) then
      ⟨(cs.zip again).map (fun p => (p.1.1, p.1.2, ⟨p.2, p.2, 0, none⟩)), rho, true, false⟩
    else ⟨(cs.zip refs).map (fun p => (p.1.1, p.1.2, ⟨p.2, p.2, 0, none⟩)), rho, true, true⟩
  else ⟨us, rho, false, false⟩

/-- R137: a patch's figure goes to the layer's sums. -/
def State.addPatch (s : State) (x : LTile) (n : Nat) (rho : Option Nat) : State :=
  match rho with
  | none => s.contribute x n (fun a => { a with nfp := a.nfp + 1 })
  | some v =>
    let s1 := if (s.sumOf x n).rhoFull then s.raise (rLay n 0xC) 4 else s
    s1.contribute x n (LaySum.addRho v)

/-- What one patch leaves in the state (R119, R135, R137, R370). -/
def State.peepState (s : State) (k : TC) (n lev : Nat) (p : PeepOut) (inj : Bool) : State :=
  let own := k.lsel == 6
  let s1 := if inj then s.injFire else s
  let s2 := if own && lev == s.levelOf 6 n then s1.addPatch k.x n p.rho else s1
  let s3 := if p.retook && own then (s2.raise (rLay n 0xC) 1).contribute k.x n (fun a => { a with retook := true }) else s2
  if p.hard then
    let s4 := if own then s3.raise (rLay n 0xC) 2 else s3
    s4.post { kind := 2, det := 0x0E, unit := k.p, ctag := s.tagOf k.d, inj := inj }
  else s3

/-- The sampled patches one after another; their elements come first in the answer. -/
def State.peepAll (s : State) (k : TC) (n lev : Nat) (q : Prod) (lowAny : Option (List (List XV) × List (List XV)))
    (wa ww : TVal) (live : Nat → Bool) (out : Nat → Nat → Contr) (ps : List Patch) : State × List (Nat × Nat × Contr) :=
  ps.foldl (fun acc x =>
    let inj := acc.1.injArmed 0x0E k.p
    let add := if inj then some (ffAF32.encX (.fin ⟨1, (fld s.injPat 4 0 : Nat)⟩)) else none
    let r := peepPatch acc.1 k n lev q lowAny wa ww x live out add
    (acc.1.peepState k n lev r inj, acc.2 ++ r.cells)) (s, [])

/-! ### Writing the output (R78, R130, R260) -/

/-- The code of an output element with its addend. -/
def finishEl (f : Fmt) (c : Contr) (addend : Option Nat) : Nat :=
  match c.ex with
  | some e => f.ff.encX (match addend with | some x => e.add (afv x).toX | none => e)
  | none =>
    let y := match addend with | some x => afAdd c.v x | none => c.v
    if f = .af32 then y else f.ff.enc (afv y)

/-- The codes of output line i: n columns, split halves. -/
def outLine (dst : Tens) (n : Nat) (old : List Nat) (acc : Bool) (c : Nat → Contr) : List Nat :=
  if dst.scnt = 1 then (List.range n).map (fun j => finishEl dst.fmt (c j) (if acc then some (nth old j 0) else none))
  else (List.range n).map (fun j => (c j).p) ++ (if dst.len = 2 * n then (List.range n).map (fun j => (c j).o) else [])

/-- The values of a wide tensor's lines. -/
def State.wideVals (s : State) (k : TC) (t : Tens) : List (List XV) :=
  (s.codes k t).map (fun l => l.map (fun c => (t.fmt.ff.dec c).toX))

/-- A product that executes: operands, whether the arrays run in their wide form, output columns, level of execution, layer
entry, the low-rank factors whatever the level, whether the peephole looks at it. -/
structure ProdRun where
  q : Prod
  wide : Bool
  n : Nat
  lev : Nat
  entry : Nat
  low : Option (List (List XV) × List (List XV))
  chk : Bool

/-- The rows of the output that the mask leaves (R260). -/
def State.liveRow (s : State) (k : TC) (i : Nat) : Bool := !s.masked k i

/-- The checksums of a product (R191 to R193): the state, the errors that stay in the result, the arrays that failed. -/
def State.prodCheck (s : State) (k : TC) (x : ProdRun) : State × List Bump × List Nat :=
  s.checksum k x.q x.wide k.tA.lines x.n (s.liveRow k)

/-- The output of a product: the peephole looks at it (R131 to R137), then it is written with its addend (R78, R260). -/
def State.prodOut (s : State) (k : TC) (x : ProdRun) (live : Nat → Bool) (bumps : List Bump) : State :=
  let dst := k.tDst
  let m := k.tA.lines
  let base := fun i j => x.q.contr bumps i j
  let r := if x.chk then
      s.peepAll k x.entry x.lev x.q x.low (s.readT k k.tWA) (s.readT k k.tWW) live base (s.patches k dst m x.n)
    else (s, [])
  let cell := fun i j => match r.2.find? (fun y => y.1 == i && y.2.1 == j) with
    | some y => y.2.2
    | none => base i j
  let old := if k.acc then r.1.codes k dst else []
  let lines := (List.range m).map (fun i =>
    if live i then some (outLine dst x.n (nth old i []) k.acc (cell i)) else none)
  r.1.putWide k dst lines

/-- After the operands are known to be good: compute, compare, write. -/
def prodGo (k : TC) (x : ProdRun) (rds wrs : List Rng) (s : State) : TRes :=
  match s.prodCheck k x with
  | (s1, bumps, []) => .ok ⟨s1.prodOut k x (s.liveRow k) bumps, paneOf rds, paneOf wrs, [], .plain, false, none⟩
  | (s1, _, bad) => .fault s1 ⟨0x0F, 0, arrMask bad⟩

/-! ### MMQ (R258 to R261) -/

/-- The checks of MMQ before any operand is read. DESIGN CHOICE (log 24): a format pair that R67 refuses is reported with SLOT 3
(SRCB), whichever operand's format is in no pair at all: R67 and R252 name no slot for a pair. -/
def mmqFaults (s : State) (k : TC) : List (Option TFault) :=
  let a := k.tA
  let w := k.tB
  let dst := k.tDst
  let outl := a.outl || w.outl
  let n := w.lines
  let split := decide (1 < dst.scnt)
  let lp := k.tLP
  let lv := k.tLV
  [ dst.check, a.check, w.check,
    need (!mmqPair a w) 2 3,
    need (!dst.wide) 2 1,
    need (k.acc && !dst.is .af32) 2 1,
    need (split && !dst.is .af32) 2 1,
    s.planeCheck k dst, s.planeCheck k a, s.planeCheck k w,
    need (!opNone k.w.srcc && k.sc k.w.srcc % 16 != 0) 3 4 (k.sc k.w.srcc),
    need (dst.overlaps a || dst.overlaps w || k.maskRng.any (fun r => dst.hits r.a r.n)) 5 1,
    placeBad dst,
    need ((k.acc || k.lrv) && split) 7 1,
    need ((s.layer k.d k.layIdx).isNone) 0x0A 5 ] ++
  prodShape a w dst k.gtot (if split && outl then 2 * n else n) ++
  (if k.lrv then
    [ lp.check, lv.check, need (!lp.is .bf16) 2 7, need (!lv.is .bf16) 2 7, s.planeCheck k lp, s.planeCheck k lv,
      need (dst.overlaps lp || dst.overlaps lv) 5 1,
      need (lp.len != lv.len || decide (32 < lp.len) || lp.lines != a.lines || lv.lines != n) 7 7 ]
   else []) ++
  (if k.chk then
    [ inPane k.tWA, inPane k.tWW, k.tWA.check, k.tWW.check, need (!k.tWA.wide) 2 7, need (!k.tWW.wide) 2 7,
      s.planeCheck k k.tWA, s.planeCheck k k.tWW,
      need (k.tWA.lines != a.lines || k.tWA.len != a.len || k.tWW.lines != n || k.tWW.len != w.len) 7 7 ]
   else [])

/-- How an MMQ executes: layer entry, level asked for and level taken (R119), whether the low-rank factors are added. -/
structure MCase where
  entry : Nat
  asked : Nat
  lev : Nat
  useLow : Bool
  deriving DecidableEq, Repr

def TC.split (k : TC) : Bool := decide (1 < k.tDst.scnt)

def State.mmqCase (s : State) (k : TC) : MCase :=
  let entry := (s.layer k.d k.layIdx).getD 0
  let asked := s.levelOf k.lsel entry
  let lev := mmqLevel asked k.tA.fmt.laddered k.lrv k.split
  ⟨entry, asked, lev, lev == 3 && k.lrv && !k.split⟩

/-- The ranges that MMQ reads. -/
def TC.mmqRds (k : TC) (c : MCase) : List Rng :=
  k.tA.lineAll ++ k.tB.lineAll ++ k.maskRng ++
    (if k.lrv && (c.useLow || k.chk) then k.tLP.lineAll ++ k.tLV.lineAll else []) ++
    (if k.chk then k.tWA.lineAll ++ k.tWW.lineAll else []) ++ (if k.acc then k.tDst.lineAll else []) ++ k.tDst.rwRng

/-- The product that MMQ forms. -/
def State.mmqRun (s : State) (k : TC) (c : MCase) : ProdRun :=
  let low := if k.lrv && (c.useLow || k.chk) then some (s.wideVals k k.tLP, s.wideVals k k.tLV) else none
  ⟨⟨s.readT k k.tA, s.readT k k.tB, false, k.tA.outl || k.tB.outl, k.split, s.plumb k.d, if c.useLow then low else none⟩,
    false, k.tB.lines, c.lev, c.entry, low, k.chk⟩

/-- MMQ's course. -/
def mmqBody (s : State) (k : TC) : TRes :=
  let c := s.mmqCase k
  withStored s k (mmqFaults s k) [k.tA, k.tB] [] (fun _ => none) (k.mmqRds c) k.tDst.wrRngs (k.mmqRds c) (fun s =>
    prodGo k (s.mmqRun k c) (k.mmqRds c) k.tDst.wrRngs (s.mismatch k.lsel c.entry (decide (c.lev < c.asked))))

/-- MMQ (R258). -/
def execMmq (d : Fin 4) (t : Fin 4096) (w : IFields) (ups : List Upset) (s : State) : Host.Outcome State Fault Refusal :=
  .next (issue d t 0x10 w ups mmqBody s)

/-! ### MMW (R262) -/

/-- The checks of MMW; a refused format pair has SLOT 3 (DESIGN CHOICE, log 24, as for MMQ). -/
def mmwFaults (s : State) (k : TC) : List (Option TFault) :=
  let a := k.tA
  let w := k.tB
  let dst := k.tDst
  let split := decide (1 < dst.scnt)
  [ dst.check, a.check, w.check,
    need (!mmwPair a w) 2 3,
    need (!dst.wide) 2 1,
    need (k.acc && !dst.is .af32) 2 1,
    need (split && !dst.is .af32) 2 1,
    s.planeCheck k dst, s.planeCheck k a, s.planeCheck k w,
    need (!opNone k.w.srcc && k.sc k.w.srcc % 16 != 0) 3 4 (k.sc k.w.srcc),
    need (dst.overlaps a || dst.overlaps w || k.maskRng.any (fun r => dst.hits r.a r.n)) 5 1,
    placeBad dst,
    need (k.acc && split) 7 1 ] ++ prodShape a w dst k.gtot w.lines

/-- The ranges that MMW reads. -/
def TC.mmwRds (k : TC) : List Rng :=
  k.tA.lineAll ++ k.tB.lineAll ++ k.maskRng ++ (if k.acc then k.tDst.lineAll else []) ++ k.tDst.rwRng

/-- The product that MMW forms. -/
def State.mmwRun (s : State) (k : TC) : ProdRun :=
  ⟨⟨s.readT k k.tA, s.readT k k.tB, false, false, k.split, s.plumb k.d, none⟩, true, k.tB.lines, 0, 0, none, false⟩

/-- MMW's course. -/
def mmwBody (s : State) (k : TC) : TRes :=
  withStored s k (mmwFaults s k) [] [] (fun _ => none) k.mmwRds k.tDst.wrRngs k.mmwRds (fun s =>
    prodGo k (s.mmwRun k) k.mmwRds k.tDst.wrRngs s)

/-- MMW (R262). -/
def execMmw (d : Fin 4) (t : Fin 4096) (w : IFields) (ups : List Upset) (s : State) : Host.Outcome State Fault Refusal :=
  .next (issue d t 0x11 w ups mmwBody s)

/-! ### LRC (R263) -/

/-- R128: the formats of X. -/
def lrcLeft (a : Tens) : Bool :=
  a.is .e2m1 || a.is .s4 || a.is .u4 || a.is .s8 || a.is .e4m3 || a.is .e5m2 || a.is .bf16

/-- The checks of LRC at level 3. -/
def lrcFaults (s : State) (k : TC) : List (Option TFault) :=
  let a := k.tA
  let w := k.tB
  let dst := k.tDst
  let split := decide (1 < dst.scnt)
  [ dst.check, a.check, w.check,
    need (!lrcLeft a) 2 2,
    need (!w.is .bf16) 2 3,
    need (if split then !dst.is .af32 else !dst.is .bf16) 2 1,
    s.planeCheck k dst, s.planeCheck k a, s.planeCheck k w,
    need (dst.overlaps a || dst.overlaps w) 5 1,
    placeBad dst,
    need (decide (32 < w.lines)) 7 3 ] ++ prodShape a w dst k.gtot w.lines

/-- The ranges that LRC reads. -/
def TC.lrcRds (k : TC) : List Rng := k.tA.lineAll ++ k.tB.lineAll ++ k.tDst.rwRng

/-- The product that LRC forms. -/
def State.lrcRun (s : State) (k : TC) : ProdRun :=
  ⟨⟨s.readT k k.tA, s.readT k k.tB, true, false, k.split, false, none⟩, true, k.tB.lines, 3, 0, none, false⟩

/-- R142: a layer index out of range. -/
def lrcNoLayer : TFault := ⟨0x0A, 5, 0⟩

/-- LRC at level 3, asked for level `asked` of layer entry `entry`; more: faults beside its own. -/
def lrcRun3 (s : State) (k : TC) (more : List (Option TFault)) (entry asked : Nat) : TRes :=
  withStored s k (lrcFaults s k ++ more) [k.tA] [] (fun _ => none) k.lrcRds k.tDst.wrRngs k.lrcRds (fun s =>
    prodGo k (s.lrcRun k) k.lrcRds k.tDst.wrRngs (s.mismatch k.lsel entry (decide (3 < asked))))

/-- R119, R263: LRC's level: 0 to 2 do nothing, 3 and above run at 3. -/
def lrcBody (s : State) (k : TC) : TRes :=
  match s.layer k.d k.layIdx with
  | none => if k.lsel = 6 ∨ k.lsel < 3 then .fault s lrcNoLayer else lrcRun3 s k [some lrcNoLayer] 0 k.lsel
  | some entry =>
    let asked := s.levelOf k.lsel entry
    if asked < 3 then quickly s else lrcRun3 s k [] entry asked

/-- LRC (R263). -/
def execLrc (d : Fin 4) (t : Fin 4096) (w : IFields) (ups : List Upset) (s : State) : Host.Outcome State Fault Refusal :=
  .next (issue d t 0x12 w ups lrcBody s)

end Sys2Proof.Machine
end

