-- ==== Sys2Proof/Machine/Vector.lean ====
section
/-! DEFINITION. RNG and SMP (R158 to R165, R268, R269), EWO (R270, R271) and RED (R272, R273). -/

namespace Sys2Proof.Machine

/-! ### RNG (R268) -/

/-- The generator's output for element (c, q) of a tensor (R154). -/
def State.draws (s : State) (k : TC) (t : Tens) (lo : Nat) (c q : Nat) : Nat :=
  rngY (s.keyOf k.d) (k.stream lo) (k.rstep lo) (coordOf (t.lorg + c) (t.porg + q))

/-- One element of RNG's result. -/
def rngEl (form : Nat) (f : Fmt) (thr : Nat) (scale x : FV) (y : Nat) : Nat :=
  match form with
  | 0 => f.ff.encX (.fin (uniformDraw y))
  | 1 => f.ff.enc (afv (normalDraw y))
  | 2 => if y % 2 ^ 32 < thr then 0 else f.ff.enc (x.mul scale)
  | _ => y % 2 ^ 32

/-- RNG's checks. -/
def rngFaults (s : State) (k : TC) : List (Option TFault) :=
  let dst := k.tDst
  let a := k.tA
  [ inPane dst, dst.check, need (!dst.wide || (k.fmt == 3 && !dst.is .af32)) 2 1, s.planeCheck k dst, k.streamBad 0 true ] ++
  (if k.fmt = 2 then
    [ inPane a, a.check, need (!a.wide) 2 2, s.planeCheck k a,
      need (dst.overlaps a && !dst.coincides a) 5 1,
      need (a.lines != dst.lines || a.len != dst.len) 7 2 ]
   else [])

/-- The ranges that RNG reads and writes. -/
def TC.rngRds (k : TC) : List Rng := (if k.fmt = 2 then k.tA.lineAll else []) ++ (if k.fmt = 3 then [] else k.tDst.rwRng)
def TC.rngWrs (k : TC) : List Rng := if k.fmt = 3 then k.tDst.lineAll else k.tDst.wrRngs

/-- RNG's result, line by line. -/
def State.rngLines (s : State) (k : TC) : List (Option (List Nat)) :=
  let dst := k.tDst
  let a := k.tA
  let xs := if k.fmt = 2 then s.codes k a else []
  (List.range dst.lines).map (fun c => some ((List.range dst.len).map (fun q =>
    rngEl k.fmt dst.fmt (k.sc k.w.srcb) (afv (k.sc k.w.srcc)) (a.fmt.ff.dec (nth (nth xs c []) q 0)) (s.draws k dst 0 c q))))

/-- RNG's effect: the bits of RAW are no values and leave no status (R268). -/
def State.rngDo (s : State) (k : TC) : State :=
  if k.fmt = 3 then s.putLines k k.tDst (s.rngLines k) else s.putWide k k.tDst (s.rngLines k)

/-- RNG's course. -/
def rngBody (s : State) (k : TC) : TRes :=
  withRanges s k (rngFaults s k) k.rngRds k.rngWrs k.rngRds (fun s =>
    .ok ⟨s.rngDo k, paneOf k.rngRds, paneOf k.rngWrs, [], .plain, false, none⟩)

/-- RNG (R268). -/
def execRng (d : Fin 4) (t : Fin 4096) (w : IFields) (s : State) : Host.Outcome State Fault Refusal :=
  .next (issue d t 0x20 w [] rngBody s)

/-! ### SMP (R161 to R165, R269) -/

/-- R162: the columns T and X2. -/
def tabT : List Nat := [0, 5732, 11136, 16248, 21098, 25711, 30109, 34312, 38336, 42196, 45904, 49472, 52911, 56229, 59434, 62534, 65536]
def tabX2 : List Nat :=
  [65536, 68438, 71468, 74632, 77936, 81386, 84990, 88752, 92682, 96785, 101070, 105545, 110218, 115098, 120194, 125515, 131072]

/-- R162: the fixed-point logarithm. -/
def lg (x : Nat) : Nat :=
  let e := x.log2
  let f := (if e ≤ 20 then x * 2 ^ (20 - e) else x / 2 ^ (e - 20)) - 2 ^ 20
  let j := f / 65536
  65536 * e + nth tabT j 0 + (nth tabT (j + 1) 0 - nth tabT j 0) * (f % 65536) / 65536

/-- R163: the noise of an entry, from y0. -/
def gumbel (y0 : Nat) : Int :=
  let a := 2 * y0 + 1
  let w := 2 ^ 33 - a
  if w < 2 ^ 30 then 33 * 65536 - (lg w : Int) - 34653 - ((w * 47274 / 2 ^ 33 : Nat) : Int)
  else
    let e2 := 33 * 65536 - lg a
    16 * 65536 - (lg e2 : Int)

/-- An entry of a row: its index and the AF32 code of its tempered logit. -/
structure Entry where
  i : Nat
  a : Nat
  deriving DecidableEq, Repr

/-- The greater of two entries by value, the earlier of equal ones. -/
def Entry.better (x y : Entry) : Entry := if (afv x.a).flt (afv y.a) then y else x

/-- The entry of greatest value, the first of equals. -/
def bestEntry : List Entry → Option Entry
  | [] => none
  | x :: r => some (r.foldl Entry.better x)

/-- R161: how many entries of the row go before x: greater ones, and equal ones of lower index. -/
def Entry.rank (l : List Entry) (x : Entry) : Nat :=
  (l.filter (fun y => (afv x.a).flt (afv y.a) || ((afv x.a).feq (afv y.a) && decide (y.i < x.i)))).length

/-- What a row gives: a NaN, no entry, or the greatest score and its index. -/
inductive RowRes where
  | nan
  | none
  | some (score idx : Nat)
  deriving DecidableEq, Repr

/-- R161: the results that override the sampling; then go on the entries that take part. -/
def rowPick (k : Nat) (l : List Entry) (go : List Entry → RowRes) : RowRes :=
  if l.any (fun x => (afv x.a).isNaN) then .nan
  else
    let part := l.filter (fun x => x.a != 0xFF800000)
    match part.find? (fun x => x.a == 0x7F800000) with
    | .some x => .some x.a x.i
    | .none =>
      let top := if k = 0 then part else part.filter (fun x => decide (Entry.rank part x < k))
      if top.isEmpty then .none else go top

/-- R163: native sampling; y gives the Y of an entry's coordinate. -/
def rowNative (y : Nat → Nat) (l : List Entry) : RowRes :=
  match bestEntry (l.map (fun x =>
    ⟨x.i, ffAF32.encX (((afv x.a).toX).add (.fin ⟨gumbel (y x.i % 2 ^ 32), -16⟩))⟩)) with
  | .some x => .some x.a x.i
  | .none => .none

/-- R165: the weight of an entry whose distance below the greatest is the exact number dif. -/
def compatWeight (dif : Dy) : Nat :=
  if dif.lt (Dy.ofInt (-32)) then 0
  else
    let v := dif.scale 16
    let dq : Int := if 0 ≤ v.e then v.m * pow2 v.e else v.m / pow2 (-v.e)
    let n := dq / 65536
    let f := (dq % 65536).toNat
    let j := f / 4096
    let m := nth tabX2 j 0 + (nth tabX2 (j + 1) 0 - nth tabX2 j 0) * (f % 4096) / 4096
    let p := 16 + n
    if 0 ≤ p then m * 2 ^ p.toNat else m / 2 ^ (-p).toNat

/-- Entries ordered by weight, greatest first, the lower index first among equals. -/
def wInsert (x : Nat × Nat) : List (Nat × Nat) → List (Nat × Nat)
  | [] => [x]
  | y :: r => if y.2 < x.2 then x :: y :: r else y :: wInsert x r
def wSort (l : List (Nat × Nat)) : List (Nat × Nat) := l.foldl (fun acc x => wInsert x acc) []

/-- R165: the shortest prefix whose weight sum sp satisfies sp * 2^32 ≥ PTH * total. -/
def topP (pth total : Nat) : List (Nat × Nat) → Nat → List (Nat × Nat)
  | [], _ => []
  | x :: r, sp => if pth * total ≤ (sp + x.2) * 2 ^ 32 then [x] else x :: topP pth total r (sp + x.2)

/-- R165: the first index at which the running sum exceeds x. -/
def runPick (x : Nat) : List (Nat × Nat) → Nat → Option Nat
  | [], _ => none
  | e :: r, sum => if x < sum + e.2 then some e.1 else runPick x r (sum + e.2)

/-- R165: compatibility mode; y is the Y of the row's coordinate. -/
def rowCompat (pth y : Nat) (l : List Entry) : RowRes :=
  match bestEntry l with
  | .none => .none
  | .some top =>
    let ws := (l.map (fun x => (x.i, compatWeight ((afv x.a).toDy.sub (afv top.a).toDy)))).filter (fun x => x.2 != 0)
    let sumOf := fun (l : List (Nat × Nat)) => (l.map (·.2)).foldl (· + ·) 0
    let kept := if pth = 0 then ws else topP pth (sumOf ws) (wSort ws) 0
    let set := ws.filter (fun x => kept.any (fun z => z.1 == x.1))
    match runPick (y % 2 ^ 64 * sumOf set / 2 ^ 64) set 0 with
    | .some i => .some 0 i
    | .none => .none

def RowRes.index (r : RowRes) : Nat := match r with | .nan => 0xFFFFFFFF | .none => 0xFFFFFFFE | .some _ i => i
def RowRes.score (r : RowRes) : Nat := match r with | .nan => 0x7FC00000 | .none => 0xFF800000 | .some a _ => a

/-- R269: the merge of two pairs (score in [31:0], index in [63:32]). -/
def mergePair (x y : Nat) : Nat :=
  let nan := fun (v : Nat) => (afv (v % 2 ^ 32)).isNaN
  let idx := fun (v : Nat) => v / 2 ^ 32
  if nan x && nan y then 0x7FC00000 + 0xFFFFFFFF * 2 ^ 32
  else if nan x then 0x7FC00000 + idx x * 2 ^ 32
  else if nan y then 0x7FC00000 + idx y * 2 ^ 32
  else if idx y = 0xFFFFFFFE then x
  else if idx x = 0xFFFFFFFE then y
  else
    let a := afv (x % 2 ^ 32)
    let b := afv (y % 2 ^ 32)
    if a.flt b then y else if b.flt a then x else if idx x ≤ idx y then x else y

def TC.topk (k : TC) : Nat := fld k.imm 17 0
def TC.smpRows (k : TC) : Nat := fld k.imm 42 23
def TC.smpOff (k : TC) : Nat := k.sc k.w.dst
def smpAlign (k : TC) : Option TFault := need (k.smpOff % 8 != 0) 3 1 k.smpOff

/-- The pairs at DST and those at SRCA of SMP MERGE. -/
def TC.pairsDst (k : TC) : Rng := ⟨1, 0, k.smpOff, 8 * k.smpRows⟩
def TC.pairsA (k : TC) : Rng := ⟨2, 0, k.sc k.w.srca, 8 * k.smpRows⟩

/-- SMP MERGE's effect: each pair at DST becomes the merge of it and the pair at SRCA. -/
def State.mergeDo (s : State) (k : TC) : State :=
  let pair := fun (o r : Nat) => s.rdNat k 0 (o + 8 * r) 8
  s.paneWrite k.p k.smpOff (clean ((List.range k.smpRows).flatMap (fun r =>
    leBytes 8 (mergePair (pair k.smpOff r) (pair (k.sc k.w.srca) r)))))

/-- SMP MERGE (R269). -/
def smpMerge (s : State) (k : TC) : TRes :=
  withRanges s k [smpAlign k] [k.pairsDst, k.pairsA] [k.pairsDst] [k.pairsDst, k.pairsA] (fun s =>
    .ok ⟨s.mergeDo k, paneOf [k.pairsDst, k.pairsA], paneOf [k.pairsDst], [], .plain, false, none⟩)

/-- SMP's checks in its sampling forms. -/
def smpFaults (s : State) (k : TC) : List (Option TFault) :=
  let a := k.tA
  let whole := k.fmt = 3 ∨ 1 ≤ k.topk
  [ a.check, need (!(a.is .bf16 || a.is .af32)) 2 2, s.planeCheck k a, smpAlign k,
    need (decide (whole ∧ (a.scnt ≠ 1 ∨ a.sp ≠ 0)) || (k.fmt == 3 && decide (131072 < a.len))) 7 2,
    k.streamBad 18 true ]

/-- The result of row c. -/
def State.smpRow (s : State) (k : TC) (a : Tens) (c : Nat) (codes : List Nat) : RowRes :=
  let row := (a.lorg + c) % 2 ^ 32
  let beta := afv (k.sc k.w.srcb)
  let es := codes.mapIdx (fun q x => Entry.mk ((a.porg + q) % 2 ^ 32) (ffAF32.enc ((a.fmt.ff.dec x).mul beta)))
  let y := fun (i : Nat) => rngY (s.keyOf k.d) (k.stream 18) (k.rstep 18) (coordOf row i)
  rowPick k.topk es (fun l => if k.fmt = 3 then rowCompat (k.sc k.w.srcc) (y 0xFFFFFFFF) l else rowNative y l)

/-- Where SMP's results go: an index per row, with its score in the form PAIR. -/
def TC.smpOut (k : TC) : Rng := ⟨1, 0, k.smpOff, (if k.fmt = 1 then 8 else 4) * k.tA.lines⟩

/-- The results of every row of SRCA. -/
def State.smpRows (s : State) (k : TC) : List RowRes := (s.codes k k.tA).mapIdx (fun c l => s.smpRow k k.tA c l)

/-- SMP's effect: the rows' results, and a NaN row's status. -/
def State.smpDo (s : State) (k : TC) : State :=
  let rs := s.smpRows k
  let nans := rs.map (fun r => r == .nan)
  let s1 := s.paneWrite k.p k.smpOff (clean
    (rs.flatMap (fun r => if k.fmt = 1 then leBytes 4 r.score ++ leBytes 4 r.index else leBytes 4 r.index)))
  if nans.any id then s1.status k.p true false (some (nans.idxOf true)) else s1

/-- SMP's course. -/
def smpBody (s : State) (k : TC) : TRes :=
  if k.fmt = 2 then smpMerge s k
  else withRanges s k (smpFaults s k) k.tA.lineAll [k.smpOut] k.tA.lineAll (fun s =>
    .ok ⟨s.smpDo k, paneOf k.tA.lineAll, paneOf [k.smpOut], [], .plain, false, none⟩)

/-- SMP (R269). -/
def execSmp (d : Fin 4) (t : Fin 4096) (w : IFields) (s : State) : Host.Outcome State Fault Refusal :=
  .next (issue d t 0x21 w [] smpBody s)

/-! ### EWO (R270, R271) -/

/-- EWO's exact result, by FMT; n: SCALE's exponent; cond: CMP's condition. -/
def ewoOp (op cond : Nat) (n : Int) (a b c : FV) : FV :=
  let one := fun (p : Bool) => if p then FV.fin false 1 0 else .fin false 0 0
  match op with
  | 0x0 => a.add b
  | 0x1 => a.sub b
  | 0x2 => a.mul b
  | 0x3 => (a.mul b).add c
  | 0x4 => if a.isNaN || b.isNaN then .nan else if b.ltz a then b else a
  | 0x5 => if a.isNaN || b.isNaN then .nan else if a.ltz b then b else a
  | 0x6 => a.abs
  | 0x7 => a.scale n
  | 0x8 => a.div b
  | 0x9 => a.sqrt
  | 0xA => a.exp2
  | 0xB => a.log2
  | 0xC => a
  | 0xD =>
    match cond with
    | 0 => one (a.feq b)
    | 1 => one (a.flt b)
    | 2 => one (a.flt b || a.feq b)
    | _ => one (a.isNaN || b.isNaN)
  | _ => if a.isNaN || a.isZero then c else b

/-- An operand of EWO that is used: a tensor or a scalar. -/
def TC.ewoTens (k : TC) : List Tens :=
  [k.tA] ++ (if opIsDesc k.w.srcb then [k.tB] else []) ++ (if opIsDesc k.w.srcc then [k.tC] else [])

/-- EWO's checks. -/
def ewoFaults (s : State) (k : TC) : List (Option TFault) :=
  let dst := k.tDst
  [ inPane dst, dst.check, need (!dst.wide) 2 1, s.planeCheck k dst, k.streamBad 2 k.rnd ] ++
  k.ewoTens.flatMap (fun t =>
    [ inPane t, t.check, need (!t.wide) 2 t.slot, s.planeCheck k t,
      need (dst.overlaps t && !dst.coincides t) 5 t.slot,
      need (t.lines != dst.lines || t.len != dst.len) 7 t.slot ])

/-- SCALE's exponent: beyond 2,000 either way every value rounds as at 2,000. -/
def scaleExp (n : Nat) : Int := max (-2000) (min 2000 (sext n 32))

/-- The ranges that EWO reads. -/
def TC.ewoRds (k : TC) : List Rng := k.ewoTens.flatMap Tens.lineAll ++ k.tDst.rwRng

/-- EWO's result, line by line. -/
def State.ewoLines (s : State) (k : TC) : List (Option (List Nat)) :=
  let dst := k.tDst
  let a := k.tA
  let n := if k.fmt = 7 then scaleExp (k.sc k.w.srcb) else 0
  let xa := s.codes k a
  let arg := fun (b : BitVec 8) (t : Tens) =>
    let xs := if opIsDesc b then s.codes k t else []
    let v := afv (k.sc b)
    fun (c q : Nat) => if opIsDesc b then t.fmt.ff.dec (nth (nth xs c []) q 0) else v
  let vb := arg k.w.srcb k.tB
  let vc := arg k.w.srcc k.tC
  (List.range dst.lines).map (fun c => some ((List.range dst.len).map (fun q =>
    let ca := nth (nth xa c []) q 0
    let v := ewoOp k.fmt (fld k.imm 1 0) n (a.fmt.ff.dec ca) (vb c q) (vc c q)
    if k.rnd then dst.fmt.ff.sr v ((a.fmt.ff.ulp ca).scale n) (s.draws k dst 2 c q) else dst.fmt.ff.enc v)))

/-- EWO's course. -/
def ewoBody (s : State) (k : TC) : TRes :=
  withRanges s k (ewoFaults s k) k.ewoRds k.tDst.wrRngs k.ewoRds (fun s =>
    let lines := s.ewoLines k
    twinned s k (fun s => .ok ⟨s.putWide k k.tDst lines, paneOf k.ewoRds, paneOf k.tDst.wrRngs, [], .plain, false, none⟩))

/-- EWO (R270). -/
def execEwo (d : Fin 4) (t : Fin 4096) (w : IFields) (ups : List Upset) (s : State) : Host.Outcome State Fault Refusal :=
  .next (issue d t 0x28 w ups ewoBody s)

/-! ### RED, line forms (R272) -/

/-- The greater (or lesser) of two values, NaN if either is one, -0 below +0. -/
def redPick (least : Bool) (a b : FV) : FV :=
  if a.isNaN || b.isNaN then .nan
  else if least then (if b.ltz a then b else a) else (if a.ltz b then b else a)

/-- A line's reduction, by FMT. -/
def redLine (form : Nat) (l : List FV) : FV :=
  match form with
  | 0 => afv (l.foldl (fun acc x => ffAF32.enc ((afv acc).add x)) 0)
  | 1 => afv (l.foldl (fun acc x => afAdd acc (ffAF32.enc (x.mul x))) 0)
  | f =>
    match l.map (fun x => if f = 4 then x.abs else x) with
    | [] => .fin false 0 0
    | x :: r => r.foldl (redPick (f == 3)) x

/-- The line forms' checks. -/
def redFaults (s : State) (k : TC) : List (Option TFault) :=
  let dst := k.tDst
  let a := k.tA
  [ inPane dst, inPane a, dst.check, a.check, need (!dst.wide) 2 1, need (!a.wide) 2 2, s.planeCheck k dst, s.planeCheck k a,
    need (dst.overlaps a && !dst.coincides a) 5 1,
    need (dst.lines != a.lines || dst.len != 1) 7 1 ]

/-- The line forms' result: one element per line. -/
def State.redResult (s : State) (k : TC) : List (Option (List Nat)) :=
  (s.codes k k.tA).map (fun l => some [k.tDst.fmt.ff.enc (redLine k.fmt (l.map k.tA.fmt.ff.dec))])

/-- The line forms' course. -/
def redLines (s : State) (k : TC) : TRes :=
  withRanges s k (redFaults s k) k.unaryRds k.tDst.wrRngs k.unaryRds (fun s =>
    let lines := s.redResult k
    twinned s k (fun s => .ok ⟨s.putWide k k.tDst lines, paneOf k.unaryRds, paneOf k.tDst.wrRngs, [], .plain, false, none⟩))

/-! ### RED, tree form (R273) -/

/-- The staging area of a tree. -/
def TC.stage (k : TC) : Nat := fld k.imm 23 14 * 512

/-- The low-rank operands at the root. -/
def TC.redLP (k : TC) : Tens := k.tImm 5 0
def TC.redLV (k : TC) : Tens := k.tImm 11 6

/-- The bytes of a staging area of SRCA's size: its data plane. -/
def Tens.stageBytes (t : Tens) : Nat := (t.pData.span 0 t.lines).2

/-- The tree form's checks. -/
def treeFaults (s : State) (k : TC) : List (Option TFault) :=
  let dst := k.tDst
  let a := k.tA
  let i := a.split
  let n := a.scnt
  let t0 := k.sc k.w.srcb
  let ts := k.sc k.w.srcc
  let nlt := (s.casement k.d).nlt
  let lrv := bit k.imm 12
  let root := i == 0
  let lp := k.redLP
  let lv := k.redLV
  let st := k.stage
  let sb := a.stageBytes
  [ inPane dst, inPane a, dst.check, a.check, need (!a.is .af32) 2 2, need (!dst.wide) 2 1,
    need (bit k.imm 13 && !dst.is .af32) 2 1, s.planeCheck k dst, s.planeCheck k a,
    need (a.hits st sb || dst.hits st sb) 5 5,
    need (ts == 0 && decide (1 < n)) 7 4,
    need (root && (dst.lines != a.lines || (dst.len != a.len && 2 * dst.len != a.len))) 7 1,
    need (decide (1 < n) && (List.range n).any (fun j => decide (nlt ≤ t0 + j * ts))) 0x0B 3 ] ++
  (if lrv then
    [ inPane lp, inPane lv, lp.check, lv.check, need (!lp.is .bf16) 2 7, need (!lv.is .bf16) 2 7, s.planeCheck k lp, s.planeCheck k lv,
      need (lp.hits st sb || lv.hits st sb) 5 5,
      need (dst.overlaps lp || dst.overlaps lv) 5 1,
      need (root && (lp.len != lv.len || decide (32 < lp.len) || lp.lines != dst.lines || lv.lines != dst.len)) 7 7 ]
   else [])

/-- The ranges that the tree form reads and writes. -/
def TC.treeRds (k : TC) : List Rng :=
  let root := k.tA.split == 0
  k.tA.lineAll ++ (if bit k.imm 12 && root then k.redLP.lineAll ++ k.redLV.lineAll else []) ++
    (if root && bit k.imm 13 then k.tDst.lineAll else []) ++ (if root then k.tDst.rwRng else [])
def TC.treeWrs (k : TC) : List Rng :=
  (if 1 < k.tA.scnt then [⟨5, 0, k.stage, k.tA.stageBytes⟩] else []) ++ (if k.tA.split == 0 then k.tDst.wrRngs else [])

/-- The reduction as it starts: this tile's partial, at the lowest level. -/
def State.treeOp (s : State) (k : TC) : RedOp :=
  ⟨k.tA.split, k.tA.scnt, 1, k.sc k.w.srcb, k.sc k.w.srcc, (s.codes k k.tA).flatten, k.stage, k.x.td (opIdx k.w.srca),
    k.x.td (opIdx k.w.dst), k.x.td (fld k.imm 5 0), k.x.td (fld k.imm 11 6), bit k.imm 12, bit k.imm 13, k.x.pc,
    instrLow k.op k.w, k.ups⟩

/-- The tree form at issue: its checks, and its partial is read. -/
def redTree (s : State) (k : TC) : TRes :=
  withRanges s k (treeFaults s k) k.treeRds k.treeWrs k.treeRds (fun s =>
    .ok ⟨s.stallWith k (.red (s.treeOp k)), paneOf k.treeRds, paneOf k.treeWrs, [], .red (s.treeOp k), false, none⟩)

/-- RED's effect. -/
def redBody (s : State) (k : TC) : TRes := if k.fmt = 8 then redTree s k else redLines s k

/-- RED (R272, R273). -/
def execRed (d : Fin 4) (t : Fin 4096) (w : IFields) (ups : List Upset) (s : State) : Host.Outcome State Fault Refusal :=
  .next (issue d t 0x29 w ups redBody s)

/-- R273: the value of a root element: first half, second half if SRCA has one, low-rank term, addend; then DST's format. -/
def rootEl (f : Fmt) (p : Nat) (o : Option Nat) (l : Option XV) (c : Option Nat) : Nat :=
  let y1 := match o with | some x => afAdd p x | none => p
  let y2 := match l with | some v => afAdd y1 (ffAF32.encX v) | none => y1
  let y3 := match c with | some x => afAdd y2 x | none => y2
  if f = .af32 then afCanon y3 else f.ff.enc (afv y3)

/-- The operands of a waiting tree reduction, as its instruction saw them. -/
def RedOp.tc (x : RedOp) (s : State) (d t : Nat) : TC :=
  ⟨d, t, ((s.lt d t).phys).getD 0, s.lt d t, 0x29, ⟨8, 0, 0, 0, 0, 0, 0, 0⟩, x.ups⟩

/-- The root's result (R273): DST, its status and range word; the low-rank term's arrays are compared like any product's. -/
def State.redRoot (s : State) (d t : Nat) (x : RedOp) : State × Option TFault :=
  let k := x.tc s d t
  let a := tens x.src 2
  let dst := tens x.dst 1
  let pt := s.readT k (tens x.lp 7)
  let vt := s.readT k (tens x.lv 7)
  match if x.lrv then s.checksum k ⟨pt, vt, false, false, false, false, none⟩ true dst.lines dst.len (fun _ => true) else (s, [], []) with
  | (s1, bumps, []) =>
    let old := if x.acc then s1.codes k dst else []
    let two := a.len == 2 * dst.len
    let at_ := fun (c q : Nat) => nth x.part (c * a.len + q) 0
    let low := fun (c q : Nat) => (bumps.filter (fun b => b.row == c && b.col == q)).foldl (fun v b => v.add (.fin b.amt))
      (lowDot (fullVals pt (lineAt pt c)) (fullVals vt (lineAt vt q)))
    let lines := (List.range dst.lines).map (fun c => some ((List.range dst.len).map (fun q =>
      rootEl dst.fmt (at_ c q) (if two then some (at_ c (dst.len + q)) else none) (if x.lrv then some (low c q) else none)
        (if x.acc then some (nth (nth old c []) q 0) else none))))
    (s1.putWide k dst lines, none)
  | (s1, _, bad) => (s1, some ⟨0x0F, 0, arrMask bad⟩)

/-- What a tree reduction does next. -/
inductive RedNext where
  | root (s : State) (x : RedOp)
  | waits (s : State) (x : RedOp)

/-- The instruction of tile t that waits to send split j's partial at level h of the same tree, if it has issued. -/
def State.redPartner (s : State) (d : Nat) (x : RedOp) (j : Nat) : Option (Nat × RedOp) :=
  (s.lt d (x.t0 + j * x.ts)).inc.findSome? (fun i => match i.kind with
    | .red y => if y.i = j ∧ y.splits = x.splits ∧ y.t0 = x.t0 ∧ y.ts = x.ts ∧ y.h = x.h then some (i.id, y) else none
    | _ => none)

/-- A tile's instruction is done. -/
def State.retire (s : State) (d t id : Nat) : State :=
  let y := s.lt d t
  s.setLt d t { y with inc := y.inc.filter (fun i => i.id != id) }

/-- R273: one walk of the tree as far as it goes: levels without a partner pass, a partner that has reached its sending level
delivers into STAGE and completes. -/
def State.redRun (d t : Nat) : Nat → State → RedOp → RedNext
  | 0, s, x => .waits s x
  | n + 1, s, x =>
    if x.splits ≤ x.h then .root s x
    else if x.i % (2 * x.h) = x.h then .waits s x
    else if x.splits ≤ x.i + x.h then State.redRun d t n s { x with h := 2 * x.h }
    else
      match s.redPartner d x (x.i + x.h) with
      | none => .waits s x
      | some (id, y) =>
        let a := tens x.src 2
        let p := ((s.lt d t).phys).getD 0
        let s1 := ((chunks a.len (y.part.length + 1) y.part).mapIdx (fun c l => (c, l))).foldl
          (fun (s : State) z => s.paneWrite p (x.stage + z.1 * a.stride) (clean (packCodes .af32 z.2))) s
        let s2 := s1.retire d (x.t0 + y.i * x.ts) id
        State.redRun d t n s2 { x with h := 2 * x.h, part := (x.part.zip y.part).map (fun z => afAdd z.1 z.2) }

end Sys2Proof.Machine
end

