-- ==== Sys2Proof/Machine/Update.lean ====
section
/-! DEFINITION. OPT, the fused update (R166 to R184, R274). -/

namespace Sys2Proof.Machine

/-! ### One element (R173 to R175, R177) -/

/-- What an OPT applies to every element: AF32 codes of the hyperparameters (a is A times LRM), the exponents, the
remainder's settings, LOST_LOG2. -/
structure OptPar where
  ob1 : Nat
  ob2 : Nat
  a : Nat
  c2 : Nat
  eps : Nat
  wd : Nat
  gm : Nat
  gsx : Int
  k : Int
  rem : Bool
  remv : Bool
  lostLog : Nat
  deriving DecidableEq, Repr

/-- What an OPT makes of one element. `upd`: it is updated; `nan`: a NaN arose where it is not. -/
structure OptEl where
  w : Nat
  m : Nat
  v : Nat
  q : Nat
  upd : Bool
  nan : Bool
  lost : Bool
  msat : Bool
  mexp : Option Int
  deriving DecidableEq, Repr

/-- R173: the exponent of ulp(w) of a BF16 code. -/
def ulpExp (w : Nat) : Int := (max (fld w 14 7) 1 : Nat) - 134

/-- R174: srsat. -/
def srsat (f : FFmt) (x y : Nat) : Nat × Bool :=
  let v := afv x
  if (codeMag f.p f.bias f.maxc).lt v.abs.toDy then (b2n v.isNeg * 2 ^ f.sgn + f.maxc, true) else (f.sr v (ffAF32.ulp x) y, false)

/-- R174: the rounding of s to w': a finite s above the largest finite BF16 value in magnitude becomes an infinity. DEDUCED
(log 22): R157 sends the case to rne, which "may give an infinity"; R174 says of w' that it does. -/
def srInf (s y : Nat) : Nat :=
  let v := afv s
  if v.isFin && (codeMag ffBF16.p ffBF16.bias ffBF16.maxc).lt v.abs.toDy then ffBF16.enc (.inf v.isNeg)
  else ffBF16.sr v (ffAF32.ulp s) y

/-- R173: one element; y gives the generator's output of the element in stream S + i. -/
def optEl (p : OptPar) (w g m v q : Nat) (y : Nat → Nat) : OptEl :=
  let wv := ffBF16.dec w
  let gs := afScale (afMul g p.gm) p.gsx
  let mo := ffAF32.enc ((ffF16.dec m).scale p.k)
  let vo := ffAF32.enc ((ffBF16.dec v).scale (2 * p.k))
  let m1 := afAdd mo (afMul p.ob1 (afSub gs mo))
  let v1 := afAdd vo (afMul p.ob2 (afSub (afMul gs gs) vo))
  let den := afAdd (afSqrt (afMul v1 p.c2)) (afScale p.eps p.gsx)
  let d := afNeg (afAdd (afMul p.a (afDiv m1 den)) (ffAF32.enc ((afv p.wd).mul wv)))
  let rv := if p.remv then (ffE4M3.dec q).scale (ulpExp w) else .fin false 0 0
  let s := afAdd (ffAF32.enc (wv.add rv)) d
  let w' := if p.rem then ffBF16.enc (afv s) else srInf s (y 0)
  let vals := [afv gs, afv m1, afv v1, afv den, afv d, afv s, ffBF16.dec w']
  if vals.all FV.isFin then
    let e := ulpExp w'
    let q' := if p.rem then
        ffE4M3.sr (((afv s).sub (ffBF16.dec w')).scale (-e)) ((ffAF32.ulp s).scale (-e)) (y 3)
      else q
    let mm := srsat ffF16 m1 (y 1)
    let vv := srsat ffBF16 v1 (y 2)
    let dd := (afv d).toDy
    let m1d := (afv m1).toDy
    ⟨w', mm.1, vv.1, q', true, false, !dd.isZero && dd.abs.lt ⟨1, ulpExp w - (p.lostLog : Int)⟩, mm.2 || vv.2,
      if m1d.isZero then none else some m1d.top⟩
  else ⟨w, m, v, q, false, vals.any FV.isNaN, false, false, none⟩

/-! ### The records (R170, R171) -/

/-- The update state record. -/
structure OptRec where
  mb : Nat
  vb : Nat
  rb : Nat
  sexp : Int
  rpres : Bool
  remv : Bool
  bad : Bool
  deriving DecidableEq, Repr

/-- R171: the fields of an update state record. -/
def optRec (x : Nat) : OptRec :=
  ⟨fld x 18 0, fld x 50 32, fld x 82 64, sext (fld x 103 96) 8, bit x 104, bit x 105,
    fld x 31 19 != 0 || fld x 63 51 != 0 || fld x 95 83 != 0 || fld x 127 106 != 0 || (bit x 105 && !bit x 104)⟩

def TC.optRecRng (k : TC) : Rng := ⟨3, 0, k.sc k.w.srcb, 16⟩
def TC.optHypRng (k : TC) : Rng := ⟨4, 0, k.sc k.w.srcc, 32⟩
def TC.optLay (k : TC) : Nat := fld k.imm 11 0

/-- A state plane of an OPT: base, line stride and bytes of one line (R171). -/
def optPlane (t : Tens) (base w : Nat) : Plane := ⟨base, if w = 1 then t.stride / 2 else t.stride, w * t.len⟩

/-- The lines of a state plane as ranges. -/
def Plane.rngs (p : Plane) (lines : Nat) : List Rng := (List.range lines).map (fun c => ⟨3, 0, p.base + c * p.stride, p.bytes⟩)

/-- The state planes of a record: m, v and, when it is present, the remainder. -/
def OptRec.planes (r : OptRec) (t : Tens) : List Plane :=
  [optPlane t r.mb 2, optPlane t r.vb 2] ++ (if r.rpres then [optPlane t r.rb 1] else [])

/-- OPT's checks before its records are read. -/
def optFaults (s : State) (k : TC) : List (Option TFault) :=
  let dst := k.tDst
  let a := k.tA
  [ inPane dst, inPane a, dst.check, a.check, need (k.fmt != 5) 2 0, need (!dst.is .bf16) 2 1, need (!a.is .af32) 2 2,
    s.planeCheck k dst, s.planeCheck k a,
    need (k.optRecRng.a % 16 != 0) 3 3 k.optRecRng.a, need (k.optHypRng.a % 32 != 0) 3 4 k.optHypRng.a,
    need (a.lines != dst.lines || a.len != dst.len) 7 2,
    need (decide (0xFFFFFFF0 ≤ k.stream 12 + 3)) 9 7,
    need ((s.layer k.d k.optLay).isNone) 0x0A 5 ]

/-- The checks of what the records hold (R170 to R172, R274); ok and hok say that each can be read. -/
def optRecFaults (k : TC) (r : OptRec) (hyp : Nat) (ok hok : Bool) : List (Option TFault) :=
  let dst := k.tDst
  [ need (ok && r.bad) 2 3, need (hok && fld hyp 255 224 != 0) 2 4,
    need (ok && r.mb % 512 != 0) 3 3 r.mb, need (ok && r.vb % 512 != 0) 3 3 r.vb, need (ok && r.rpres && r.rb % 256 != 0) 3 3 r.rb,
    need (selfOverlap (dst.all ++ k.tA.all ++ (if ok then (r.planes dst).map (fun p => p.span 0 dst.lines) else []) ++
      [(k.optRecRng.a, 16), (k.optHypRng.a, 32)])) 5 1 ]

/-! ### The instruction -/

/-- R177: a layer's sums take what an OPT counted. -/
def LaySum.addOpt (els : List OptEl) (a : LaySum) : LaySum :=
  let up := els.filter (·.upd)
  let mx := up.foldl (fun acc e => match acc, e.mexp with
    | some x, some y => some (max x y)
    | none, y => y
    | x, none => x) a.mexp
  { a with opt := true, uelem := a.uelem + up.length, ulost := a.ulost + (up.filter (·.lost)).length
           msat := a.msat || up.any (·.msat), mexp := mx }

/-- R371, code 0x10: a bit of the first weight written flips after its check bits are formed. -/
def State.optInject (s : State) (p off : Nat) : State :=
  if s.injArmed 0x10 p then
    { s with pane := s.pane.upset (p * 65536 + off / 8) (off % 8 * 8 + fld s.injPat 3 0) 2 }.injFire
  else s

/-- The status of an OPT (R175). -/
def State.optStatus (s : State) (p : Nat) (els : List OptEl) : State :=
  let l := els.mapIdx (fun i e => (i, e))
  let bad := l.filter (fun x => !x.2.upd)
  s.status p (bad.any (fun x => x.2.nan)) (bad.any (fun x => !x.2.nan)) (bad.head?.map (·.1))

/-- R176: the planes and the record are written together. -/
def State.optWrite (s : State) (k : TC) (r : OptRec) (rcd : Nat) (p : OptPar) (rows : List (List OptEl)) : State :=
  let dst := k.tDst
  let put := fun (s : State) (pl : Plane) (f : OptEl → List Nat) =>
    (rows.mapIdx (fun c l => (c, l))).foldl
      (fun (s : State) x => s.paneWrite k.p (pl.base + x.1 * pl.stride) (clean (x.2.flatMap f))) s
  let s1 := put s dst.pData (fun e => leBytes 2 e.w)
  let s2 := put s1 (optPlane dst r.mb 2) (fun e => leBytes 2 e.m)
  let s3 := put s2 (optPlane dst r.vb 2) (fun e => leBytes 2 e.v)
  let s4 := if p.rem then put s3 (optPlane dst r.rb 1) (fun e => leBytes 1 e.q) else s3
  let rcd' := setFld (setFld rcd 103 96 (wrap p.gsx 8)) 105 105 (b2n p.rem)
  s4.paneWrite k.p k.optRecRng.a (clean (leBytes 16 rcd'))

/-- The settings of an OPT of layer entry n (R173). -/
def State.optPar (s : State) (k : TC) (n : Nat) (r : OptRec) (hyp : Nat) : OptPar :=
  let h := fun (i : Nat) => fld hyp (32 * i + 31) (32 * i)
  let gsx := sext (s.rf (rUpd n 0) 23 16) 8
  ⟨h 0, h 1, ffAF32.enc ((afv (h 2)).mul (ffBF16.dec (s.rf (rUpd n 0) 15 0))), h 3, h 4, h 5, h 6, gsx, gsx - r.sexp,
   s.rf (rUpd n 0) 27 27 == 1 && r.rpres, r.remv, s.rf (0x0070500 + 4 * k.d) 3 0⟩

/-- Every element of an OPT, line by line. -/
def State.optRows (s : State) (k : TC) (r : OptRec) (p : OptPar) : List (List OptEl) :=
  let dst := k.tDst
  let gs := s.codes k k.tA
  let ws := s.codes k dst
  let row := fun (pl : Plane) (c : Nat) => s.rd k 0 (pl.base + c * pl.stride) pl.bytes
  (List.range dst.lines).map (fun c =>
    let ms := row (optPlane dst r.mb 2) c
    let vs := row (optPlane dst r.vb 2) c
    let qs := if r.rpres then row (optPlane dst r.rb 1) c else []
    let g := nth gs c []
    let w := nth ws c []
    (List.range dst.len).map (fun q =>
      optEl p (nth w q 0) (nth g q 0) (leNat ((ms.drop (2 * q)).take 2)) (leNat ((vs.drop (2 * q)).take 2)) (nth qs q 0)
        (fun i => rngY (s.keyOf k.d) (k.stream 12 + i) (k.rstep 12) (coordOf (dst.lorg + c) (dst.porg + q)))))

/-- The two records of an OPT: whether each can be read, what they hold, the layer entry, whether it keeps remainders. -/
structure OptCase where
  ok : Bool
  hok : Bool
  rcd : Nat
  hyp : Nat
  n : Nat
  remOn : Bool
  deriving DecidableEq, Repr

/-- A record that lies inside the Pane. -/
def Rng.inPane (r : Rng) : Bool := decide (r.a + r.n ≤ 2 ^ 19)

/-- The records as a visit of their words finds them (R201). -/
def State.optVisit (s : State) (k : TC) : State := s.rngTouch k ([k.optRecRng, k.optHypRng].filter Rng.inPane)

/-- The records as they are read. -/
def State.optCase (s : State) (k : TC) : OptCase :=
  let ok := k.optRecRng.inPane && s.sound k [k.optRecRng]
  let hok := k.optHypRng.inPane && s.sound k [k.optHypRng]
  let n := (s.layer k.d k.optLay).getD 0
  ⟨ok, hok, if ok then s.rdNat k 0 k.optRecRng.a 16 else 0, if hok then s.rdNat k 0 k.optHypRng.a 32 else 0, n,
    s.rf (rUpd n 0) 27 27 == 1⟩

/-- The ranges that OPT reads and writes. -/
def TC.optRds (k : TC) (c : OptCase) : List Rng :=
  k.tDst.lineAll ++ k.tA.lineAll ++ [k.optRecRng, k.optHypRng] ++
    (if c.ok then ((optRec c.rcd).planes k.tDst).flatMap (fun p => p.rngs k.tDst.lines) else [])
def TC.optWrs (k : TC) (c : OptCase) : List Rng :=
  k.tDst.lineAll ++
    (if c.ok then (((optRec c.rcd).planes k.tDst).take (if c.remOn then 3 else 2)).flatMap (fun p => p.rngs k.tDst.lines) else []) ++
    [k.optRecRng]

/-- OPT's faults. -/
def optAllFaults (s : State) (k : TC) (c : OptCase) : List (Option TFault) :=
  optFaults s k ++ optRecFaults k (optRec c.rcd) c.hyp c.ok c.hok

/-- OPT's effect: planes and records, status, the layer's bits and sums (R175 to R177). -/
def State.optDo (s : State) (k : TC) (c : OptCase) (p : OptPar) (rows : List (List OptEl)) : State :=
  let r := optRec c.rcd
  let els := rows.flatten
  let s1 := ((s.optWrite k r c.rcd p rows).optInject k.p k.tDst.base).optStatus k.p els
  let s2 := if els.any (fun e => e.upd && e.msat) then s1.raise (rUpd c.n 4) 0 else s1
  let s3 := if els.any (fun e => !e.upd) then s2.raise (rUpd c.n 4) 1 else s2
  let s4 := if c.remOn && !r.rpres then s3.raise (rUpd c.n 4) 2 else s3
  s4.contribute k.x c.n (LaySum.addOpt els)

/-- OPT's course: check, compute, compare (TWIN), write, count. -/
def optBody (s : State) (k : TC) : TRes :=
  let c := (s.optVisit k).optCase k
  withRanges s k (optAllFaults s k c) (k.optRds c) (k.optWrs c) (k.optRds c) (fun s =>
    let p := s.optPar k c.n (optRec c.rcd) c.hyp
    let rows := s.optRows k (optRec c.rcd) p
    twinned s k (fun s => .ok ⟨s.optDo k c p rows, paneOf (k.optRds c), paneOf (k.optWrs c), [], .plain, false, none⟩))

/-- OPT (R274). -/
def execOpt (d : Fin 4) (t : Fin 4096) (w : IFields) (ups : List Upset) (s : State) : Host.Outcome State Fault Refusal :=
  .next (issue d t 0x2A w ups optBody s)

end Sys2Proof.Machine
end

