-- ==== Sys2Proof/Machine/Complete.lean ====
section
/-! DEFINITION. Completion of instructions (R207, R244) and what waits for it: INSTRUCTION_COMPLETE, NUM_COMMIT, TOKEN_FORWARD;
the paging engine's own steps (R316 to R320) and the completion timeout (R489). -/

namespace Sys2Proof.Machine

/-! ### The instruction buffer -/

/-- The body of an opcode (R253). -/
def bodyOf (op : Nat) : State → TC → TRes :=
  match op with
  | 0x01 => moveBody (fun k => inPane k.tDst)
  | 0x02 => moveBody (fun k => inPane k.tA)
  | 0x03 => moveBody (fun _ => none)
  | 0x04 => tdldBody
  | 0x05 => tdstBody
  | 0x06 => tdadjBody
  | 0x10 => mmqBody
  | 0x11 => mmwBody
  | 0x12 => lrcBody
  | 0x18 => qntBody
  | 0x19 => dqtBody
  | 0x1A => rotBody
  | 0x1B => outxBody
  | 0x20 => rngBody
  | 0x21 => smpBody
  | 0x28 => ewoBody
  | 0x29 => redBody
  | 0x2A => optBody
  | 0x30 => crcBody
  | 0x31 => dgstBody
  | 0x38 => sendBody
  | 0x39 => recvBody
  | 0x3A => aredBody
  | 0x40 => syncBody
  | 0x41 => fun s k => if k.fmt = 1 then tokenBody s k else stepBody s k
  | 0x42 => fenceBody
  | 0x43 => blkendBody
  | 0x44 => brBody
  | 0x50 => saluBody
  | 0x51 => sliBody
  | 0x52 => pcmpBody
  | 0x53 => plogBody
  | 0x54 => getsBody
  | 0x55 => setsBody
  | _ => unassignedBody

/-- R207: buffered instructions of a tile issue as far as they can. -/
def State.pump (s : State) (d t : Nat) : State := pumpBuf bodyOf d t (s.lt d t).ibuf s

/-- Every tile's buffer of casement d. -/
def State.pumpAll (s : State) (d : Nat) : State := (List.range (s.casement d).nlt).foldl (fun s t => s.pump d t) s

/-! ### INSTRUCTION_COMPLETE -/

/-- A tree reduction goes on (R273): it waits for a partner, or its root writes DST or faults. -/
def State.redComplete (s : State) (d t id : Nat) (x : RedOp) : State :=
  match s.redRun d t 16 x with
  | .waits s1 y => s1.setInc d t id (.red y)
  | .root s1 y =>
    match s1.redRoot d t y with
    | (s2, none) => s2.retire d t id
    | (s2, some f) => (s2.retire d t id).raiseFault d t f x.iaddr x.iword

/-- Instruction id of tile t completes, if what it waits for has happened: its ranges and registers are free (R207, R244). -/
def State.complete (s : State) (d t id : Nat) : State :=
  match (s.lt d t).inc.find? (fun i => i.id == id) with
  | none => s
  | some i =>
    match i.kind with
    | .plain => (s.retire d t id).pump d t
    | .ared => (s.retire d t id).pump d t
    | .recv n c =>
      let x := s.lt d t
      if c ≤ x.acnt n then
        (((s.setLt d t (x.setAc n (x.acnt n - c))).grant (arbPlace (s.dispOf d t))).retire d t id).pump d t
      else s
    | .red x => (s.redComplete d t id x).pumpAll d
    | .send _ => s
    | .step => s
    | .token => s

/-- INSTRUCTION_COMPLETE (R207). -/
def execInstructionComplete (d : Fin 4) (t : Fin 4096) (id : Nat) (s : State) : Host.Outcome State Fault Refusal :=
  .next (s.complete d t id)

/-- NUM_COMMIT (R138). -/
def execNumCommit (d : Fin 4) (s : State) : Host.Outcome State Fault Refusal :=
  .next (if s.commitReady d && !s.blkDown clsBlock 7 then (s.commit d).pumpAll d else s)

/-- TOKEN_FORWARD (R352). -/
def execTokenForward (d : Fin 4) (s : State) : Host.Outcome State Fault Refusal :=
  .next (match s.tokenForward d with
    | (s1, some o) => (s1.setInc d o.1 o.2 .plain).pump d o.1
    | (s1, none) => s1)

/-! ### Paging (R316 to R320) -/

/-- The casement's paging engine works; a fenced PGA block does not (R374). -/
def State.paging (s : State) (d : Nat) : Bool := (s.casement d).exist && !s.blkDown clsBlock 10

/-- A paging action of casement d at the hub (R307), with the free lists as they read (R324): it waits, or goes on. -/
def State.pagingAct (s : State) (d : Nat) (e : PageEnv) (go : State → State) : State :=
  match s.hubGrant d e.others with
  | (false, s1) => s1
  | (true, s1) => go (s1.dropEntries d e.frBad e.hostBad)

/-- PAGE_OUT (R316, R317): free frames have fallen below OUT_WM. -/
def execPageOut (d : Fin 4) (e : PageEnv) (s : State) : Host.Outcome State Fault Refusal :=
  .next (if s.paging d && decide (s.freeFrames d < s.rf (rPga d 0xC) 15 0) then
      s.pagingAct d e (fun s => match s.victimPoison d 1 [] with
        | some x => s.pagingFault d x
        | none => s.pageOut d)
    else s)

/-- R318: the leaf of a page that a demand page-in may bring back. -/
def State.pagedOut (s : State) (d v : Nat) : Bool :=
  match s.walk d (v * frameBytes) with
  | .leaf _ e => leOff e && !leRes e && !leHost e && leFrame e != frameNone
  | _ => false

/-- The poisoned entry of a page's walk. -/
def State.walkPoison (s : State) (d v : Nat) : Option Nat :=
  match s.walk d (v * frameBytes) with
  | .poison x => some x
  | _ => none

/-- R318, R324: the page-in of page v, and the instructions that waited for it; without a frame they fault as they try again (R313). -/
def State.bringIn (s : State) (d v : Nat) (demand : Bool) : State :=
  match (if s.freeFrames d = 0 then s.victimPoison d 1 [] else none) with
  | some x => s.pagingFault d x
  | none =>
    match s.pageIn d v demand with
    | some s1 => s1.pumpAll d
    | none => if demand then (s.noFrame d).pumpAll d else s

/-- PAGE_IN_DEMAND (R318): the page of address va; instructions that waited for it try again. -/
def execPageInDemand (d : Fin 4) (va : Nat) (e : PageEnv) (s : State) : Host.Outcome State Fault Refusal :=
  let v := va / frameBytes
  .next (if s.paging d && decide (va < 2 ^ 48) && (s.pagedOut d v || (s.walkPoison d v).isSome) then
      s.pagingAct d e (fun s => match s.walkPoison d v with
        | some x => s.pagingFault d x
        | none => s.bringIn d v true)
    else s)

/-- R320: the pages at the AHEAD positions from the pointer. -/
def State.aheadPages (s : State) (d : Nat) : List Nat :=
  let c := s.casement d
  (c.trace.drop c.ptr).take (s.rf (rPga d 0x10) 11 4)

/-- R320: the next page to prefetch: the first that is not resident, or whose walk meets a poisoned entry. -/
def State.prefetchPage (s : State) (d : Nat) : Option Nat :=
  (s.aheadPages d).find? (fun v => s.pagedOut d v || (s.walkPoison d v).isSome)

/-- PAGE_IN_PREFETCH (R320). -/
def execPageInPrefetch (d : Fin 4) (e : PageEnv) (s : State) : Host.Outcome State Fault Refusal :=
  .next (if s.paging d && s.rf (rPga d 0x10) 0 0 == 1 && decide (s.rf (rPga d 0xC) 31 16 ≤ s.freeFrames d) then
      match s.prefetchPage d with
      | some v => s.pagingAct d e (fun s => match s.walkPoison d v with
          | some x => s.pagingFault d x
          | none => s.bringIn d v false)
      | none => s
    else s)

/-- COMPLETION_TIMEOUT (R489, R325): n bytes of host data for casement d arrive poisoned, as free values, in the units of the casement
that they were to fill: a Pane, its scratchpad, or its HBM through the home slices, where a page-in fills whole chunks. -/
def execCompletionTimeout (d : Fin 4) (dst : HostDst) (n : Nat) (s : State) : Host.Outcome State Fault Refusal :=
  let bs := (rangeFrom s.free n).map (fun i => ((Config.freeByte i).toNat, true))
  let s1 := { s with free := s.free + n }
  let ev := fun (s : State) => (s.aerSet (s.casement d).owner aerTimeout).post { kind := 7, unit := d, ctag := s.tagOf d }
  .next (if !(s.casement d).exist then s
    else match dst with
    | .pane p off => if p < 640 ∧ bit (s.mask d) (dieOfTile p) = true ∧ off + n ≤ 2 ^ 19 then ev (s1.paneWrite p off bs) else s
    | .spad off => if off + n ≤ s.partSize d then ev (s1.spadWrite d off bs) else s
    | .hbm x => if x % 32 = 0 ∧ n % 32 = 0 ∧ x + n ≤ paSize (s.mask d) then ev ((s1.paWrite d x bs .demandIn).raise (rPga d 0x20) 3) else s)

end Sys2Proof.Machine
end

