-- ==== Sys2Proof/Machine/Access.lean ====
section
/-! DEFINITION. Access to BAR0 (R7 to R14, R375, R396): who sees what, reads and writes by type code, the unlock window, and
what a write of each register with a rule of its own does. -/

namespace Sys2Proof.Machine

/-! ### Requesters -/

/-- The bank of INT_HUNLK_* of a requester that can unlock (R375). -/
def rqBank : Req → Option Nat
  | .fn f => if f.val = 0 then some 0 else none
  | .mgt => some 1
  | .pkc => some 2

/-- A virtual function's number. -/
def rqVf : Req → Option Nat
  | .fn f => if f.val = 0 then none else some f.val
  | _ => none

/-- R395: a function reaches BAR0 over a link that is up once configuration space is loaded. -/
def State.reaches (s : State) : Req → Bool
  | .fn _ => s.boot.cfg && s.boot.link
  | _ => true

/-- The key of a register: the MSI-X tables are each function's own. -/
def rqKey (rq : Req) (off : Nat) : Nat :=
  match rq with
  | .fn f => if 0x3FF0000 ≤ off then f.val * 2 ^ 26 + off else off
  | _ => off

/-- The tag of the casement that a function holds alone (for its own access-error events). -/
def State.rqTag (s : State) (rq : Req) : Nat :=
  match rqVf rq with
  | some f => ((s.ownCas f).map s.tagOf).getD 0
  | none => 0

/-- An access-error event: the grant's number and the offset (R7, R11, R493). -/
def State.accEv (s : State) (rq : Req) (off n : Nat) : State :=
  s.post { kind := 3, ctag := s.rqTag rq, arbseq := n, info := off }

/-! ### What a virtual function sees (R14) -/

/-- How a register shows to a function: not at all, whole, read only, one bit of it. -/
inductive View where
  | none
  | full
  | ro
  | one (d : Nat)
  deriving DecidableEq, Repr

/-- The registers of NUM that are indexed by casement: base and stride (R115, R141, R151, R182). -/
def numIndexed : List (Nat × Nat) :=
  [(0x0070100, 4), (0x0070110, 4), (0x0070120, 4), (0x0070200, 4), (0x0070220, 4), (0x0070240, 4), (0x0070250, 4), (0x0070260, 4),
   (0x0070500, 4), (0x0070300, 0x20)]

/-- Offset o lies in [a, a + n). -/
def within (o a n : Nat) : Bool := decide (a ≤ o ∧ o < a + n)

/-- The part of BAR0 that belongs to casement d (R14). DESIGN CHOICE (log 71): of the registers of a die, slice or port without a
visibility rule, TRN_ECCs is in it, and INT_IFT_CNTd, INT_MESH_ERRd and INT_RDCHKp are not. -/
def State.casView (s : State) (d off : Nat) : View :=
  let mask := s.mask d
  if numIndexed.any (fun x => within off (x.1 + x.2 * d) x.2) then .full
  else if within off (0x0070400 + 8 * d) 8 then .ro
  else if off = 0x0070F00 then .one d
  else if within off 0x0080000 0x20000 then (if (s.layersOf d).contains ((off - 0x0080000) / 0x20) then .full else .none)
  else if within off 0x00A0000 0x10000 then (if (s.layersOf d).contains ((off - 0x00A0000) / 0x10) then .full else .none)
  else if within off (0x0061000 + 0x40 * d) 0x40 then .full
  else if within off 0x0100000 0x18000 then (if (stacksOf mask).contains ((off - 0x0100000) / 0x1000) then .full else .none)
  else if within off (0x0180000 + 4 * d) 4 || within off (0x0180010 + 4 * d) 4 then .full
  else if within off (0x0180020 + 4 * d) 4 then .ro
  else if within off 0x0180100 0x40 then (if (slicesOf mask).contains ((off - 0x0180100) / 4) then .full else .none)
  else if within off (rPga d 0) 0x100 then .full
  else if within off (rFab d 0) 0x1C then .ro
  else if within off 0x0800000 0x280000 then (if bit mask (dieOfTile ((off - 0x0800000) / 0x1000)) then .full else .none)
  else .none

/-- R14, R419, R469: what VF f sees. -/
def State.vfView (s : State) (f off : Nat) : View :=
  if within off 0 0x10000 then .ro
  else if within off (0x0040000 + 0x100 * f) 0x100 || within off (0x0050000 + 0x100 * f) 0x100 || within off 0x3FF0000 0x10000 then .full
  else match s.ownCas f with
    | some d => s.casView d off
    | none => .none

/-- What a requester sees; only the PF and the management path reach INT_INJ_* (R370). -/
def State.view (s : State) (rq : Req) (off : Nat) : View :=
  match rqVf rq with
  | some f => s.vfView f off
  | none =>
    match rq with
    | .fn _ => .full
    | .pkc => if 0x3FF0000 ≤ off || within off 0x0060100 0x10 then .none else .full
    | .mgt => if 0x3FF0000 ≤ off then .none else .full

/-! ### Reads (R8 to R10) -/

/-- The value a register shows to a requester. -/
def State.regShow (s : State) (rq : Req) (off : Nat) : Nat :=
  let u := Assoc.get s.unlock ((rqBank rq).getD 3) Unlock.reset
  if off = 0x0060010 then u.adr
  else if off = 0x0060014 then u.len
  else if off = 0x006001C then b2n u.open_ + u.left * 2
  else if within off 0x0061000 0x200 && off % 0x40 == 8 && s.rf (off - 8) 1 0 != 2 then 0
  else
    let v := (s.shown (rqKey rq off)).toNat
    if (s.copies off) = HCopy.three then v else s.hread off v

/-- The RC bits of a register are cleared by a read (R8). -/
def State.readClear (s : State) (key : Nat) : State :=
  match rowAt (key % 2 ^ 26) with
  | some r => s.setReg key (BitVec.ofNat 32 (mergeBits (s.reg key).toNat 0 (r.mask (fun t => t == .rc))))
  | none => s

/-- R448: in the safe state BAR0 serves IDN, RST and LCB. -/
def State.unserved (s : State) (rq : Req) (off : Nat) : Bool :=
  s.isSafe && decide (0x0030000 ≤ off) && (match rq with | .fn _ => true | _ => false)

/-- A read of one register. -/
def State.rd32 (s : State) (rq : Req) (off : Nat) : State × Nat :=
  if s.unserved rq off then (s, 0xFFFFFFFF)
  else
    let s1 := s.grant (arbReg off)
    if (rowAt off).isNone then (s1, 0)
    else match s.view rq off with
      | .none => (s1, 0)
      | .one d => (s1, s.regShow rq off &&& 2 ^ d)
      | _ => ((if (heldCopy (s.copies off)).isSome then s1 else s1.draw).readClear (rqKey rq off), s.regShow rq off)

/-! ### The unlock window (R375) -/

def State.bank (s : State) (b : Nat) : Unlock := Assoc.get s.unlock b Unlock.reset
def State.setBank (s : State) (b : Nat) (u : Unlock) : State := { s with unlock := Assoc.put s.unlock b u Unlock.reset }

/-- The requester's window is open over the register. -/
def State.unlocked (s : State) (rq : Req) (off : Nat) : Bool :=
  match rqBank rq with
  | some b => (s.bank b).open_ && within off (s.bank b).base (4 * (s.bank b).span)
  | none => false

/-- The window closes. -/
def Unlock.shut (u : Unlock) : Unlock := { u with open_ := false, left := 0 }

/-- A write outside the window closes it. -/
def State.windowAt (s : State) (rq : Req) (off : Nat) : State :=
  match rqBank rq with
  | some b => if (s.bank b).open_ && !s.unlocked rq off then s.setBank b (s.bank b).shut else s
  | none => s

/-- One accepted write inside the window. -/
def State.windowUse (s : State) (rq : Req) : State :=
  match rqBank rq with
  | some b =>
    let u := s.bank b
    s.setBank b (if u.left ≤ 1 then u.shut else { u with left := u.left - 1 })
  | none => s

/-- Writes of INT_HUNLK_ADR, LEN and KEY. -/
def State.hunlk (s : State) (rq : Req) (off v n : Nat) : State :=
  match rqBank rq with
  | none => s
  | some b =>
    let u := (s.bank b).shut
    if off = 0x0060010 then s.setBank b { u with adr := fld v 24 2 * 4 }
    else if off = 0x0060014 then s.setBank b { u with len := fld v 17 0 }
    else if v = 0x6A5C93F1 then
      s.setBank b { u with open_ := true, base := u.adr, span := max 1 u.len, left := max 1 u.len }
    else if v = 0 then s.setBank b u
    else (s.setBank b u).accEv rq off n

/-! ### Writes by type code (R8) -/

/-- The value after a write: RW bits, HRW bits when hrw, RW1C and RW1S bits. -/
def wrVal (r : RRow) (old v : Nat) (hrw : Bool) : Nat :=
  let a := mergeBits old v (r.mask (fun t => t == .rw || (t == .hrw && hrw)))
  let b := a - (a &&& (v &&& r.mask (fun t => t == .rw1c)))
  b ||| (v &&& r.mask (fun t => t == .rw1s))

def State.wrGen (s : State) (key v : Nat) (hrw : Bool) : State :=
  match rowAt (key % 2 ^ 26) with
  | some r => s.setReg key (BitVec.ofNat 32 (wrVal r (s.reg key).toNat v hrw))
  | none => s

/-! ### Writes that a rule refuses with an event -/

/-- R337: a port is not down. -/
def State.portsBusy (s : State) : Bool := (List.range 8).any (fun p => s.portState p != 0)

/-- FAB_FLOOR: the floors exceed the pool, or M0's is too low (R363). -/
def floorBad (v : Nat) : Bool :=
  decide (6144 < 32 * (fld v 7 0 + fld v 15 8 + fld v 23 16 + fld v 31 24) ∨ fld v 7 0 < 16)

/-- R304, R337, R351, R363, R370: an unlocked write that is refused. -/
def State.refuses (s : State) (off v : Nat) : Bool :=
  if within off 0x0180000 0x10 then (s.casement ((off - 0x0180000) / 4)).phase != .idle
  else if off = 0x0200000 then s.portsBusy
  else if off = 0x0200008 then floorBad v
  else if off = 0x0060100 then bit v 8 && s.rf 0x006010C 0 0 == 1
  else if isEntry off then (s.entryWrite off (BitVec.ofNat 32 v)).isNone
  else false

/-! ### Rings (R418, R419) -/

/-- The function and the ring of an offset in the ITK or EVT block. -/
def ringOf (off : Nat) : Nat × Bool := (off % 0x10000 / 0x100, decide (0x0050000 ≤ off))

/-- R419: a write of a ring's base. -/
def State.ringBaseWr (s : State) (rq : Req) (off v n : Nat) : State :=
  let r := ringOf off
  if s.ringEn r.1 r.2 then s.accEv rq off n else s.wrGen off v false

/-- R419: a write of a ring's CTL. -/
def State.ringCtlWr (s : State) (rq : Req) (off v n : Nat) : State :=
  let r := ringOf off
  if s.ringEn r.1 r.2 then
    let bad := min 10 (fld v 3 0) != min 10 (s.rf off 3 0)
    let s1 := (s.setRf off 4 4 (fld v 4 4)).setRf off 14 8 (fld v 14 8)
    if bad then s1.accEv rq off n else s1
  else
    let s1 := s.wrGen off v false
    if bit v 4 then
      ((s1.setReg (ringWin r.1 r.2 + 0x1C) (BitVec.ofNat 32 (mergeBits (s1.reg (ringWin r.1 r.2 + 0x1C)).toNat 0 0xFFFF))).setReg
        (ringWin r.1 r.2 + 0x20) 0).setRingPhase r.1 r.2 true
    else s1

/-- R418: a write of a ring's head register. -/
def State.ringHeadWr (s : State) (off v : Nat) : State :=
  let r := ringOf off
  (s.wrGen off v false).ringSignal r.1 r.2

/-! ### Check-value units (R388 to R392) -/

def rCvu (u o : Nat) : Nat := 0x0061000 + 0x40 * u + o
def State.cvuPoly (s : State) (u : Nat) : CrcPoly := crcPoly (s.rf (rCvu u 0) 1 0)
def State.cvuVal (s : State) (u : Nat) : Nat := (s.reg (rCvu u 4)).toNat + (s.reg (rCvu u 8)).toNat * 2 ^ 32
def State.setCvu (s : State) (u v : Nat) : State :=
  (s.setReg (rCvu u 4) (BitVec.ofNat 32 v)).setReg (rCvu u 8) (BitVec.ofNat 32 (v / 2 ^ 32))
/-- R389: n bytes of v are fed, the lowest first. -/
def State.cvuFeed (s : State) (u n v : Nat) : State := s.setCvu u (crcFeeds (s.cvuPoly u) (s.cvuVal u) (leBytes n v))
/-- R390: VAL := combine(VAL, b, L). -/
def State.cvuCombine (s : State) (u : Nat) : State :=
  let b := (s.reg (rCvu u 0x18)).toNat + (s.reg (rCvu u 0x1C)).toNat * 2 ^ 32
  let l := (s.reg (rCvu u 0x20)).toNat + (s.reg (rCvu u 0x24)).toNat * 2 ^ 32
  s.setCvu u (crcCombine (s.cvuPoly u) (s.cvuVal u) b l)
def State.cvuEmpty (s : State) (u : Nat) : State := s.setCvu u (crcEmpty (s.cvuPoly u))

/-- R392: a write into unit u's registers. -/
def State.cvuWr (s : State) (off v : Nat) : State :=
  let u := (off - 0x0061000) / 0x40
  match off % 0x40 with
  | 0x00 => (s.wrGen off v false).cvuEmpty u
  | 0x08 => if s.rf (rCvu u 0) 1 0 = 2 then s.wrGen off v false else s
  | 0x0C => s.cvuFeed u 1 v
  | 0x10 => s.cvuFeed u 2 v
  | 0x14 => s.cvuFeed u 4 v
  | 0x28 => match fld v 1 0 with
    | 1 => s.cvuCombine u
    | 2 => s.cvuEmpty u
    | _ => s
  | _ => s.wrGen off v false

/-! ### NUM: writes that wait for a commit (R139, R152, R184) -/

/-- Registers whose writes wait for the next commit: thresholds, NUM_LAD_CTL, NUM_UPD_CTL, layer table fields. -/
def isStaged (off : Nat) : Bool :=
  within off 0x0070300 0x80 || within off 0x0070220 0x10 || within off 0x0070500 0x10 ||
    (within off 0x0080000 0x20000 && decide (off % 0x20 < 0x0C)) || (within off 0x00A0000 0x10000 && off % 0x10 == 0)

/-- R183: written values of GSX are clamped. -/
def gsxClamp (v : Nat) : Nat := setFld v 23 16 (wrap (max (-64) (min 63 (sext (fld v 23 16) 8))) 8)

/-- A staged write; one of NUM_UPDn_CFG whose GSX differs from that in force is a GSX write (R184); one that leaves GSX as it
stands leaves a GSX write that still waits in place. -/
def State.stageWr (s : State) (off v : Nat) : State :=
  if isUpdCfg off then
    let w := gsxClamp v
    let n := (off - 0x00A0000) / 0x10
    if fld w 23 16 = s.rf off 23 16 then s.stage off (BitVec.ofNat 32 (setFld w 23 16 (rfld (s.merged off) 23 16)))
    else (s.stage off (BitVec.ofNat 32 w)).setLay n { s.lay n with gsxw := true }
  else s.stage off (BitVec.ofNat 32 v)

/-- R152: no instruction of the casement is issued and incomplete. -/
def State.casQuiet (s : State) (d : Nat) : Bool := (s.ltList d).all (fun x => x.2.inc.isEmpty)

/-- R152: a write of a key register. -/
def State.keyWr (s : State) (off v : Nat) : State :=
  if s.casQuiet ((off - 0x0070400) / 8) then
    { s.setReg off (BitVec.ofNat 32 v) with staged := Assoc.put s.staged off none none }
  else s.stage off (BitVec.ofNat 32 v)

/-! ### Ports (R328, R363) -/

/-- EN and RETRAIN of a port; n is the number of the write's grant. -/
def State.portCtl (s : State) (off v n : Nat) : State :=
  let p := (off - 0x0201000) / 0x100
  let s1 := s.wrGen off v false
  if !bit v 0 then (if s1.blkDown 4 p || s1.portState p == 0 then s1 else s1.linkGone p 0 false n)
  else if bit v 1 && s1.mayTrain p then (if s1.portUp p then s1.linkGone p 1 false n else s1.setRf (rPort p 0) 2 0 1)
  else s1

/-! ### Block reset bits (R449) -/

def isRstBit (off : Nat) : Bool := within off 0x0010100 0x64

/-- The reset bits newly requested are set; while everything is held they are only recorded (R431, R435). -/
def State.rstWr (s : State) (off v : Nat) : State :=
  let s1 := s.wrGen off v false
  if s1.reg off = s.reg off then s
  else if s.blkHeld (if off = 0x0010160 then 5 else 0) then s.seen 8
  else (s1.cause 8).sealReset 8

/-! ### MSI-X (R418) -/

/-- A vector that is unmasked while it is pending is sent. -/
def State.msixWr (s : State) (key v : Nat) : State :=
  let s1 := s.wrGen key v false
  let f := key / 2 ^ 26
  let n := (key % 2 ^ 26 - 0x3FF0000) / 16
  if key % 16 = 12 ∧ bit v 0 = false ∧ s1.rf (pbaKey f n) (n % 32) (n % 32) = 1 then
    (s1.setRf (pbaKey f n) (n % 32) (n % 32) 0).sendVec f n
  else s1

/-! ### Scratchpad ways (R298, R304) -/

/-- Each slice's cached lines go back to HBM and leave. -/
def State.flushSlices (s : State) (d : Nat) : State :=
  (slicesOf (s.mask d)).foldl (fun s sl => (s.linesOf sl).foldl (fun s l => s.lineBack sl l) s) s

/-- A write of SPW: ways that change their use first lose their lines (DESIGN CHOICE, log 14). -/
def State.spwWr (s : State) (off v : Nat) : State :=
  if min 16 (fld v 4 0) = min 16 (s.rf off 4 0) then s.wrGen off v true
  else (s.flushSlices ((off - 0x0180000) / 4)).wrGen off v true

/-! ### One write -/

/-- A write that is admitted: the rule of the register, or its type codes. u: what happens from outside meanwhile. -/
def State.wrAt (s : State) (rq : Req) (off v n : Nat) (u : During) : State :=
  if off = 0x0010024 then (if rq = .pkc ∧ v ≠ 0x5A5A then s.wideReset u.sh 5 else s)
  else if isRstBit off then s.rstWr off v
  else if off = 0x0020004 then (if bit v 3 then s.lcRequest rq (fld v 2 0) s.hostToken n else s)
  else if off = 0x0020800 then (if bit v 0 then s.sealRequest else s)
  else if off = 0x0030000 then s.fwuCmd rq (fld v 3 0) u n
  else if within off 0x0040000 0x20000 && decide (off % 0x10000 < 0x1000) then
    (match off % 0x100 with
     | 0x10 => s.ringBaseWr rq off v n
     | 0x14 => s.ringBaseWr rq off v n
     | 0x18 => s.ringCtlWr rq off v n
     | 0x1C => s.ringHeadWr off v
     | _ => s.wrGen off v false)
  else if within off 0x0060010 0x0C then s.hunlk rq off v n
  else if off = 0x0060100 then
    (let s1 := s.wrGen off v true
     if bit v 8 then s1.setRf 0x006010C 0 0 1 else s1)
  else if within off 0x0061000 0x200 then s.cvuWr off v
  else if within off 0x0070400 0x20 then s.keyWr off v
  else if within off 0x0180000 0x10 then s.spwWr off v
  else if isStaged off then s.stageWr off v
  else if within off 0x0201000 0x800 && off % 0x100 == 4 then s.portCtl off v n
  else if within off 0x0202000 0x100 && off % 0x40 == 0x14 then s.fabCmd ((off - 0x0202000) / 0x40) (fld v 2 0) n
  else if 0x3FF0000 ≤ off then s.msixWr (rqKey rq off) v
  else s.wrGen off v true

/-- A write of one register (R8, R9, R11, R14, R375); a fenced block takes none (R374), RST_WDT only the Package Controller's (R449). -/
def State.wr32 (s : State) (rq : Req) (off v : Nat) (u : During) : State :=
  if !s.reaches rq || s.unserved rq off then s
  else
    let n := s.arbN (arbReg off)
    let s1 := (s.grant (arbReg off)).windowAt rq off
    let v := v % 2 ^ 32
    if (rowAt off).isNone then s1
    else match s.view rq off with
      | .none => s1
      | .ro => if hrwMask off = 0 then s1 else s1.accEv rq off n
      | .one d => s1.setRf off d d (fld v d d)
      | .full =>
        if s1.blkDown clsBlock (blockOf off) then s1.refuse
        else if hrwMask off = 0 then s1.wrAt rq off v n u
        else if !s1.unlocked rq off || s1.refuses off v then s1.accEv rq off n
        else if off = 0x0010020 ∧ rq ≠ .pkc then s1
        else ((s1.wrAt rq off v n u).heal off).windowUse rq

/-- A 64-bit access covers two registers, the lower first (R7). -/
def State.wrReg (s : State) (rq : Req) (off : Nat) (wide : Bool) (v : Nat) : State :=
  let s1 := s.wr32 rq off v .none
  if wide then s1.wr32 rq (off + 4) (v / 2 ^ 32) .none else s1

def State.rdReg (s : State) (rq : Req) (off : Nat) (wide : Bool) : State × Nat :=
  let a := s.rd32 rq off
  if wide then let b := a.1.rd32 rq (off + 4); (b.1, a.2 + b.2 * 2 ^ 32) else a

/-- R7: an access of another width or alignment: all ones, or nothing written, and an access-error event; so too for a VF outside its
subset, where R14 has a read return 0 (DESIGN CHOICE, log 2). A write outside the requester's window closes it (R375). -/
def State.badAccess (s : State) (rq : Req) (off width : Nat) (wr : Bool) : State :=
  if !s.reaches rq then s
  else
    let s1 := (s.grant (arbReg off)).accEv rq off (s.arbN (arbReg off))
    if wr then s1.windowAt rq (off / 4 * 4) else s1.emit (.reg rq off width (2 ^ (8 * width) - 1))

/-- The access is of 32 or of 64 bits and naturally aligned. -/
def aligned (off : Nat) (wide : Bool) : Bool := off % (if wide then 8 else 4) == 0

end Sys2Proof.Machine
end

