-- ==== Sys2Proof/Machine/Intake.lean ====
section
/-! DEFINITION. Intake (14_host_interface.md R398 to R405, R490): the windows, acceptance of command blocks, the course of a
command and its checks, completion records (R413 to R415). -/

namespace Sys2Proof.Machine

/-! ### The window and the block at READ (R398, R399) -/

def winBytes : Nat := 2 ^ 20
def rItk (f o : Nat) : Nat := 0x0040000 + 0x100 * f + o

def State.winRead (s : State) (f off n : Nat) : List Nat := (Assoc.slice s.window (f * winBytes + off) n 0).map BitVec.toNat
def State.winWrite (s : State) (f off : Nat) (bs : List Nat) : State :=
  { s with window := Assoc.splice s.window (f * winBytes + off) (bs.map (BitVec.ofNat 8)) 0 }

def State.itkRead (s : State) (f : Nat) : Nat := s.rf (rItk f 8) 19 0
def State.itkNext (s : State) (f : Nat) : Nat := (s.reg (rItk f 4)).toNat

/-- R396: what a read of BAR2 returns: a function's own window; in the PF's BAR2 the window of VF n at n MiB. -/
def State.bar2Read (s : State) (f off n : Nat) : List Nat :=
  if f = 0 then s.winRead (off / winBytes) (off % winBytes) n else s.winRead f off n

/-- LEN of the block at READ, in bytes. -/
def State.headLen (s : State) (f : Nat) : Nat := 64 * fld (nth (s.winRead f (s.itkRead f + 1) 1) 0 0) 6 0

/-- The block at READ: SEQ equals NEXT, LEN is valid, it ends within the window (R400). -/
def State.headOk (s : State) (f : Nat) : Bool :=
  let n := s.headLen f
  leNat (s.winRead f (s.itkRead f + 4) 4) == s.itkNext f && decide (64 ≤ n ∧ n ≤ 4096 ∧ s.itkRead f + n ≤ winBytes)

/-- The block at READ. -/
def State.headBytes (s : State) (f : Nat) : List Nat := s.winRead f (s.itkRead f) (s.headLen f)

/-- R399: the trailer is the CRC-32C of the bytes before it. -/
def crcOk (b : List Nat) : Bool :=
  let n := b.length - 4
  leNat (b.drop n) == crcFeeds (crcPoly 0) (crcEmpty (crcPoly 0)) (b.take n)

/-! ### INTAKE_WRITE, BLOCK_ACCEPT (R395, R400 to R402) -/

/-- R401: a write of [off, off + n) that covers the trailer of a block whose CRC does not match. -/
def State.badCrc (s : State) (f off n : Nat) : State :=
  let e := s.itkRead f + s.headLen f
  if s.headOk f && decide (off ≤ e - 4 ∧ e ≤ off + n) && !crcOk (s.headBytes f) then
    ((s.raise (rItk f 0) 2).count (rItk f 0xC) 31 16 1).post { kind := 6, unit := f, info := s.itkRead f }
  else s

/-- INTAKE_WRITE (R395, R396, R400 to R402): a write of BAR2; VF windows in the PF's BAR2 are read-only. -/
def execIntakeWrite (f : Fin 16) (off : Nat) (bytes : List Nat) (s : State) : Host.Outcome State Fault Refusal :=
  let bs := bytes.take (winBytes - off)
  .next (if !s.reaches (.fn f) then s
    else if (s.fn f).d3 || s.isSafe then s.refuseTlp f
    else if winBytes ≤ off then s
    else if s.blkDown 5 0 then s.refuse
    else
      let s1 := (s.grant arbAccept).winWrite f off bs
      (s1.setFn f { s1.fn f with exam := true }).badCrc f off bs.length)

def queueMax : Nat := 64

/-- R400: the block at READ is accepted. -/
def State.accepts (s : State) (f : Nat) : Bool :=
  (s.fn f).exam && s.isReady && !(s.fn f).d3 && !s.blkDown 5 0 && s.headOk f && crcOk (s.headBytes f) &&
    decide ((s.fn f).q.length < queueMax)

/-- QFULL shows a full queue. -/
def State.showQfull (s : State) (f : Nat) : State := s.setRf (rItk f 0) 1 1 (b2n (decide (queueMax ≤ (s.fn f).q.length)))

def State.accept (s : State) (f : Nat) : State :=
  let aseq := s.arbN arbAccept
  let s1 := s.grant arbAccept
  let s2 := s1.setFn f { s1.fn f with q := (s1.fn f).q ++ [⟨s.headBytes f, aseq⟩] }
  let s3 := (s2.setRf (rItk f 8) 19 0 ((s.itkRead f + s.headLen f) % winBytes)).setReg (rItk f 4) (s2.reg (rItk f 4) + 1)
  (s3.count (rItk f 0xC) 15 0 1).showQfull f

/-- BLOCK_ACCEPT (R400). -/
def execBlockAccept (f : Fin 16) (s : State) : Host.Outcome State Fault Refusal :=
  .next (if s.accepts f then s.accept f else s)

/-! ### A command's course (R403, R404, R413 to R415) -/

/-- A block's fields (R399). -/
structure Cmd where
  type : Nat
  rsv : Bool
  ctag : Nat
  seq : Nat
  tag : Nat
  aseq : Nat
  body : Nat
  deriving DecidableEq, Repr

def QBlk.cmd (b : QBlk) : Cmd :=
  let h := leNat (b.bytes.take 16)
  ⟨fld h 7 0, bit h 15, fld h 31 16, fld h 63 32, fld h 127 64, b.aseq, leNat ((b.bytes.drop 16).take (b.bytes.length - 20))⟩

/-- Bits [hi:lo] of the body. -/
def Cmd.f (k : Cmd) (hi lo : Nat) : Nat := fld k.body hi lo

/-- R406: the command types. -/
def cmdTypes : List Nat := [0x01, 0x02, 0x10, 0x11, 0x12, 0x20, 0x21, 0x22, 0x23, 0x30, 0x31, 0x32, 0x40]

/-- R414: the status codes. -/
def stOk : Nat := 0x00
def stBadType : Nat := 0x01
def stBadField : Nat := 0x02
def stDenied : Nat := 0x03
def stState : Nat := 0x04
def stRejected : Nat := 0x06
def stAddress : Nat := 0x07
def stNoRes : Nat := 0x08
def stStarted : Nat := 0x10
def stDone : Nat := 0x11

/-- What a command's execution comes to: it does not start yet, it goes on, or it completes with a status and a RESULT. -/
inductive CmdOut where
  | later
  | wait (s : State)
  | done (s : State) (status result : Nat)

/-- The command at the front has completed: its block leaves the queue and its record waits for the ring. -/
def State.finish (s : State) (f : Nat) (k : Cmd) (status result : Nat) : State :=
  let x := s.fn f
  (s.setFn f { x with q := x.q.drop 1, exam := true, busy := false
                      recs := x.recs ++ [⟨k.seq, k.type, status, k.tag, k.aseq, result⟩] }).showQfull f

/-- The block at the front of a function's queue, when it may execute: the records of earlier commands are written and the
completion ring can take another (R403, R415); a shutter of the intake engine holds what has not started (R429). -/
def State.frontCmd (s : State) (f : Nat) : Option Cmd :=
  match (s.fn f).q with
  | b :: _ => if (s.fn f).recs.isEmpty && s.ringReady f false && ((s.fn f).busy || !s.blkDown 5 0) then some b.cmd else none
  | [] => none

/-- Execute the front block if p admits its TYPE. -/
def State.runCmd (s : State) (f : Nat) (p : Nat → Bool) (go : State → Cmd → CmdOut) : State :=
  match s.frontCmd f with
  | none => s
  | some k =>
    if p k.type then
      match go s k with
      | .later => s
      | .wait s1 => s1.setFn f { s1.fn f with busy := true }
      | .done s1 st res => s1.finish f k st res
    else s

/-! ### Checks (R404, R490) -/

/-- The bits of the fields of a body. -/
def maskOf (l : List (Nat × Nat)) : Nat := l.foldl (fun a x => a + (2 ^ (x.1 + 1 - x.2) - 1) * 2 ^ x.2) 0

/-- R404 check 2, in part: reserved header bit and unused body bytes are 0. -/
def Cmd.plain (k : Cmd) (mask : Nat) : Bool := !k.rsv && (k.body &&& mask) == k.body

/-- R490: the casement a command of function f acts on; any: the PF may name every casement. -/
def State.named (s : State) (f ctag : Nat) (any : Bool) : Option Nat :=
  if ctag = 0 then (match s.casesOf f with | [d] => some d | _ => none)
  else match s.casOfTag ctag with
    | some d => if (s.casement d).owner = f ∨ (any = true ∧ f = 0) then some d else none
    | none => none

/-- A command that names no casement: fields, then PF only. -/
def State.freeCmd (s : State) (f : Nat) (k : Cmd) (mask : Nat) (ok pf : Bool) (go : State → CmdOut) : CmdOut :=
  if !k.plain mask || k.ctag != 0 || !ok then .done s stBadField 0
  else if pf && f != 0 then .done s stDenied 0
  else go s

/-- A command that acts on a casement: fields, rights, state. -/
def State.casCmd (s : State) (f : Nat) (k : Cmd) (mask : Nat) (ok pf any : Bool) (states : List CPhase) (go : State → Nat → CmdOut) :
    CmdOut :=
  if !k.plain mask || !ok then .done s stBadField 0
  else if pf && f != 0 then .done s stDenied 0
  else match s.named f k.ctag any with
    | none => .done s stDenied 0
    | some d => if states.contains (s.casement d).phase then go s d else .done s stState 0

/-- RESERVED_COMMAND_TYPE (R404 check 1). -/
def execReservedCommandType (f : Fin 16) (s : State) : Host.Outcome State Fault Refusal :=
  .next (s.runCmd f (fun t => !cmdTypes.contains t) (fun s _ => .done s stBadType 0))

/-- SKIP (R405). -/
def execSkip (f : Fin 16) (s : State) : Host.Outcome State Fault Refusal :=
  .next (s.runCmd f (· == 0x01) (fun s k => s.freeCmd f k 0 true false (fun s => .done s stOk 0)))

/-- NOP (R406). -/
def execNop (f : Fin 16) (s : State) : Host.Outcome State Fault Refusal :=
  .next (s.runCmd f (· == 0x02) (fun s k => s.freeCmd f k 0 true false (fun s => .done s stOk 0)))

/-! ### Completion records (R413, R415) -/

/-- R413: the 256 bits of a completion record. -/
def CRec.bits (r : CRec) (phase : Bool) : Nat :=
  r.seq % 2 ^ 32 + r.type % 2 ^ 8 * 2 ^ 32 + r.status % 2 ^ 8 * 2 ^ 40 + b2n phase * 2 ^ 63 + r.tag % 2 ^ 64 * 2 ^ 64
    + r.aseq % 2 ^ 48 * 2 ^ 128 + r.result % 2 ^ 64 * 2 ^ 192

/-- COMPLETION_RECORD_WRITE (R413, R415): the oldest record of function f that waits. -/
def execCompletionRecordWrite (f : Fin 16) (s : State) : Host.Outcome State Fault Refusal :=
  .next (match (s.fn f).recs with
    | r :: rest =>
      if s.ringReady f false then
        let s1 := s.setFn f { s.fn f with recs := rest }
        s1.ringWrite f false (leBytes 32 (r.bits (s.ringPhase f false)))
      else s
    | [] => s)

/-! ### BAR4 (R395, R420, R324, R307): a request waits for the hub's grant, then for those of the home slices -/

/-- The casement that a function's BAR4 shows. -/
def State.bar4Cas (s : State) (f : Nat) : Option Nat :=
  if f = 0 then
    let d := s.rf 0x0041000 1 0
    if s.rf 0x0041000 2 2 = 1 ∧ (s.casement d).exist then some d else none
  else s.ownCas f

/-- R420: Unsupported Request with its event. -/
def State.bar4Bad (s : State) (f off : Nat) (d : Option Nat) : State :=
  (s.refuseTlp f).post { kind := 7, ctag := (d.map s.tagOf).getD 0, unit := f, info := off }

/-- BAR4 serves requests of function f (R395, R448). -/
def State.bar4Up (s : State) (f : Nat) : Bool := s.boot.built && !(s.fn f).d3 && !s.isSafe

/-- R396: the size of function f's BAR4: 1 GiB to 2 TiB. -/
def State.bar4Size (s : State) (f : Nat) : Nat := 2 ^ (s.fn f).bar4

/-- BAR4_READ (R420): a poisoned read completes as a poisoned TLP (R324). -/
def execBar4Read (f : Fin 16) (off n : Nat) (others : List Nat) (s : State) : Host.Outcome State Fault Refusal :=
  .next (if !s.reaches (.fn f) then s
    else if !s.bar4Up f then s.refuseTlp f
    else match s.bar4Cas f with
      | none => s.bar4Bad f off none
      | some d =>
        if s.bar4Size f < off + n ∨ paSize (s.mask d) < off + n then s.bar4Bad f off (some d)
        else match s.hubGrant d others with
          | (false, s0) => s0
          | (true, s0) =>
            let s1 := s0.paTouch d off n .bar4Read
            let bs := s1.paRead d off n
            let s2 := s1.emit (.bar4 f off (pvals bs) (ppsn bs))
            if ppsn bs then s2.post { kind := 7, ctag := s.tagOf d, unit := f, info := off } else s2)

/-- BAR4_WRITE (R420). -/
def execBar4Write (f : Fin 16) (off : Nat) (bytes : List Nat) (poison : Bool) (others : List Nat) (s : State) :
    Host.Outcome State Fault Refusal :=
  .next (if !s.reaches (.fn f) then s
    else if !s.bar4Up f then s.refuseTlp f
    else match s.bar4Cas f with
      | none => s.bar4Bad f off none
      | some d =>
        if s.bar4Size f < off + bytes.length ∨ paSize (s.mask d) < off + bytes.length then s.bar4Bad f off (some d)
        else match s.hubGrant d others with
          | (false, s0) => s0
          | (true, s0) => (if poison then s0.aerSet f aerPoison else s0).paWrite d off (bytes.map (fun b => (b, poison))) .bar4Write)

/-! ### Configuration requests (R393, R395, R396) -/

def cfgKey (f off : Nat) : Nat := f * 4096 + off % 4096

/-- A word of function f's configuration space: what PCIe gives it, or what writes have left. -/
def State.cfgAt (s : State) (f off : Nat) : Nat :=
  match Assoc.get s.cfgs (cfgKey f off) 0 with
  | 0 => Config.cfgWord (cfgKey f off)
  | v + 1 => v

/-- CONFIG_REQUEST: RRS until configuration space is loaded; its layout, and what a write leaves of a word, are PCIe's (log 7). -/
def execConfigRequest (f : Fin 16) (r : CfgReq) (s : State) : Host.Outcome State Fault Refusal :=
  .next (if !s.boot.link then s
    else if !s.boot.cfg then s.emit (.cfg f true 0)
    else match r with
      | .read off => s.emit (.cfg f false (s.cfgAt f off))
      | .write off v =>
        { s with cfgs := Assoc.put s.cfgs (cfgKey f off) (Config.cfgWrite (cfgKey f off) (s.cfgAt f off) v + 1) 0 }.emit (.cfg f false 0)
      | .aerRead => s.emit (.cfg f false (s.fn f).aer)
      | .aerClear b => (s.setFn f { s.fn f with aer := (s.fn f).aer - ((s.fn f).aer &&& b) }).emit (.cfg f false 0)
      | .bar4 n => (if 30 ≤ n ∧ n ≤ 41 then s.setFn f { s.fn f with bar4 := n } else s).emit (.cfg f false 0)
      | .power b => (s.setFn f { s.fn f with d3 := b }).emit (.cfg f false 0))

end Sys2Proof.Machine
end

