-- ==== Sys2Proof/Machine/HostCmd.lean ====
section
/-! DEFINITION. The commands on casements (14_host_interface.md R407, R491, R422, R411, R412): CASEMENT_MAP, CASEMENT_END,
CASEMENT_RESET, MAP, UNMAP, HOSTFR, DIE_TEST. -/

namespace Sys2Proof.Machine

/-! ### CASEMENT_MAP (R407) -/

def mapMask : Nat := maskOf [(3, 0), (11, 8), (31, 16), (36, 32), (63, 48), (79, 64), (91, 80), (108, 96)]

/-- The fields of CASEMENT_MAP are in range; the tag is free. -/
def State.mapOk (s : State) (k : Cmd) : Bool :=
  let g := k.f 31 16
  g != 0 && g != 0xFFFF && (s.casOfTag g).isNone && decide (1 ≤ k.f 79 64 ∧ k.f 108 96 ≤ 4096)

/-- The dies, the owner and the space admit the casement; a Retired package admits none (R462). -/
def State.mapRes (s : State) (k : Cmd) : Bool :=
  let mask := k.f 3 0
  (diesOf mask).all (fun x => s.dieAvail x && (s.casOfDie x).isNone) && s.rf 0x0020000 2 0 != 4 &&
    decide (1 + k.f 79 64 + k.f 63 48 ≤ paSize mask / frameBytes) && (k.f 11 8 == 0 || (s.casesOf (k.f 11 8)).isEmpty)

/-- Every stack of a casement is zero with clean codewords; no line of it is cached. -/
def State.stacksZero (s : State) (mask : Nat) : State :=
  (stacksOf mask).foldl (fun s st =>
    let k := hbmKey st 0
    if s.blkDown 2 st then s.refuse
    else { s with hbm := s.hbm.zero 32 k (2 ^ 36), cdata := s.cdata.zero 8 k (2 ^ 36),
                  clines := Assoc.clear s.clines (k / 128) (2 ^ 29), cdirty := NSet.clear s.cdirty (k / 128) (2 ^ 29) }.hbmZeroInject k) s

/-- The casement of CASEMENT_MAP with its three regions carved from the top. -/
def Cmd.newCas (k : Cmd) : Cas :=
  let n := paSize (k.f 3 0) / frameBytes
  let pt := n - 1 - k.f 79 64
  let cx := pt - k.f 63 48
  { Cas.reset with
    exist := true, owner := k.f 11 8, tag := k.f 31 16, mask := k.f 3 0
    ctxBase := cx * frameBytes, ctxFrames := k.f 63 48, ptBase := pt * frameBytes, ptFrames := k.f 79 64, ptNext := 1
    traceBase := (n - 1) * frameBytes, freshEnd := cx }

def State.casMap (s : State) (k : Cmd) : CmdOut :=
  let c := k.newCas
  let d := (diesOf c.mask).headD 0
  let s1 := (slicesOf c.mask).foldl (fun s sl =>
    if s.blkDown 3 sl then s.refuse else (s.sliceZero sl).scratchInject (scratchKey sl 0) (2 ^ 25)) (s.stacksZero c.mask)
  let s2 := (((s1.setCas d c).setRf (rFab d 0) 15 0 c.tag).setRf (0x0180000 + 4 * d) 4 0 (k.f 36 32)).setReg (rPga d 0)
    (BitVec.ofNat 32 (c.ptBase % 2 ^ 32))
  let s3 := ((s2.setReg (rPga d 4) (BitVec.ofNat 32 (c.ptBase / 2 ^ 32))).setRf (0x0070240 + 4 * d) 11 0 (k.f 91 80)).setRf
    (0x0070250 + 4 * d) 12 0 (k.f 108 96)
  .done (s3.showFree d) stOk c.ctxBase

/-- CASEMENT_MAP (R407). -/
def execCasementMap (f : Fin 16) (s : State) : Host.Outcome State Fault Refusal :=
  .next (s.runCmd f (· == 0x10) (fun s k => s.freeCmd f k mapMask (s.mapOk k) true (fun s =>
    if !s.isReady then .later
    else if s.mapRes k then s.casMap k
    else .done s stNoRes 0)))

/-! ### CASEMENT_END, CASEMENT_RESET (R491, R422) -/

/-- R491: the program ends with an event of KIND 0x04; the dies' blocks are shuttered; the casement is gone. -/
def State.casEnd (s : State) (x : ShutIn) (d : Nat) : State :=
  let s1 :=
    if (s.casement d).phase = .running then
      (s.post { kind := 4, unit := d, ctag := s.tagOf d }).endProgram d (s.arbN arbEvent)
    else s
  (s1.shutAll x d).casGone d

/-- CASEMENT_END (R491). -/
def execCasementEnd (f : Fin 16) (x : ShutIn) (s : State) : Host.Outcome State Fault Refusal :=
  .next (s.runCmd f (· == 0x11) (fun s k =>
    s.casCmd f k 0 true true true [.idle, .loaded, .running, .stopped] (fun s d => .done (s.casEnd x d) stOk 0)))

/-- CASEMENT_RESET (R422). -/
def execCasementReset (f : Fin 16) (x : ShutIn) (s : State) : Host.Outcome State Fault Refusal :=
  .next (s.runCmd f (· == 0x12) (fun s k =>
    s.casCmd f k 0 true false true [.idle, .loaded, .stopped] (fun s d => .done (s.casReset x d) stOk 0)))

/-! ### MAP, UNMAP (R310, R311, R411) -/

/-- A page table found or taken from the pool; none when the pool is empty. -/
def State.tableAt (s : State) (d x : Nat) : Option (State × Nat) :=
  match s.level d x with
  | .leaf _ e => some (s, fld e 47 12 * 4096)
  | _ =>
    let c := s.casement d
    if c.ptNext < c.ptFrames * 512 then
      let base := c.ptBase + 4096 * c.ptNext
      some ((s.setCas d { c with ptNext := c.ptNext + 1 }).putEntry d x (base + 1), base)
    else none

/-- Write the leaf entry e of virtual address va, with the tables it needs. -/
def State.mapPage (s : State) (d va e : Nat) : Option State :=
  match s.tableAt d (s.ptRoot d + 8 * fld va 47 39) with
  | none => none
  | some (s1, t2) =>
    match s1.tableAt d (t2 + 8 * fld va 38 30) with
    | none => none
    | some (s2, t3) => some (s2.putEntry d (t3 + 8 * fld va 29 21) e)

/-- R311: the entry of page i of a MAP: flags HOST, OFF, STEPS, RO. -/
def mapEntry (flags h i : Nat) : Nat :=
  1 + flags % 2 * 2 + flags / 2 % 2 * 8 + flags / 4 % 2 * 16 + flags / 8 % 2 * 64 +
    (if flags % 2 = 1 then h + i else frameNone) * 2 ^ 21

/-- The pages of a MAP one by one. -/
def State.mapPages (s : State) (d va flags h : Nat) : List Nat → Option State
  | [] => some s
  | i :: r =>
    match s.mapPage d (va + i * frameBytes) (mapEntry flags h i) with
    | none => none
    | some s1 => s1.mapPages d va flags h r

/-- A walk for every page of a range. -/
def State.walks (s : State) (d va n : Nat) : List Walk := (List.range n).map (fun i => s.walk d (va + i * frameBytes))

/-- An entry of the host frame table has been supplied (R312). -/
def State.supplied (s : State) (d i : Nat) : Bool := decide (i < 2 ^ 20) && Assoc.get (s.casement d).hft i 0 != 0

/-- A range of pages lies in the address space. -/
def vaOk (va n : Nat) : Bool := va % frameBytes == 0 && decide (va + n * frameBytes ≤ 2 ^ 48)

/-- What a MAP leaves in the paging engine's lists: STEPS pages, HOST references, the pool. -/
def Cas.mapped (c : Cas) (v flags h n : Nat) : Cas :=
  let hs := if flags % 2 = 1 then rangeFrom h n else []
  { c with stepPages := if flags / 4 % 2 = 1 then c.stepPages ++ rangeFrom v n else c.stepPages
           hrefs := c.hrefs ++ hs
           pool := c.pool.filter (fun i => !hs.contains i) }

def State.mapRange (s : State) (d va n flags h : Nat) : CmdOut :=
  let ws := s.walks d va n
  if ws.any (fun w => match w with | .poison _ => true | _ => false) then .done s stAddress 0
  else if ws.any (fun w => match w with | .leaf _ _ => true | _ => false) then .done s stState 0
  else if flags % 2 = 1 ∧ (List.range n).all (fun i => s.supplied d (h + i)) = false then .done s stState 0
  else match s.mapPages d va flags h (List.range n) with
    | none => .done s stNoRes 0
    | some s1 => .done (s1.setCas d ((s1.casement d).mapped (va / frameBytes) flags h n)) stOk 0

def notStopped : List CPhase := [.idle, .loaded, .running]

/-- MAP (R411). -/
def execMap (f : Fin 16) (s : State) : Host.Outcome State Fault Refusal :=
  .next (s.runCmd f (· == 0x30) (fun s k =>
    let h := if k.f 96 96 = 1 then k.f 147 128 else 0
    s.casCmd f k (maskOf [(63, 0), (95, 64), (99, 96), (147, 128)]) (vaOk (k.f 63 0) (k.f 95 64)) false false notStopped
      (fun s d => s.mapRange d (k.f 63 0) (k.f 95 64) (k.f 99 96) h)))

/-- One page leaves the map: V is cleared, its frame or host frame is free (R314). -/
def State.unmapPage (s : State) (d va : Nat) : State :=
  let v := va / frameBytes
  match s.walk d va with
  | .leaf x e =>
    let s1 := s.putEntry d x (e - 1)
    let c := s1.casement d
    let fr := leFrame e
    let out := !leRes e && !leHost e && fr != frameNone
    let c1 := { c with hrefs := if leHost e then c.hrefs.erase fr else c.hrefs, orefs := if out then c.orefs.erase fr else c.orefs }
    let c2 := if leHost e || out then c1.give fr else c1
    let s2 := s1.setCas d { c2 with
      outq := c.outq.filter (· != v), prot := c.prot.filter (· != v), wrote := NSet.erase c.wrote v, outs := NSet.erase c.outs v
      stepPages := c.stepPages.filter (· != v) }
    if leRes e && !leHost e then s2.pushFrame d fr else s2
  | _ => s

def State.unmapRange (s : State) (d va n : Nat) : CmdOut :=
  if (s.walks d va n).any (fun w => match w with | .poison _ => true | _ => false) then .done s stAddress 0
  else .done ((List.range n).foldl (fun s i => s.unmapPage d (va + i * frameBytes)) s) stOk 0

/-- UNMAP (R411). -/
def execUnmap (f : Fin 16) (s : State) : Host.Outcome State Fault Refusal :=
  .next (s.runCmd f (· == 0x31) (fun s k =>
    s.casCmd f k (maskOf [(63, 0), (95, 64)]) (vaOk (k.f 63 0) (k.f 95 64)) false false notStopped
      (fun s d => s.unmapRange d (k.f 63 0) (k.f 95 64))))

/-! ### HOSTFR (R312, R411) -/

/-- The entry is supplied and a HOST page or a paged-out copy references it. -/
def State.hostBusy (s : State) (d i : Nat) : Bool := (s.casement d).hrefs.contains i || (s.casement d).orefs.contains i

/-- COUNT entries from FIRST, read from the list at a bus address. -/
def State.hostFr (s : State) (d list first n : Nat) : CmdOut :=
  if (rangeFrom first n).any (s.hostBusy d) then .done s stState 0
  else if s.hostAnswer list (8 * n) != 0 then .done s stAddress 0
  else
    let bs := s.hostRead list (8 * n)
    let c := s.casement d
    let c1 := (List.range n).foldl (fun (c : Cas) i =>
      { c with hft := Assoc.put c.hft (first + i) (leNat ((bs.drop (8 * i)).take 8) + 1) 0
               pool := if c.pool.contains (first + i) then c.pool else (first + i) :: c.pool }) c
    .done ((s.hostAsk c.owner list (8 * n)).setCas d c1) stOk 0

/-- HOSTFR (R411). -/
def execHostfr (f : Fin 16) (s : State) : Host.Outcome State Fault Refusal :=
  .next (s.runCmd f (· == 0x32) (fun s k =>
    let first := k.f 83 64
    let n := k.f 127 96
    s.casCmd f k (maskOf [(63, 0), (83, 64), (127, 96)]) (decide (1 ≤ n ∧ first + n ≤ 2 ^ 20)) false false notStopped
      (fun s d => s.hostFr d (k.f 63 0) first n)))

/-! ### DIE_TEST (R412, R18, R438) -/

/-- R18: a die marked unavailable at run time, for whatever cause, comes back when the test leaves it 144 tiles; one lost at bring-up
for its logic, its lines or its channels does not. -/
def State.dieBack (s : State) (d : Nat) : State :=
  if 144 ≤ s.goodTiles d ∧ bit s.boot.lost d = false then s.setRf 0x0000110 d d 1 else s.dieCheck d (s.arbLast (arbPlace d))

/-- All 160 tiles of a die are tested; its spare map is built again, and then R18 decides the die. -/
def State.dieTested (s : State) (fails : List Nat) (d : Nat) : State :=
  let s1 := (tilesOfDie d).foldl (fun s p => s.tested p (!fails.contains p)) s
  (s1.buildMap d).dieBack d

/-- RESULT byte d: the tiles of die d that failed. -/
def State.failCount (s : State) (mask : Nat) : Nat :=
  (diesOf mask).foldl (fun a d => a + ((tilesOfDie d).filter (fun p => s.tilState p == 3)).length * 2 ^ (8 * d)) 0

/-- DIE_TEST (R412); fails: the tiles that fail. -/
def execDieTest (f : Fin 16) (fails : List Nat) (s : State) : Host.Outcome State Fault Refusal :=
  .next (s.runCmd f (· == 0x40) (fun s k => s.freeCmd f k (maskOf [(3, 0)]) true true (fun s =>
    let mask := k.f 3 0
    if !s.isReady then .later
    else if (diesOf mask).any (fun x => (s.casOfDie x).isSome) then .done s stState 0
    else
      let s1 := (diesOf mask).foldl (fun s d => s.dieTested fails d) s
      .done s1 stOk (s1.failCount mask))))

end Sys2Proof.Machine
end

