-- ==== Sys2Proof/Machine/Power.lean ====
section
/-! DEFINITION. Power and temperature (17_pins_power_management.md R470, R472, R474 to R480). -/

namespace Sys2Proof.Machine

def rPwrCap : Nat := 0x1000000
def rPwrStat : Nat := 0x1000004
def rTherm : Nat := 0x1000008
def rVlim : Nat := 0x1000010
def rPins : Nat := 0x1000014
def rDie (d : Nat) : Nat := 0x1000100 + 4 * d

/-- The Package Controller runs power control. -/
def State.powered (s : State) : Bool := s.loaded && !s.sysHeld

/-- An event of KIND 0x08. -/
def State.pwrEvent (s : State) (unit info : Nat) : State := s.post { kind := 8, unit := unit, info := info }

/-! ### The power in force (R477, R478, R487) -/

def clampW (w : Nat) : Nat := max 1200 (min 3600 w)

/-- The power in force that a measurement takes: the lower of CAP_W and, with PWR_LIM_L asserted, LIM_W. -/
def State.powerInForce (s : State) : Nat :=
  let cap := clampW (s.rf rPwrCap 11 0)
  if s.rf rPins 3 3 = 1 then min cap (clampW (s.rf rPwrCap 23 12)) else cap

/-- PWR_LIM (R470, R478). -/
def execPwrLim (asserted : Bool) (s : State) : Host.Outcome State Fault Refusal :=
  .next ((s.setRf rPins 3 3 (b2n asserted)).setRf rPwrStat 15 15 (b2n asserted))

/-- PWR_LIM_STUCK_TIMEOUT (R472): PWR_LIM_L has been asserted for 10 s. -/
def execPwrLimStuckTimeout (s : State) : Host.Outcome State Fault Refusal :=
  .next (if s.powered && s.rf rPins 3 3 == 1 then s.pwrEvent 0 0 else s)

/-! ### Voltage (R474, R475) -/

/-- R475: VMIN and VMAX in force. -/
def clampV (v : Nat) : Nat := max 650 (min 900 v)
def State.vmin (s : State) : Nat := clampV (s.rf rVlim 9 0)
def State.vmax (s : State) : Nat := clampV (s.rf rVlim 19 10)

def State.vcmd (s : State) (d : Nat) : Nat := s.pwr.vcmd.getD d 0
/-- A step down would leave the range. -/
def State.atVmin (s : State) (d : Nat) : Bool := decide (s.vcmd d < s.vmin + 5)

/-- The rail of die d may move: its regulator responds and no seal test holds it (R442). -/
def State.railFree (s : State) (d : Nat) : Bool := s.powered && !bit s.pwr.held d && s.rf 0x0020804 2 0 != 1

/-- The rail goes to v: VOUT_COMMAND, MGT_DIEd. -/
def State.setRail (s : State) (d v : Nat) : State :=
  ({ s with pwr := { s.pwr with vcmd := setNth s.pwr.vcmd d v } }.setRf (rDie d) 21 12 v).emit (.vout d v)

/-- Add to, or take from, entry d of a list of counters. -/
def bump (l : List Nat) (d : Nat) : List Nat := setNth l d (l.getD d 0 + 1)
def drop1 (l : List Nat) (d : Nat) : List Nat := setNth l d (l.getD d 0 - 1)

/-- CAPPED holds while a rail is lowered. -/
def State.showCapped (s : State) : State := if s.pwr.low.all (· == 0) then s.setRf rPwrStat 12 12 0 else s

/-- One step of die d's rail: into the range of R475, down, or up. -/
def State.voltageStep (s : State) (d : Nat) : State :=
  let v := s.vcmd d
  let x := s.pwr
  if v < s.vmin then s.setRail d (v + 5)
  else if s.vmax < v then s.setRail d (v - 5)
  else if 0 < x.down.getD d 0 then
    if s.atVmin d then { s with pwr := { x with down := setNth x.down d 0 } }
    else { s with pwr := { x with down := drop1 x.down d, low := bump x.low d } }.setRail d (v - 5)
  else if 0 < x.up.getD d 0 ∧ v + 5 ≤ s.vmax then
    ({ s with pwr := { x with up := drop1 x.up d, low := drop1 x.low d } }.setRail d (v + 5)).showCapped
  else s

/-- VOLTAGE_STEP (R475): 50 µs have passed since the last step of die d. -/
def execVoltageStep (d : Fin 4) (s : State) : Host.Outcome State Fault Refusal :=
  .next (if s.railFree d then s.voltageStep d else s)

/-- REGULATOR_POLL (R474, R476): the regulator of die d answers; the pace of the last millisecond. -/
def execRegulatorPoll (d : Fin 4) (mv pace : Nat) (s : State) : Host.Outcome State Fault Refusal :=
  .next (if s.powered then (s.setRf (rDie d) 21 12 mv).setRf (rDie d) 11 0 pace else s)

/-- REGULATOR_TIMEOUT (R474): the regulator of die d has not answered for 5 ms. -/
def execRegulatorTimeout (d : Fin 4) (s : State) : Host.Outcome State Fault Refusal :=
  .next (if s.sysHeld || s.isSafe then s
    else if s.rf 0x0020808 3 0 != 9 then s.safeUp 10
    else if bit s.pwr.held d then s
    else
      let s1 := { s with pwr := { s.pwr with held := s.pwr.held + 2 ^ d.val, down := setNth s.pwr.down d 0, up := setNth s.pwr.up d 0 } }
      (s1.post { kind := 5, unit := d, ctag := s.dieTag d }).dieLost d)

/-! ### Capping (R477) -/

/-- A burst of ten steps on the dies of a list that are above VMIN. -/
def State.burst (s : State) (ds : List Nat) : State :=
  ds.foldl (fun s d => if s.atVmin d || bit s.pwr.held d then s
    else { s with pwr := { s.pwr with down := setNth s.pwr.down d 10, up := setNth s.pwr.up d 0 } }) s

/-- F halves, down to 1/16. -/
def State.throttle (s : State) : State :=
  { s with pwr := { s.pwr with fexp := min 4 (s.pwr.fexp + 1) } }.setRf rPwrStat 13 13 1

/-- One action is reversed: F doubles, or every lowered rail that is not hot rises one step. -/
def State.reverseStep (s : State) : State :=
  if 0 < s.pwr.fexp then
    let e := s.pwr.fexp - 1
    { s with pwr := { s.pwr with fexp := e } }.setRf rPwrStat 13 13 (b2n (decide (0 < e)))
  else
    { s with pwr := { s.pwr with
      up := (List.range 4).map (fun d => if 0 < s.pwr.low.getD d 0 ∧ bit s.pwr.hot d = false ∧ bit s.pwr.held d = false then 1 else 0)
      down := (List.range 4).map (fun d => if bit s.pwr.hot d then s.pwr.down.getD d 0 else 0) } }

/-- R477: a rail lowered for the power in force shows in CAPPED, with an event when it begins. -/
def State.capped (s : State) : State :=
  if s.rf rPwrStat 12 12 = 1 then s else (s.setRf rPwrStat 12 12 1).pwrEvent 0 s.powerInForce

/-- One measurement: over the power in force, hot dies, below 95 %. -/
def State.measure (s : State) (watts : Nat) : State :=
  let lim := s.powerInForce
  let hots := (List.range 4).filter (fun d => bit s.pwr.hot d)
  if lim < watts then
    let ds := (List.range 4).filter (fun d => !s.atVmin d && !bit s.pwr.held d)
    if ds.isEmpty then s.throttle else (s.burst ds).capped
  else
    let s1 := s.burst hots
    if hots.any (fun d => s1.atVmin d) then s1.throttle
    else if watts * 100 < lim * 95 then s1.reverseStep
    else s1

/-- POWER_MEASUREMENT (R477, R478): the power of the last millisecond and the average of ten; the power in force is taken here; a new millisecond begins (R343; log 35). -/
def execPowerMeasurement (watts avg : Nat) (s : State) : Host.Outcome State Fault Refusal :=
  .next (let s := s.dropTick
    if s.powered then ({ s with pwr := { s.pwr with watts := watts, force := s.powerInForce } }.setRf rPwrStat 11 0 avg).measure watts else s)

/-! ### Temperature (R479, R480) -/

def State.tj (s : State) (d : Nat) : Nat := s.rf (rDie d) 29 22
def State.stackTemp (s : State) (st : Nat) : Nat := s.rf (rMem st 0) 23 16

/-- R479: the event of TWARN, once until every sensor is 3 °C below. -/
def State.warnCheck (s : State) (d : Nat) : State :=
  let w := s.rf rTherm 15 8
  if s.pwr.warn && decide (w < s.tj d) then
    { s with pwr := { s.pwr with warn := false } }.pwrEvent d (s.tj d)
  else if (List.range 4).all (fun x => decide (s.tj x + 3 ≤ w)) then { s with pwr := { s.pwr with warn := true } }
  else s

/-- R479: the die is above TTHROT, or one of its stacks above 95 °C. -/
def State.tooHot (s : State) (d : Nat) : Bool :=
  decide (s.rf rTherm 7 0 < s.tj d) || (rangeFrom (6 * d) 6).any (fun st => decide (95 < s.stackTemp st))

/-- R479: the die is throttled, THROT is set, with an event when it begins. -/
def State.hotCheck (s : State) (d : Nat) : State :=
  if s.tooHot d && !bit s.pwr.hot d then
    ({ s with pwr := { s.pwr with hot := s.pwr.hot + 2 ^ d } }.setRf rPwrStat 14 14 1).pwrEvent d (s.tj d)
  else s

/-- TEMPERATURE_CHANGE (R479, R296): the highest junction sensor of die d and the temperature of one of its stacks. -/
def execTemperatureChange (d : Fin 4) (tj : Nat) (stack : Fin 6) (temp : Nat) (s : State) : Host.Outcome State Fault Refusal :=
  .next (if s.powered then
      ((((s.setRf (rDie d) 29 22 tj).setRf (rMem (6 * d + stack) 0) 23 16 temp)).warnCheck d).hotCheck d
    else s)

/-- R479: the die is 3 °C below its limits. -/
def State.cool (s : State) (d : Nat) : Bool :=
  decide (s.tj d + 3 ≤ s.rf rTherm 7 0) && (rangeFrom (6 * d) 6).all (fun st => decide (s.stackTemp st + 3 ≤ 95))

/-- THERMAL_RELEASE (R479): the die has been 3 °C below its limits for 10 ms. -/
def execThermalRelease (d : Fin 4) (s : State) : Host.Outcome State Fault Refusal :=
  .next (if s.powered && bit s.pwr.hot d && s.cool d then
      let h := setFld s.pwr.hot d d 0
      { s with pwr := { s.pwr with hot := h } }.setRf rPwrStat 14 14 (b2n (decide (0 < h)))
    else s)

/-- THERMTRIP (R479, R480): the comparator trips; THERMTRIP_L is low until VAUX is removed. -/
def execThermtrip (s : State) : Host.Outcome State Fault Refusal :=
  .next (if s.rf rTherm 16 16 = 1 then s
    else
      let s1 := (s.setRf rTherm 16 16 1).setRf rPins 4 4 1
      if s.powered then s1.pwrEvent 0 0 else s1)

end Sys2Proof.Machine
end

