-- ==== Sys2Proof/Machine/Mgmt.lean ====
section
/-! DEFINITION. The management path (17_pins_power_management.md R481 to R486): addresses, the queue of requests, the answers. -/

namespace Sys2Proof.Machine

/-! ### Answers (R482 to R484) -/

def msOk : Nat := 0
def msPending : Nat := 1
def msBusy : Nat := 2
def msDenied : Nat := 3
def msBadReq : Nat := 4

/-- R482: CMD of a request. -/
def mCode : MBody → Nat
  | .identify => 0x01
  | .status => 0x02
  | .telemetry => 0x03
  | .regRead _ _ => 0x04
  | .regWrite _ _ => 0x05
  | .reset => 0x06
  | .fwu _ _ _ _ _ => 0x07
  | .sealTest => 0x08
  | .lifecycle _ _ => 0x09
  | .attest _ => 0x0A
  | .poll _ _ => 0x0B
  | .bad c => c

/-- R482: the formats. -/
def mGood : MBody → Bool
  | .regRead off n => decide (1 ≤ n ∧ n ≤ 64 ∧ off + 4 * n ≤ 2 ^ 26) && off % 4 == 0
  | .regWrite off vs => decide (1 ≤ vs.length ∧ vs.length ≤ 64 ∧ off + 4 * vs.length ≤ 2 ^ 26) && off % 4 == 0
  | .fwu op _ _ _ _ => decide (1 ≤ op ∧ op ≤ 8)
  | .lifecycle t tok => decide (t < 8) && (tok.isEmpty || tok.length == 4707)
  | .attest nonce => nonce.length == 64
  | .bad _ => false
  | _ => true

def rMreq : Nat := 0x1000018

/-- R484: one more request has been answered; a result goes after 16. -/
def MRes.older (l : List MRes) : List MRes :=
  (l.map (fun r => { r with age := r.age + 1 })).filter (fun r => decide (r.age < 16))

/-- An answer leaves the package; MGT_MREQ counts it. -/
def State.answer (s : State) (pcie : Bool) (r : MReq) (status : Nat) (body : List Nat) : State :=
  let s1 := { s with mgt := { s.mgt with results := MRes.older s.mgt.results } }
  let s2 := s1.count rMreq 15 0 1
  (if status = msBusy then s2.count rMreq 31 16 1 else s2).emit (.mgt pcie (mCode r.body) r.inst status body)

/-! ### Addresses and MCTP control (R481) -/

/-- The management port works: the package is not held by SYS_RST_L, and a request over PCIe finds the PF. -/
def State.mgtUp (s : State) (pcie : Bool) : Bool := !s.sysHeld && (!pcie || s.reaches (.fn 0))

/-- I3C_ENTDAA (R481): the dynamic address. -/
def execI3cEntdaa (addr : Nat) (s : State) : Host.Outcome State Fault Refusal :=
  .next (if s.sysHeld then s else { s with mgt := { s.mgt with addr := addr % 128 } })

/-- The endpoint ID of a transport. -/
def State.eid (s : State) (pcie : Bool) : Nat := if pcie then s.mgt.eidPcie else s.mgt.eidI3c

/-- MCTP_CONTROL (R481): completion code 0, then the answer (its layout is MCTP's, log 43). -/
def execMctpControl (pcie : Bool) (c : McCtl) (s : State) : Host.Outcome State Fault Refusal :=
  .next (if !s.mgtUp pcie then s
    else match c with
      | .setEid e =>
        let m := if pcie then { s.mgt with eidPcie := e % 256 } else { s.mgt with eidI3c := e % 256 }
        { s with mgt := m }.emit (.mctp pcie [0, e % 256])
      | .getEid => s.emit (.mctp pcie [0, s.eid pcie])
      | .version => s.emit (.mctp pcie [0, 1, 0xF1, 0xF3, 0xF1, 0x00])
      | .types => s.emit (.mctp pcie [0, 1, 0x7E])
      | .vendor => s.emit (.mctp pcie [0, 0xFF, 0x00, Config.cfgWord 0 / 256 % 256, Config.cfgWord 0 % 256]))

/-! ### Arrival (R483, R484) -/

/-- R483: bring-up has not completed step 3, or the Package Controller is held; one that has failed never completes step 3 (R448). -/
def State.pkcHeld (s : State) : Bool := if s.isSafe then s.rf 0x0020810 7 0 == 1 else s.rf 0x0020808 3 0 != 9

def mgtQueueMax : Nat := 8

/-- MGT_REQUEST_ARRIVAL (R483, R484): the last packet of a request is complete. -/
def execMgtRequestArrival (pcie : Bool) (r : MReq) (s : State) : Host.Outcome State Fault Refusal :=
  .next (if !s.mgtUp pcie then s
    else if s.pkcHeld || decide (mgtQueueMax ≤ s.mgt.queue.length) then s.answer pcie r msBusy []
    else if !mGood r.body then s.answer pcie r msBadReq []
    else { s with mgt := { s.mgt with queue := s.mgt.queue ++ [(pcie, r)] } })

/-! ### Execution (R484): one at a time, in order -/

/-- R483: what the safe state answers. -/
def mSafeOk : MBody → Bool
  | .identify => true
  | .status => true
  | .poll _ _ => true
  | _ => false

/-- The request at the front leaves the queue and executes, if go knows its body; the safe state denies it. -/
def State.runReq (s : State) (go : MBody → Option (State → Bool → MReq → State)) : State :=
  match s.mgt.queue with
  | [] => s
  | (pcie, r) :: rest =>
    match go r.body with
    | none => s
    | some f =>
      if s.pkcHeld then s
      else
        let s1 := { s with mgt := { s.mgt with queue := rest } }
        if s.isSafe && !mSafeOk r.body then s1.answer pcie r msDenied [] else f s1 pcie r

/-- The bytes of registers. -/
def State.regBytes (s : State) (offs : List Nat) : List Nat := offs.flatMap (fun o => leBytes 4 (s.reg o).toNat)

/-- MGT_IDENTIFY (R482). -/
def execMgtIdentify (s : State) : Host.Outcome State Fault Refusal :=
  .next (s.runReq (fun b => match b with
    | .identify => some (fun s pcie r => s.answer pcie r msOk (s.regBytes [0x0, 0x10, 0x14, 0x18, 0x1C, 0x0030020, 0x0020000]))
    | _ => none))

/-- MGT_STATUS (R482). -/
def execMgtStatus (s : State) : Host.Outcome State Fault Refusal :=
  .next (s.runReq (fun b => match b with
    | .status => some (fun s pcie r => s.answer pcie r msOk (s.regBytes [0x0020808, 0x0020810, rPins]))
    | _ => none))

/-- R486: bytes 52 and 53. -/
def State.telFlags (s : State) : Nat :=
  s.rf rPwrStat 12 12 + s.rf rPwrStat 13 13 * 2 + s.rf rPwrStat 14 14 * 4 + s.rf rPwrStat 15 15 * 8 + s.rf rTherm 16 16 * 16 +
    s.rf rFwuStat 14 14 * 32 + s.rf rPins 6 6 * 64 + s.rf rPins 5 5 * 128

/-- R486: the record of 96 bytes; a change of the caps shows from the next measurement on (R478). -/
def State.telemetry (s : State) : List Nat :=
  leBytes 2 (s.rf rPwrStat 11 0) ++ leBytes 2 s.pwr.force ++
    (List.range 4).flatMap (fun d => leBytes 2 (s.rf (rDie d) 21 12) ++ [s.tj d, 0]) ++
    (List.range 4).flatMap (fun d => leBytes 2 (s.rf (rDie d) 11 0)) ++ (List.range 24).map s.stackTemp ++
    leBytes 2 s.telFlags ++ [s.pwr.fexp, 0] ++ leBytes 6 (s.arbN arbEvent) ++ List.replicate 34 0

/-- MGT_TELEMETRY (R486). -/
def execMgtTelemetry (s : State) : Host.Outcome State Fault Refusal :=
  .next (s.runReq (fun b => match b with
    | .telemetry => some (fun s pcie r => s.answer pcie r msOk s.telemetry)
    | _ => none))

/-- Reads of n registers in ascending order. -/
def State.regReads (s : State) : Nat → Nat → State × List Nat
  | _, 0 => (s, [])
  | off, n + 1 =>
    let a := s.rd32 .mgt off
    let b := a.1.regReads (off + 4) n
    (b.1, leBytes 4 a.2 ++ b.2)

/-- MGT_REG_READ (R482). -/
def execMgtRegRead (s : State) : Host.Outcome State Fault Refusal :=
  .next (s.runReq (fun b => match b with
    | .regRead off n => some (fun s pcie r => let a := s.regReads off n; a.1.answer pcie r msOk a.2)
    | _ => none))

/-- Writes in ascending order. -/
def State.regWrites (s : State) : Nat → List (BitVec 32) → State
  | _, [] => s
  | off, v :: r => (s.wr32 .mgt off v.toNat .none).regWrites (off + 4) r

/-- An answer, unless the request has brought a reset of the Package Controller (R485). -/
def State.answerUp (s : State) (pcie : Bool) (r : MReq) (status : Nat) (body : List Nat) : State :=
  if s.pkcHeld then s else s.answer pcie r status body

/-- MGT_REG_WRITE (R482, R375). -/
def execMgtRegWrite (s : State) : Host.Outcome State Fault Refusal :=
  .next (s.runReq (fun b => match b with
    | .regWrite off vs => some (fun s pcie r => (s.regWrites off vs).answerUp pcie r msOk [])
    | _ => none))

/-- MGT_RESET (R485): OK, then source 6. -/
def execMgtReset (x : ShutIn) (s : State) : Host.Outcome State Fault Refusal :=
  .next (s.runReq (fun b => match b with
    | .reset => some (fun s pcie r => (s.answer pcie r msOk []).wideReset x 6)
    | _ => none))

/-- A result is kept for POLL (R484). -/
def State.keepRes (s : State) (pcie : Bool) (inst : Nat) (bytes : List Nat) : State :=
  { s with mgt := { s.mgt with
      results := s.mgt.results.filter (fun x => !(x.pcie == pcie && x.inst == inst)) ++ [⟨pcie, inst, bytes, 0, 0⟩] } }

/-- The values of an FWU request. -/
def State.fwuValues (s : State) (addr len arm epoch : Nat) : State :=
  let s1 := (s.setReg 0x0030008 (BitVec.ofNat 32 (addr % 2 ^ 32))).setReg 0x003000C (BitVec.ofNat 32 (addr / 2 ^ 32))
  ((s1.setRf 0x0030010 23 0 len).setRf 0x0030014 16 0 arm).setReg 0x0030018 (BitVec.ofNat 32 epoch)

/-- MGT_FWU (R482): PENDING, then FWU_STAT. cut: what cuts a STAGE short (R458). -/
def execMgtFwu (cut : Option (Nat × Bool)) (x : ShutIn) (s : State) : Host.Outcome State Fault Refusal :=
  .next (s.runReq (fun b => match b with
    | .fwu op addr len arm epoch => some (fun s pcie r =>
        let s1 := ((s.answer pcie r msPending []).fwuValues addr len arm epoch).fwuCmd .mgt op ⟨cut, x⟩ 0
        if s1.pkcHeld then s1 else s1.keepRes pcie r.inst (s1.regBytes [rFwuStat]))
    | _ => none))

/-- MGT_SEAL (R443, R482). -/
def execMgtSeal (s : State) : Host.Outcome State Fault Refusal :=
  .next (s.runReq (fun b => match b with
    | .sealTest => some (fun s pcie r => let s1 := s.sealRequest; s1.answer pcie r msOk (s1.regBytes [0x0020804]))
    | _ => none))

/-- MGT_LIFECYCLE (R463, R482): the token of the request, or the one at FWU_ADDR. -/
def execMgtLifecycle (s : State) : Host.Outcome State Fault Refusal :=
  .next (s.runReq (fun b => match b with
    | .lifecycle t tok => some (fun s pcie r =>
        let k := if tok.isEmpty then s.hostToken else tok
        let ok := !s.anyCas && s.lcAllowed .mgt t k
        (s.lcRequest .mgt t k 0).answer pcie r (if ok then msOk else msDenied) [])
    | _ => none))

/-- The nonce of a request goes into FWU_NONCE0 to 15 (R466, R467; DEDUCED, log 59). -/
def State.setNonce (s : State) (nonce : List Nat) : State :=
  (List.range 16).foldl (fun s n => s.setReg (0x0030040 + 4 * n) (BitVec.ofNat 32 (leAt nonce (4 * n) 4))) s

/-- MGT_ATTEST (R466, R467, R482): PENDING, then the report with the nonce in the registers. -/
def execMgtAttest (s : State) : Host.Outcome State Fault Refusal :=
  .next (s.runReq (fun b => match b with
    | .attest nonce => some (fun s pcie r =>
        if s.fwuBusy then s.answer pcie r msBusy []
        else
          let s1 := s.setNonce nonce
          { s1.answer pcie r msPending [] with rseq := s1.rseq + 1 }.keepRes pcie r.inst (s1.report s1.fwuNonce))
    | _ => none))

/-- R482, R484: up to 1,024 bytes of a result; one collected in full goes. -/
def State.poll (s : State) (pcie : Bool) (r : MReq) (inst off : Nat) : State :=
  match s.mgt.results.find? (fun x => x.pcie == pcie && x.inst == inst) with
  | none => s.answer pcie r msBadReq []
  | some x =>
    let part := (x.bytes.drop off).take 1024
    let got := if off ≤ x.got then max x.got (off + part.length) else x.got
    let l := s.mgt.results.map (fun y => if y.pcie == pcie && y.inst == inst then { y with got := got } else y)
    { s with mgt := { s.mgt with results := l.filter (fun y => decide (y.got < y.bytes.length)) } }.answer pcie r msOk part

/-- MGT_POLL (R484). -/
def execMgtPoll (s : State) : Host.Outcome State Fault Refusal :=
  .next (s.runReq (fun b => match b with
    | .poll inst off => some (fun s pcie r => s.poll pcie r inst off)
    | _ => none))

end Sys2Proof.Machine
end

