-- ==== Sys2Proof/Machine/Program.lean ====
section
/-! DEFINITION. Programs (14_host_interface.md R408 to R410, R492; R227, R234, R235): PROGRAM_LOAD, START, PROGRAM_END, CTX_SAVE,
CTX_RESTORE. While a casement is loaded, its logical tiles hold the state with which START continues; their live Pane
bytes are in heldPane. -/

namespace Sys2Proof.Machine

/-! ### PROGRAM_LOAD (R408) -/

/-- The logical tiles of a fresh program (R492): a record of zeros, at the boundary before ENTRY. -/
def LTile.fresh (entry : Nat) : LTile := { LTile.reset with phase := .boundary, next := entry }

def State.freshTiles (s : State) (d : Nat) : State :=
  let c := s.casement d
  let s1 := { s with heldPane := s.heldPane.zero 8 (ltKey d 0 * 2 ^ 19) (2 ^ 31), lts := Assoc.clear s.lts (ltKey d 0) 4096 }
  (List.range c.nlt).foldl (fun s t => s.setLt d t (LTile.fresh c.entry)) s1

/-- The page of va can take bytes: it is valid, of SPACE 2 and in a frame, which an allocation or a page-in may bring (R313, R318). -/
def State.codePage (s : State) (d va : Nat) : Option State :=
  match s.pageCheck d va 2 false with
  | .ok => if (s.allocPoison d va).isSome then none else some ((s.walkTouch d va).pageUse d va true)
  | .wait _ => (s.pageIn d (va / frameBytes) true).map (fun s => s.pageUse d va true)
  | _ => none

/-- Copy the image into program space page by page; false where a page can take none. -/
def State.codeCopy (s : State) (d : Nat) : List (Nat × Nat) → List Nat → State × Bool
  | [], _ => (s, true)
  | (va, n) :: r, bs =>
    match s.codePage d va with
    | none => (s.lackFrame d va, false)
    | some s1 => (s1.spWrite d 0 2 va (clean (bs.take n))).codeCopy d r (bs.drop n)

/-- The program space is mapped as SPACE 2 pages over its whole length. -/
def State.codeOk (s : State) (d pva plen : Nat) : Bool :=
  (cuts frameBytes pva plen).all (fun r => match s.pageCheck d r.1 2 false with | .ok => true | .wait _ => true | _ => false)

/-- R151, R152: the key of an idle casement takes effect at once. -/
def State.putKey (s : State) (d key : Nat) : State :=
  let lo := 0x0070400 + 8 * d
  let s1 := (s.setReg lo (BitVec.ofNat 32 (key % 2 ^ 32))).setReg (lo + 4) (BitVec.ofNat 32 (key / 2 ^ 32))
  { s1 with staged := Assoc.clear s1.staged lo 8 }

/-- P of R211: 144 tiles a die. -/
def State.physP (s : State) (d : Nat) : Nat := 144 * (diesOf (s.mask d)).length

def loadMask : Nat := maskOf [(63, 0), (95, 64), (159, 96), (172, 160), (188, 176), (223, 192), (287, 224)]

def loadOk (k : Cmd) : Bool :=
  let nlt := k.f 172 160
  let gx := k.f 188 176
  decide (1 ≤ nlt ∧ nlt ≤ 4096 ∧ 1 ≤ gx) && nlt % gx == 0 && k.f 63 0 % 16 == 0 && k.f 95 64 % 16 == 0 &&
    k.f 159 96 % frameBytes == 0 && k.f 223 192 % 16 == 0

def State.progLoad (s : State) (d : Nat) (k : Cmd) : CmdOut :=
  let src := k.f 63 0
  let plen := k.f 95 64
  let pva := k.f 159 96
  let nlt := k.f 172 160
  let gx := k.f 188 176
  if s.physP d < nlt ∧ (s.casement d).ctxFrames * frameBytes < nlt * slotBytes then .done s stNoRes 0
  else if !s.codeOk d pva plen then .done s stAddress 0
  else if s.hostAnswer src plen != 0 then .done s stAddress 0
  else match (s.hostAsk (s.casement d).owner src plen).codeCopy d (cuts frameBytes pva plen) (s.hostRead src plen) with
    | (s1, false) => .done s1 stAddress 0
    | (s1, true) =>
      let s2 := s1.setCas d { s1.casement d with phase := .loaded, held := false, steps := 0, nlt := nlt, gx := gx, gy := nlt / gx
                                                 entry := k.f 223 192, plen := plen, pva := pva }
      .done ((s2.putKey d (k.f 287 224)).freshTiles d) stOk 0

/-- PROGRAM_LOAD (R408). -/
def execProgramLoad (f : Fin 16) (s : State) : Host.Outcome State Fault Refusal :=
  .next (s.runCmd f (· == 0x20) (fun s k =>
    s.casCmd f k loadMask (loadOk k) false false [.idle] (fun s d => s.progLoad d k)))

/-! ### START (R409, R492, R227) -/

/-- R227: the tiles of a die that can be bound, at most 144: those outside the spare map, then spares for tiles that have left
service since the map was built. A die that is unavailable (R18), or whose Dispatcher takes no work (R378, R428), offers none. -/
def State.bindDie (s : State) (die : Nat) : List Nat :=
  let up := (tilesOfDie die).filter (fun p => s.dieAvail die && !s.blkDown 1 die && s.tilState p == 1 && !(s.tile p).testing && !s.blkDown 0 p)
  let own := (up.filter (fun p => !NSet.mem s.spares p)).take 144
  let more := (up.filter (NSet.mem s.spares)).take (144 - own.length)
  up.filter (fun p => own.contains p || more.contains p)

/-- The bound-capable tiles of casement d in the order of R227. -/
def State.bindable (s : State) (d : Nat) : List Nat := (diesOf (s.mask d)).flatMap s.bindDie

def heldKey (d t off : Nat) : Nat := ltKey d t * 2 ^ 19 + off

/-- Live bytes of a held context. -/
def State.heldRead (s : State) (d t a n : Nat) : List PByte := s.heldPane.readP 8 (heldKey d t a) n
def State.heldWrite (s : State) (d t a : Nat) (bs : List PByte) : State :=
  { s with heldPane := s.heldPane.writeP 8 (heldKey d t a) bs }

/-- Logical tile t begins on position p: its Pane is zero but for its live bytes (R218). -/
def State.joinTile (s : State) (d t p : Nat) : State :=
  let s1 := (s.paneZero p).bindTile d t p
  let s2 := s1.copyLive (s1.lt d t) (fun s a n => (s, s.heldRead d t a n)) (fun s a b => s.paneWrite p a b)
  s2.giveStatus d t p

/-- Logical tile t begins without a place: its record and live bytes are in its slot (R228). -/
def State.joinSlot (s : State) (d t : Nat) : State :=
  let c := s.casement d
  let x := s.lt d t
  (s.paWrite d (c.slot t) (clean x.recordBytes)).copyLive x (fun s a n => (s, s.heldRead d t a n))
    (fun s a b => s.paWrite d (c.slot t + 2560 + a) b)

/-- Every logical tile is bound, or in its slot. -/
def State.bindAll (s : State) (d : Nat) (ps : List Nat) : State :=
  let s1 := ((List.range (s.casement d).nlt).zip ps).foldl (fun s x => s.joinTile d x.1 x.2) s
  (rangeFrom ps.length ((s.casement d).nlt - ps.length)).foldl (fun s t => s.joinSlot d t) s1

/-- START's course: STATE for a member that is not LIVE, and for a casement that holds an unavailable die (R18, R233; log 30). -/
def State.startCas (s : State) (f d : Nat) (k : Cmd) : CmdOut :=
  let nlt := (s.casement d).nlt
  let want := min nlt (s.physP d)
  let ps := (s.bindable d).take want
  if s.rf (rFab d 4) 24 12 != 0 && s.fabState d != 1 then .done s stState 0
  else if !(diesOf (s.mask d)).all s.dieAvail then .done s stState 0
  else if ps.length < want then .wait s
  else
    let s1 := s.bindAll d ps
    let s2 := s1.setCas d { s1.casement d with phase := .running, held := false, quiesce := false
                                               start := some ⟨f, k.seq, k.tag, k.aseq⟩ }
    .done { s2 with heldPane := s2.heldPane.zero 8 (ltKey d 0 * 2 ^ 19) (2 ^ 31) } stStarted 0

/-- START (R409). -/
def execStart (f : Fin 16) (s : State) : Host.Outcome State Fault Refusal :=
  .next (s.runCmd f (· == 0x21) (fun s k =>
    s.casCmd f k 0 true false false [.loaded] (fun s d => s.startCas f d k)))

/-- The physical tiles of casement d are bound to nothing. -/
def State.unbindAll (s : State) (d : Nat) : State :=
  (List.range (s.casement d).nlt).foldl (fun s t =>
    match (s.lt d t).phys with
    | some p => s.unbind p 1
    | none => s) s

/-- Every logical tile has halted and nothing is incomplete. -/
def State.allHalted (s : State) (d : Nat) : Bool :=
  (s.ltList d).all (fun x => x.2.phase == .halted && x.2.inc.isEmpty)

/-- R409: DONE: START's second record; the casement is loaded with a fresh program. -/
def State.progEnd (s : State) (d : Nat) : State :=
  let c := s.casement d
  let s1 := (s.unbindAll d).setCas d { c with phase := .loaded, held := false, steps := 0, start := none, quiesce := false }
  let s2 := s1.freshTiles d
  match c.start with
  | some r => s2.setFn r.f { s2.fn r.f with recs := (s2.fn r.f).recs ++ [⟨r.seq, 0x21, stDone, r.tag, r.aseq, 0⟩] }
  | none => s2

/-- PROGRAM_END (R409). -/
def execProgramEnd (d : Fin 4) (s : State) : Host.Outcome State Fault Refusal :=
  .next (if (s.casement d).phase = .running ∧ s.allHalted d = true then s.progEnd d else s)

/-! ### Context images (R234, R410): a header of 4,096 bytes, then a slot for every logical tile -/

def imgHeader : Nat := 4096
def imgLen (nlt : Nat) : Nat := imgHeader + nlt * slotBytes

/-- A bit of each of n things, as bytes. -/
def bitmap (n : Nat) (f : Nat → Bool) : List Nat :=
  (List.range n).map (fun i => ((List.range 8).map (fun j => b2n (f (8 * i + j)) * 2 ^ j)).foldl (· + ·) 0)

/-- The header: NLT, GX, GY, the step counter, the key, which tiles have halted, which have a STEP not yet committed (log 40). -/
def State.ctxHeader (s : State) (d : Nat) : List Nat :=
  let c := s.casement d
  leBytes 4 c.nlt ++ leBytes 4 c.gx ++ leBytes 4 c.gy ++ leBytes 4 (s.numStep d) ++ leBytes 8 (s.keyOf d) ++ List.replicate 488 0 ++
    bitmap 512 (fun t => decide (t < c.nlt) && (s.lt d t).phase == .halted) ++
    bitmap 512 (fun t => decide (t < c.nlt) && (s.lt d t).stepOpen) ++ List.replicate 2560 0

/-- The entries of the live region table that name bytes (R217), as a live mask. -/
def LTile.liveMask (x : LTile) : Nat :=
  ((List.range 16).filter (fun n => fld (x.lreg n) 20 10 != 0 && fld (x.lreg n) 31 21 == 0)).foldl (fun m n => m + 2 ^ n) 0

/-- Wait conditions that the spec's image has no place for: four free words of the form of R283 (log 40). -/
def freeWaits (n : Nat) : List (Nat × Nat) :=
  ((List.range 4).map (fun i => (Config.freeWord (n + i)).toNat)).filterMap (fun w =>
    if fld w 15 0 = 0 then none else some (fld w 19 16, fld w 15 0))

/-- A logical tile from its record in an image (R216); n: the number of its first free word. -/
def LTile.fromImage (b : List Nat) (halted open_ : Bool) (n : Nat) : LTile :=
  let x := LTile.reset.fromRecord b
  { x with live := x.liveMask, phase := if halted then .halted else .boundary, stepOpen := open_
           waits := if halted then [] else freeWaits n }

/-- The record of a logical tile as it stands (R216, R228): a resident one shows its status in its position's registers (R209), one
that is not resident while the program runs stands in its slot. -/
def State.recNow (s : State) (d t : Nat) : State × List PByte :=
  let x := s.lt d t
  match x.phys with
  | some p => (s, clean { x with astat := s.reg (rTil p 4), firstpos := s.reg (rTil p 8) }.recordBytes)
  | none =>
    if (s.casement d).phase = .running then
      let s1 := s.paTouch d ((s.casement d).slot t) 2560 .ctxRead
      (s1, s1.slotRecord d t)
    else (s, clean x.recordBytes)

/-- A logical tile with its record as it stands. -/
def State.ltNow (s : State) (d t : Nat) : LTile := (s.lt d t).fromRecord (pvals (s.recNow d t).2)

/-- The live bytes [a, a + n) of logical tile t, wherever they are. -/
def State.liveRead (s : State) (d t a n : Nat) : State × List PByte :=
  match (s.lt d t).phys with
  | some p => let s1 := s.paneTouch p a n; (s1, s1.paneRead p a n)
  | none =>
    if (s.casement d).phase = .running then
      let x := (s.casement d).image t a
      let s1 := s.paTouch d x n .ctxRead
      (s1, s1.paRead d x n)
    else (s, s.heldRead d t a n)

/-! ### CTX_SAVE (R410) -/

/-- A range of host pages: mapped, and for a write not read-only. -/
def State.hostRange (s : State) (d va n : Nat) (wr : Bool) : Bool :=
  decide (va + n ≤ 2 ^ 48) && (cuts frameBytes va n).all (fun r => s.pageCheck d r.1 3 wr == .ok)

/-- The host answers an access of the range with an error completion. -/
def State.hostErr (s : State) (d va n k : Nat) : Bool :=
  (cuts frameBytes va n).any (fun r => match s.place d r.1 with
    | .bus a _ => s.hbad.any (fun x => x.2.2 == k && overlap a r.2 x.1 x.2.1)
    | _ => false)

/-- One slot of the image. -/
def State.saveSlot (s : State) (d dva t : Nat) : State :=
  let r := s.recNow d t
  let x := (s.lt d t).fromRecord (pvals r.2)
  let base := dva + imgHeader + t * slotBytes
  (r.1.spWrite d 0 3 base r.2).copyLive x (fun s a n => s.liveRead d t a n)
    (fun s a b => s.spWrite d 0 3 (base + 2560 + a) b)

/-- The image is written. -/
def State.saveImage (s : State) (d dva : Nat) : State :=
  let s1 := s.spWrite d 0 3 dva (clean (s.ctxHeader d))
  (List.range (s.casement d).nlt).foldl (fun s t => s.saveSlot d dva t) s1

/-- RUN = 0: the context is held; no tile is bound. -/
def State.holdCtx (s : State) (d : Nat) : State :=
  let s1 := (List.range (s.casement d).nlt).foldl (fun s t =>
    let x := { s.ltNow d t with phys := (s.lt d t).phys }
    let s1 := x.liveRanges.foldl (fun s r => let q := s.liveRead d t r.1 r.2; q.1.heldWrite d t r.1 q.2) s
    match x.phys with
    | some p => (s1.unbind p 1).setLt d t { x with phys := none }
    | none => s1.setLt d t x) s
  s1.setCas d { s1.casement d with phase := .loaded, held := true, quiesce := false, start := none }

/-- Every logical tile is at a block boundary. -/
def State.allStill (s : State) (d : Nat) : Bool := (s.ltList d).all (fun x => x.2.phase == .boundary || x.2.phase == .halted)

def State.ctxSave (s : State) (d : Nat) (k : Cmd) : CmdOut :=
  let c := s.casement d
  let n := imgLen c.nlt
  let dva := k.f 63 0
  if s.fabState d = 2 then .done s stState 0
  else if k.f 127 64 < n then .done s stNoRes 0
  else if !s.hostRange d dva (k.f 127 64) true || s.hostErr d dva n 1 then .done s stAddress 0
  else if c.phase = .running ∧ s.allStill d = false then .wait (s.setCas d { c with quiesce := true })
  else
    let s1 := s.saveImage d dva
    if k.f 128 128 = 1 then .done (s1.setCas d { s1.casement d with quiesce := false }) stOk n
    else .done (s1.holdCtx d) stOk n

/-- CTX_SAVE (R410). -/
def execCtxSave (f : Fin 16) (s : State) : Host.Outcome State Fault Refusal :=
  .next (s.runCmd f (· == 0x22) (fun s k =>
    s.casCmd f k (maskOf [(63, 0), (127, 64), (128, 128)]) (k.f 63 0 % frameBytes == 0) false false [.running, .loaded]
      (fun s d => s.ctxSave d k)))

/-! ### CTX_RESTORE (R410, R235) -/

/-- Bytes of the image with their poison. -/
def State.imgRead (s : State) (d va n : Nat) : List PByte := s.spRead d 0 3 va n

/-- The read requests for a range of host pages (R394). -/
def State.hostAskRange (s : State) (d va n : Nat) : State :=
  (cuts frameBytes va n).foldl (fun s r => match s.place d r.1 with
    | .bus a _ => s.hostAsk (s.casement d).owner a r.2
    | _ => s) s

/-- The records of an image at sva. -/
def State.imgTiles (s : State) (d sva nlt : Nat) : List (List PByte) :=
  (List.range nlt).map (fun t => s.imgRead d (sva + imgHeader + t * slotBytes) 2560)

/-- R217, R235: the live regions fit the Pane. -/
def LTile.liveFits (x : LTile) : Bool := x.liveRanges.all (fun r => decide (r.1 + r.2 ≤ 2 ^ 19))

/-- The tiles of an image take their state and their live bytes. -/
def State.loadImage (s : State) (d sva : Nat) (xs : List LTile) : State :=
  let s0 := { s with heldPane := s.heldPane.zero 8 (ltKey d 0 * 2 ^ 19) (2 ^ 31) }
  (xs.mapIdx (fun t x => (t, x))).foldl (fun s y =>
    y.2.liveRanges.foldl (fun s r => s.heldWrite d y.1 r.1 (s.imgRead d (sva + imgHeader + y.1 * slotBytes + 2560 + r.1) r.2))
      (s.setLt d y.1 y.2)) s0

def State.ctxRestore (s : State) (d sva : Nat) : CmdOut :=
  let c := s.casement d
  if !s.hostRange d sva imgHeader false || s.hostErr d sva imgHeader 1 then .done s stAddress 0
  else
    let h := s.imgRead d sva imgHeader
    let hd := pvals h
    let gx := leAt hd 4 4
    if ppsn h || leAt hd 0 4 != c.nlt || gx == 0 || c.nlt % gx != 0 then .done s stRejected 0
    else if !s.hostRange d sva (imgLen c.nlt) false then .done s stAddress 0
    else
      let s := s.hostAskRange d sva (imgLen c.nlt)
      let recErr := (List.range c.nlt).any (fun t => s.hostErr d (sva + imgHeader + t * slotBytes) 2560 1)
      let recs := s.imgTiles d sva c.nlt
      let xs := recs.mapIdx (fun t b => LTile.fromImage (pvals b) (bit (leAt hd (512 + t / 8) 1) (t % 8))
        (bit (leAt hd (1024 + t / 8) 1) (t % 8)) (s.free + 4 * t))
      let liveErr := (xs.mapIdx (fun t x => x.liveRanges.any (fun r =>
        s.hostErr d (sva + imgHeader + t * slotBytes + 2560 + r.1) r.2 1))).any id
      if recErr then .done s stAddress 0
      else if recs.any ppsn || !xs.all LTile.liveFits then .done s stRejected 0
      else if liveErr then .done s stAddress 0
      else
        let s1 := ({ s with free := s.free + 4 * c.nlt }.loadImage d sva xs).putKey d (leAt hd 16 8)
        let s2 := s1.setReg (0x0070260 + 4 * d) (BitVec.ofNat 32 (leAt hd 12 4))
        .done (s2.setCas d { s2.casement d with gx := gx, gy := c.nlt / gx, held := true,
                                                 steps := (xs.filter (·.stepOpen)).length }) stOk 0

/-- CTX_RESTORE (R410). -/
def execCtxRestore (f : Fin 16) (s : State) : Host.Outcome State Fault Refusal :=
  .next (s.runCmd f (· == 0x23) (fun s k =>
    s.casCmd f k (maskOf [(63, 0)]) true false false [.loaded] (fun s d => s.ctxRestore d (k.f 63 0))))

end Sys2Proof.Machine
end

