-- ==== Sys2Proof/Machine/RegCmds.lean ====
section
/-! DEFINITION. The commands that read or write one register: each is the access of its register (Access). -/

namespace Sys2Proof.Machine

/-- REG_WRITE (R8): a write of 32 or 64 bits at any offset; one that is not aligned is the access of R7. -/
def execRegWrite (rq : Req) (off : Nat) (wide : Bool) (v : BitVec 64) (s : State) : Host.Outcome State Fault Refusal :=
  .next (if aligned off wide then s.wrReg rq off wide v.toNat else s.badAccess rq off (if wide then 8 else 4) true)

/-- RC_READ (R8, R10): a read of 32 or 64 bits at any offset; RC fields are cleared. -/
def execRcRead (rq : Req) (off : Nat) (wide : Bool) (s : State) : Host.Outcome State Fault Refusal :=
  .next (if aligned off wide then
      (if s.reaches rq then
        let r := s.rdReg rq off wide
        r.1.emit (.reg rq off (if wide then 8 else 4) r.2)
      else s)
    else s.badAccess rq off (if wide then 8 else 4) false)

/-- BAD_WIDTH_ACCESS (R7); an access of a proper width and alignment is no such access (log 2). -/
def execBadWidthAccess (rq : Req) (off width : Nat) (wr : Bool) (s : State) : Host.Outcome State Fault Refusal :=
  .next (if (width = 4 ∧ off % 4 = 0) ∨ (width = 8 ∧ off % 8 = 0) then s else s.badAccess rq off width wr)

/-! ### Fabric -/

/-- FAB_COMMIT (R350, R364). -/
def execFabCommit (rq : Req) (d : Fin 4) (s : State) : Host.Outcome State Fault Refusal := .next (s.wr32 rq (rFab d 0x14) 1 .none)
/-- FAB_HOLD (R359, R364). -/
def execFabHold (rq : Req) (d : Fin 4) (s : State) : Host.Outcome State Fault Refusal := .next (s.wr32 rq (rFab d 0x14) 2 .none)
/-- FAB_RESUME (R361, R364). -/
def execFabResume (rq : Req) (d : Fin 4) (s : State) : Host.Outcome State Fault Refusal := .next (s.wr32 rq (rFab d 0x14) 3 .none)
/-- FAB_END (R364). -/
def execFabEnd (rq : Req) (d : Fin 4) (s : State) : Host.Outcome State Fault Refusal := .next (s.wr32 rq (rFab d 0x14) 4 .none)
/-- FAB_ENTRY_WRITE (R351): a write to a member, group or routing entry. -/
def execFabEntryWrite (rq : Req) (off : Nat) (v : BitVec 32) (s : State) : Host.Outcome State Fault Refusal :=
  .next (if isEntry off ∧ off % 4 = 0 then s.wr32 rq off v.toNat .none else s)
/-- PKGID_WRITE (R337). -/
def execPkgidWrite (rq : Req) (v : BitVec 32) (s : State) : Host.Outcome State Fault Refusal := .next (s.wr32 rq 0x0200000 v.toNat .none)
/-- FLOOR_WRITE (R363). -/
def execFloorWrite (rq : Req) (v : BitVec 32) (s : State) : Host.Outcome State Fault Refusal := .next (s.wr32 rq 0x0200008 v.toNat .none)
/-- PORT_RETRAIN (R328): RETRAIN is written, EN as it stands. -/
def execPortRetrain (rq : Req) (p : Fin 8) (s : State) : Host.Outcome State Fault Refusal :=
  .next (s.wr32 rq (rPort p 4) (s.rf (rPort p 4) 0 0 + 2) .none)

/-! ### Hardened registers with rules of their own -/

/-- SPW_WRITE (R304). -/
def execSpwWrite (rq : Req) (d : Fin 4) (v : BitVec 32) (s : State) : Host.Outcome State Fault Refusal :=
  .next (s.wr32 rq (0x0180000 + 4 * d) v.toNat .none)
/-- KEY_WRITE (R151, R152). -/
def execKeyWrite (rq : Req) (d : Fin 4) (hi : Bool) (v : BitVec 32) (s : State) : Host.Outcome State Fault Refusal :=
  .next (s.wr32 rq (0x0070400 + 8 * d + 4 * b2n hi) v.toNat .none)
/-- INJ_ARM (R370): a write of INT_INJ_CTL. -/
def execInjArm (rq : Req) (v : BitVec 32) (s : State) : Host.Outcome State Fault Refusal := .next (s.wr32 rq 0x0060100 v.toNat .none)
/-- HUNLK_ADR_WRITE (R375). -/
def execHunlkAdrWrite (rq : Req) (v : BitVec 32) (s : State) : Host.Outcome State Fault Refusal := .next (s.wr32 rq 0x0060010 v.toNat .none)
/-- HUNLK_LEN_WRITE (R375). -/
def execHunlkLenWrite (rq : Req) (v : BitVec 32) (s : State) : Host.Outcome State Fault Refusal := .next (s.wr32 rq 0x0060014 v.toNat .none)
/-- HUNLK_KEY_WRITE (R375). -/
def execHunlkKeyWrite (rq : Req) (v : BitVec 32) (s : State) : Host.Outcome State Fault Refusal := .next (s.wr32 rq 0x0060018 v.toNat .none)

/-! ### Check-value units (R392) -/

/-- CVU_CTL_WRITE. -/
def execCvuCtlWrite (rq : Req) (u : Fin 8) (v : BitVec 32) (s : State) : Host.Outcome State Fault Refusal := .next (s.wr32 rq (rCvu u 0) v.toNat .none)
/-- CVU_FEED8 (R389). -/
def execCvuFeed8 (rq : Req) (u : Fin 8) (v : BitVec 32) (s : State) : Host.Outcome State Fault Refusal := .next (s.wr32 rq (rCvu u 0x0C) v.toNat .none)
/-- CVU_FEED16 (R389). -/
def execCvuFeed16 (rq : Req) (u : Fin 8) (v : BitVec 32) (s : State) : Host.Outcome State Fault Refusal := .next (s.wr32 rq (rCvu u 0x10) v.toNat .none)
/-- CVU_FEED32 (R389). -/
def execCvuFeed32 (rq : Req) (u : Fin 8) (v : BitVec 32) (s : State) : Host.Outcome State Fault Refusal := .next (s.wr32 rq (rCvu u 0x14) v.toNat .none)
/-- CVU_COMBINE (R390): CMD 1. -/
def execCvuCombine (rq : Req) (u : Fin 8) (s : State) : Host.Outcome State Fault Refusal := .next (s.wr32 rq (rCvu u 0x28) 1 .none)
/-- CVU_EMPTY (R392): CMD 2. -/
def execCvuEmpty (rq : Req) (u : Fin 8) (s : State) : Host.Outcome State Fault Refusal := .next (s.wr32 rq (rCvu u 0x28) 2 .none)

/-! ### Rings, watchdog, block resets, seal test, life cycle -/

/-- RING_HEAD_WRITE (R418). -/
def execRingHeadWrite (rq : Req) (f : Fin 16) (evt : Bool) (v : BitVec 32) (s : State) : Host.Outcome State Fault Refusal :=
  .next (s.wr32 rq (ringWin f evt + 0x1C) v.toNat .none)
/-- RING_CTL_WRITE (R419). -/
def execRingCtlWrite (rq : Req) (f : Fin 16) (evt : Bool) (v : BitVec 32) (s : State) : Host.Outcome State Fault Refusal :=
  .next (s.wr32 rq (ringWin f evt + 0x18) v.toNat .none)
/-- WDT_FEED (R449). -/
def execWdtFeed (rq : Req) (v : BitVec 32) (s : State) : Host.Outcome State Fault Refusal := .next (s.wr32 rq 0x0010024 v.toNat .none)
/-- BLOCK_RESET_WRITE (R449). -/
def execBlockResetWrite (rq : Req) (off : Nat) (v : BitVec 32) (s : State) : Host.Outcome State Fault Refusal :=
  .next (if isRstBit off ∧ off % 4 = 0 then s.wr32 rq off v.toNat .none else s)
/-- SEAL_TEST (R443, R450): START. -/
def execSealTest (rq : Req) (s : State) : Host.Outcome State Fault Refusal := .next (s.wr32 rq 0x0020800 1 .none)
/-- LC_TRANSITION (R463): TARGET and GO. -/
def execLcTransition (rq : Req) (target : Nat) (s : State) : Host.Outcome State Fault Refusal :=
  .next (s.wr32 rq 0x0020004 (target % 8 + 8) .none)

/-! ### Firmware (R456) -/

/-- FWU_STAGE; cut says whether SUPPLY_RSV_L or a reset cuts it short, and after how many sectors (R458). -/
def execFwuStage (rq : Req) (cut : Option (Nat × Bool)) (s : State) : Host.Outcome State Fault Refusal := .next (s.wr32 rq 0x0030000 1 ⟨cut, .none⟩)
/-- FWU_ARM. -/
def execFwuArm (rq : Req) (s : State) : Host.Outcome State Fault Refusal := .next (s.wr32 rq 0x0030000 2 .none)
/-- FWU_DISARM. -/
def execFwuDisarm (rq : Req) (s : State) : Host.Outcome State Fault Refusal := .next (s.wr32 rq 0x0030000 3 .none)
/-- FWU_ACTIVATE. -/
def execFwuActivate (rq : Req) (x : ShutIn) (s : State) : Host.Outcome State Fault Refusal :=
  .next (s.wr32 rq 0x0030000 4 ⟨none, x⟩)
/-- FWU_SVNCOMMIT. -/
def execFwuSvncommit (rq : Req) (s : State) : Host.Outcome State Fault Refusal := .next (s.wr32 rq 0x0030000 5 .none)
/-- FWU_DBSET. -/
def execFwuDbset (rq : Req) (s : State) : Host.Outcome State Fault Refusal := .next (s.wr32 rq 0x0030000 6 .none)
/-- FWU_DBCLR. -/
def execFwuDbclr (rq : Req) (s : State) : Host.Outcome State Fault Refusal := .next (s.wr32 rq 0x0030000 7 .none)
/-- FWU_ATTEST. -/
def execFwuAttest (rq : Req) (s : State) : Host.Outcome State Fault Refusal := .next (s.wr32 rq 0x0030000 8 .none)

end Sys2Proof.Machine
end

