-- ==== Sys2Proof/Machine/Dispatch.lean ====
section
/-! DEFINITION. One arm per command: one direct call of its meaning. -/

namespace Sys2Proof.Machine

def exec (i : Instr) (s : State) : Host.Outcome State Fault Refusal :=
  match i with
  | .ld d t w => Sys2Proof.Machine.execLd d t w s
  | .st d t w => Sys2Proof.Machine.execSt d t w s
  | .mov d t w => Sys2Proof.Machine.execMov d t w s
  | .tdld d t w => Sys2Proof.Machine.execTdld d t w s
  | .tdst d t w => Sys2Proof.Machine.execTdst d t w s
  | .tdadj d t w => Sys2Proof.Machine.execTdadj d t w s
  | .mmq d t w ups => Sys2Proof.Machine.execMmq d t w ups s
  | .mmw d t w ups => Sys2Proof.Machine.execMmw d t w ups s
  | .lrc d t w ups => Sys2Proof.Machine.execLrc d t w ups s
  | .qnt d t w ups => Sys2Proof.Machine.execQnt d t w ups s
  | .dqt d t w ups => Sys2Proof.Machine.execDqt d t w ups s
  | .rot d t w ups => Sys2Proof.Machine.execRot d t w ups s
  | .outx d t w => Sys2Proof.Machine.execOutx d t w s
  | .rng d t w => Sys2Proof.Machine.execRng d t w s
  | .smp d t w => Sys2Proof.Machine.execSmp d t w s
  | .ewo d t w ups => Sys2Proof.Machine.execEwo d t w ups s
  | .red d t w ups => Sys2Proof.Machine.execRed d t w ups s
  | .opt d t w ups => Sys2Proof.Machine.execOpt d t w ups s
  | .crc d t w => Sys2Proof.Machine.execCrc d t w s
  | .dgst d t w => Sys2Proof.Machine.execDgst d t w s
  | .send d t w => Sys2Proof.Machine.execSend d t w s
  | .recv d t w => Sys2Proof.Machine.execRecv d t w s
  | .ared d t w ups => Sys2Proof.Machine.execAred d t w ups s
  | .sync d t w => Sys2Proof.Machine.execSync d t w s
  | .epochStep d t w => Sys2Proof.Machine.execEpochStep d t w s
  | .epochToken d t w => Sys2Proof.Machine.execEpochToken d t w s
  | .fence d t w => Sys2Proof.Machine.execFence d t w s
  | .blkend d t w => Sys2Proof.Machine.execBlkend d t w s
  | .br d t w => Sys2Proof.Machine.execBr d t w s
  | .salu d t w => Sys2Proof.Machine.execSalu d t w s
  | .sli d t w => Sys2Proof.Machine.execSli d t w s
  | .pcmp d t w => Sys2Proof.Machine.execPcmp d t w s
  | .plog d t w => Sys2Proof.Machine.execPlog d t w s
  | .gets d t w => Sys2Proof.Machine.execGets d t w s
  | .sets d t w => Sys2Proof.Machine.execSets d t w s
  | .instructionComplete d t id => Sys2Proof.Machine.execInstructionComplete d t id s
  | .blockBoundary d t rngBad crcBad hostMig => Sys2Proof.Machine.execBlockBoundary d t rngBad crcBad hostMig s
  | .blockStart d t => Sys2Proof.Machine.execBlockStart d t s
  | .sendDelivery d t id => Sys2Proof.Machine.execSendDelivery d t id s
  | .inFieldTest p => Sys2Proof.Machine.execInFieldTest p s
  | .inFieldTestDone p pass => Sys2Proof.Machine.execInFieldTestDone p pass s
  | .numCommit d => Sys2Proof.Machine.execNumCommit d s
  | .paneRead p word flips => Sys2Proof.Machine.execPaneRead p word flips s
  | .paneWrite p off bytes poison => Sys2Proof.Machine.execPaneWrite p off bytes poison s
  | .paneScrubVisit p flips => Sys2Proof.Machine.execPaneScrubVisit p flips s
  | .transomAccess sl reqs flips evict => Sys2Proof.Machine.execTransomAccess sl reqs flips evict s
  | .transomScrubVisit sl flips => Sys2Proof.Machine.execTransomScrubVisit sl flips s
  | .hbmRead st chunk kind waiting errs => Sys2Proof.Machine.execHbmRead st chunk kind waiting errs s
  | .hbmWrite st off kind waiting bytes poison => Sys2Proof.Machine.execHbmWrite st off kind waiting bytes poison s
  | .hbmRefresh st temp rfm => Sys2Proof.Machine.execHbmRefresh st temp rfm s
  | .hbmPatrolScrub st pc errs => Sys2Proof.Machine.execHbmPatrolScrub st pc errs s
  | .pageOut d e => Sys2Proof.Machine.execPageOut d e s
  | .pageInDemand d va e => Sys2Proof.Machine.execPageInDemand d va e s
  | .pageInPrefetch d e => Sys2Proof.Machine.execPageInPrefetch d e s
  | .frameReceive p bytes => Sys2Proof.Machine.execFrameReceive p bytes s
  | .frameReplay p => Sys2Proof.Machine.execFrameReplay p s
  | .frameForward p => Sys2Proof.Machine.execFrameForward p s
  | .idleFrameSend p => Sys2Proof.Machine.execIdleFrameSend p s
  | .linkTimeout p => Sys2Proof.Machine.execLinkTimeout p s
  | .requestTimeout d reqid => Sys2Proof.Machine.execRequestTimeout d reqid s
  | .portTraining p lanes => Sys2Proof.Machine.execPortTraining p lanes s
  | .laneErrorRetrain p lane => Sys2Proof.Machine.execLaneErrorRetrain p lane s
  | .hello p => Sys2Proof.Machine.execHello p s
  | .preq p => Sys2Proof.Machine.execPreq p s
  | .grant p => Sys2Proof.Machine.execGrant p s
  | .grantIssue p => Sys2Proof.Machine.execGrantIssue p s
  | .piece p => Sys2Proof.Machine.execPiece p s
  | .digest p addBad => Sys2Proof.Machine.execDigest p addBad s
  | .ack p => Sys2Proof.Machine.execAck p s
  | .deliver p => Sys2Proof.Machine.execDeliver p s
  | .err p => Sys2Proof.Machine.execErr p s
  | .token p => Sys2Proof.Machine.execToken p s
  | .tokenForward d => Sys2Proof.Machine.execTokenForward d s
  | .hold p => Sys2Proof.Machine.execHold p s
  | .meshFlitReceive pos dir crcOk => Sys2Proof.Machine.execMeshFlitReceive pos dir crcOk s
  | .fabCommit rq d => Sys2Proof.Machine.execFabCommit rq d s
  | .fabHold rq d => Sys2Proof.Machine.execFabHold rq d s
  | .fabResume rq d => Sys2Proof.Machine.execFabResume rq d s
  | .fabEnd rq d => Sys2Proof.Machine.execFabEnd rq d s
  | .fabEntryWrite rq off v => Sys2Proof.Machine.execFabEntryWrite rq off v s
  | .pkgidWrite rq v => Sys2Proof.Machine.execPkgidWrite rq v s
  | .floorWrite rq v => Sys2Proof.Machine.execFloorWrite rq v s
  | .portRetrain rq p => Sys2Proof.Machine.execPortRetrain rq p s
  | .spwWrite rq d v => Sys2Proof.Machine.execSpwWrite rq d v s
  | .keyWrite rq d hi v => Sys2Proof.Machine.execKeyWrite rq d hi v s
  | .injArm rq v => Sys2Proof.Machine.execInjArm rq v s
  | .hunlkAdrWrite rq v => Sys2Proof.Machine.execHunlkAdrWrite rq v s
  | .hunlkLenWrite rq v => Sys2Proof.Machine.execHunlkLenWrite rq v s
  | .hunlkKeyWrite rq v => Sys2Proof.Machine.execHunlkKeyWrite rq v s
  | .hardenedScrubVisit flips wc => Sys2Proof.Machine.execHardenedScrubVisit flips wc s
  | .cvuCtlWrite rq u v => Sys2Proof.Machine.execCvuCtlWrite rq u v s
  | .cvuFeed8 rq u v => Sys2Proof.Machine.execCvuFeed8 rq u v s
  | .cvuFeed16 rq u v => Sys2Proof.Machine.execCvuFeed16 rq u v s
  | .cvuFeed32 rq u v => Sys2Proof.Machine.execCvuFeed32 rq u v s
  | .cvuCombine rq u => Sys2Proof.Machine.execCvuCombine rq u s
  | .cvuEmpty rq u => Sys2Proof.Machine.execCvuEmpty rq u s
  | .intakeWrite f off bytes => Sys2Proof.Machine.execIntakeWrite f off bytes s
  | .blockAccept f => Sys2Proof.Machine.execBlockAccept f s
  | .skip f => Sys2Proof.Machine.execSkip f s
  | .nop f => Sys2Proof.Machine.execNop f s
  | .casementMap f => Sys2Proof.Machine.execCasementMap f s
  | .casementEnd f x => Sys2Proof.Machine.execCasementEnd f x s
  | .casementReset f x => Sys2Proof.Machine.execCasementReset f x s
  | .programLoad f => Sys2Proof.Machine.execProgramLoad f s
  | .start f => Sys2Proof.Machine.execStart f s
  | .programEnd d => Sys2Proof.Machine.execProgramEnd d s
  | .ctxSave f => Sys2Proof.Machine.execCtxSave f s
  | .ctxRestore f => Sys2Proof.Machine.execCtxRestore f s
  | .map f => Sys2Proof.Machine.execMap f s
  | .unmap f => Sys2Proof.Machine.execUnmap f s
  | .hostfr f => Sys2Proof.Machine.execHostfr f s
  | .dieTest f fails => Sys2Proof.Machine.execDieTest f fails s
  | .completionRecordWrite f => Sys2Proof.Machine.execCompletionRecordWrite f s
  | .ringHeadWrite rq f evt v => Sys2Proof.Machine.execRingHeadWrite rq f evt v s
  | .ringCtlWrite rq f evt v => Sys2Proof.Machine.execRingCtlWrite rq f evt v s
  | .bar4Read f off n others => Sys2Proof.Machine.execBar4Read f off n others s
  | .bar4Write f off bytes poison others => Sys2Proof.Machine.execBar4Write f off bytes poison others s
  | .configRequest f r => Sys2Proof.Machine.execConfigRequest f r s
  | .badWidthAccess rq off width wr => Sys2Proof.Machine.execBadWidthAccess rq off width wr s
  | .rcRead rq off wide => Sys2Proof.Machine.execRcRead rq off wide s
  | .regWrite rq off wide v => Sys2Proof.Machine.execRegWrite rq off wide v s
  | .flr f x => Sys2Proof.Machine.execFlr f x s
  | .powerOnReset => Sys2Proof.Machine.execPowerOnReset s
  | .sysRst asserted => Sys2Proof.Machine.execSysRst asserted s
  | .perst x => Sys2Proof.Machine.execPerst x s
  | .hotReset x => Sys2Proof.Machine.execHotReset x s
  | .wdtFeed rq v => Sys2Proof.Machine.execWdtFeed rq v s
  | .wdtExpiry x => Sys2Proof.Machine.execWdtExpiry x s
  | .blockResetWrite rq off v => Sys2Proof.Machine.execBlockResetWrite rq off v s
  | .shutter cls idx => Sys2Proof.Machine.execShutter cls idx s
  | .shutterDrained cls idx x => Sys2Proof.Machine.execShutterDrained cls idx x s
  | .shutterTimeout cls idx done x => Sys2Proof.Machine.execShutterTimeout cls idx done x s
  | .bringup b => Sys2Proof.Machine.execBringup b s
  | .sealTest rq => Sys2Proof.Machine.execSealTest rq s
  | .testAdmit done => Sys2Proof.Machine.execTestAdmit done s
  | .sealTestComplete r => Sys2Proof.Machine.execSealTestComplete r s
  | .lcTransition rq target => Sys2Proof.Machine.execLcTransition rq target s
  | .fwuStage rq cut => Sys2Proof.Machine.execFwuStage rq cut s
  | .fwuArm rq => Sys2Proof.Machine.execFwuArm rq s
  | .fwuDisarm rq => Sys2Proof.Machine.execFwuDisarm rq s
  | .fwuActivate rq x => Sys2Proof.Machine.execFwuActivate rq x s
  | .fwuSvncommit rq => Sys2Proof.Machine.execFwuSvncommit rq s
  | .fwuDbset rq => Sys2Proof.Machine.execFwuDbset rq s
  | .fwuDbclr rq => Sys2Proof.Machine.execFwuDbclr rq s
  | .fwuAttest rq => Sys2Proof.Machine.execFwuAttest rq s
  | .rsvStuckTimeout => Sys2Proof.Machine.execRsvStuckTimeout s
  | .rsvstkClearTimeout => Sys2Proof.Machine.execRsvstkClearTimeout s
  | .supplyRsv asserted => Sys2Proof.Machine.execSupplyRsv asserted s
  | .pwrLim asserted => Sys2Proof.Machine.execPwrLim asserted s
  | .pwrLimStuckTimeout => Sys2Proof.Machine.execPwrLimStuckTimeout s
  | .railFault rail => Sys2Proof.Machine.execRailFault rail s
  | .powerMeasurement watts avg => Sys2Proof.Machine.execPowerMeasurement watts avg s
  | .voltageStep d => Sys2Proof.Machine.execVoltageStep d s
  | .regulatorPoll d mv pace => Sys2Proof.Machine.execRegulatorPoll d mv pace s
  | .regulatorTimeout d => Sys2Proof.Machine.execRegulatorTimeout d s
  | .temperatureChange d tj stack temp => Sys2Proof.Machine.execTemperatureChange d tj stack temp s
  | .thermalRelease d => Sys2Proof.Machine.execThermalRelease d s
  | .thermtrip => Sys2Proof.Machine.execThermtrip s
  | .vauxRemoval => Sys2Proof.Machine.execVauxRemoval s
  | .i3cEntdaa addr => Sys2Proof.Machine.execI3cEntdaa addr s
  | .mctpControl pcie c => Sys2Proof.Machine.execMctpControl pcie c s
  | .mgtRequestArrival pcie r => Sys2Proof.Machine.execMgtRequestArrival pcie r s
  | .mgtIdentify => Sys2Proof.Machine.execMgtIdentify s
  | .mgtStatus => Sys2Proof.Machine.execMgtStatus s
  | .mgtTelemetry => Sys2Proof.Machine.execMgtTelemetry s
  | .mgtRegRead => Sys2Proof.Machine.execMgtRegRead s
  | .mgtRegWrite => Sys2Proof.Machine.execMgtRegWrite s
  | .mgtReset x => Sys2Proof.Machine.execMgtReset x s
  | .mgtFwu cut x => Sys2Proof.Machine.execMgtFwu cut x s
  | .mgtSeal => Sys2Proof.Machine.execMgtSeal s
  | .mgtLifecycle => Sys2Proof.Machine.execMgtLifecycle s
  | .mgtAttest => Sys2Proof.Machine.execMgtAttest s
  | .mgtPoll => Sys2Proof.Machine.execMgtPoll s
  | .perstDeassert => Sys2Proof.Machine.execPerstDeassert s
  | .completionTimeout d dst n => Sys2Proof.Machine.execCompletionTimeout d dst n s
  | .unassignedOpcode d t op w => Sys2Proof.Machine.execUnassignedOpcode d t op w s
  | .reservedCommandType f => Sys2Proof.Machine.execReservedCommandType f s
  | .rampDown p arr => Sys2Proof.Machine.execRampDown p arr s

end Sys2Proof.Machine
end

