-- ==== Sys2Proof/Safety.lean ====
section
/-! DEFINITION. What the statements speak of: when a tile takes an instruction and what its issue leaves, when a command finds
its unit ready, single bytes of the memories, and the canonical form of every sparse map. -/

namespace Sys2Proof.Machine

/-! ### Instructions of tiles -/

/-- The casement, the logical tile, the opcode, the fields and the hardware faults of a tile instruction's command; an EPOCH
command whose word is of the other form, and a word of no assigned opcode, are none. -/
def tileArgs : Instr → Option (Nat × Nat × IBuf)
  | .ld d t w => some (d, t, ⟨0x01, w, []⟩)
  | .st d t w => some (d, t, ⟨0x02, w, []⟩)
  | .mov d t w => some (d, t, ⟨0x03, w, []⟩)
  | .tdld d t w => some (d, t, ⟨0x04, w, []⟩)
  | .tdst d t w => some (d, t, ⟨0x05, w, []⟩)
  | .tdadj d t w => some (d, t, ⟨0x06, w, []⟩)
  | .mmq d t w u => some (d, t, ⟨0x10, w, u⟩)
  | .mmw d t w u => some (d, t, ⟨0x11, w, u⟩)
  | .lrc d t w u => some (d, t, ⟨0x12, w, u⟩)
  | .qnt d t w u => some (d, t, ⟨0x18, w, u⟩)
  | .dqt d t w u => some (d, t, ⟨0x19, w, u⟩)
  | .rot d t w u => some (d, t, ⟨0x1A, w, u⟩)
  | .outx d t w => some (d, t, ⟨0x1B, w, []⟩)
  | .rng d t w => some (d, t, ⟨0x20, w, []⟩)
  | .smp d t w => some (d, t, ⟨0x21, w, []⟩)
  | .ewo d t w u => some (d, t, ⟨0x28, w, u⟩)
  | .red d t w u => some (d, t, ⟨0x29, w, u⟩)
  | .opt d t w u => some (d, t, ⟨0x2A, w, u⟩)
  | .crc d t w => some (d, t, ⟨0x30, w, []⟩)
  | .dgst d t w => some (d, t, ⟨0x31, w, []⟩)
  | .send d t w => some (d, t, ⟨0x38, w, []⟩)
  | .recv d t w => some (d, t, ⟨0x39, w, []⟩)
  | .ared d t w u => some (d, t, ⟨0x3A, w, u⟩)
  | .sync d t w => some (d, t, ⟨0x40, w, []⟩)
  | .epochStep d t w => if w.fmt = 1#4 then none else some (d, t, ⟨0x41, w, []⟩)
  | .epochToken d t w => if w.fmt = 1#4 then some (d, t, ⟨0x41, w, []⟩) else none
  | .fence d t w => some (d, t, ⟨0x42, w, []⟩)
  | .blkend d t w => some (d, t, ⟨0x43, w, []⟩)
  | .br d t w => some (d, t, ⟨0x44, w, []⟩)
  | .salu d t w => some (d, t, ⟨0x50, w, []⟩)
  | .sli d t w => some (d, t, ⟨0x51, w, []⟩)
  | .pcmp d t w => some (d, t, ⟨0x52, w, []⟩)
  | .plog d t w => some (d, t, ⟨0x53, w, []⟩)
  | .gets d t w => some (d, t, ⟨0x54, w, []⟩)
  | .sets d t w => some (d, t, ⟨0x55, w, []⟩)
  | _ => none

/-- The tile looks at the instruction at once: it is inside a block of a running program, nothing waits before it, and fewer
than 16 instructions are incomplete (R207). -/
def State.looks (s : State) (d t : Nat) : Bool :=
  s.canIssue d t && (s.lt d t).ibuf.isEmpty && decide ((s.lt d t).inc.length < maxInc)

/-- R242: the instruction's predicate is true. -/
def LTile.executes (x : LTile) (w : IFields) : Bool := x.pred (fld w.pred.toNat 2 0) != bit w.pred.toNat 3

/-- The tile takes the instruction: it looks at it, the encoding is good, no register is awaited, and the predicate is true
(R207, R242, R244). -/
def State.takes (s : State) (d t op : Nat) (w : IFields) : Bool :=
  s.looks d t && (encCheck op w).isNone && !hazard (s.lt d t).inc [] [] (instrRegs op w) && (s.lt d t).executes w

/-- Nothing stands against an instruction that reads rds, writes wrs and consumes eaten (R207, R251, R318, R323): own are its
other faults. -/
def State.clear (s : State) (k : TC) (own : List (Option TFault)) (rds wrs eaten : List Rng) : Bool :=
  (s.rngFault k own rds wrs).isNone && !s.rngWaits k rds wrs && ((s.visited k rds wrs).rngPoison k eaten).isNone &&
    !s.rngHazard k rds wrs

/-- As State.clear, with the checks of the records that tensors ts and the ranges recs hold, and one more. -/
def State.clearStored (s : State) (k : TC) (own : List (Option TFault)) (ts : List Tens) (recs : List Rng)
    (more : State → Option TFault) (rds wrs eaten : List Rng) : Bool :=
  s.clear k own rds wrs eaten && (s.storedFault k ts more (s.heldRngs k ts recs)).isNone

/-- The logical tile becomes y as an instruction of it issues; its TIL_PWR_CTL comes into force (R209). -/
def State.issuedAs (s : State) (d t : Nat) (y : LTile) : State := (s.setLt d t y).latchPwr ((s.lt d t).phys.getD 0)

/-- The instruction is done at its issue: the pc passes it. -/
def State.passed (s : State) (d t : Nat) : State := s.issuedAs d t { s.lt d t with pc := (s.lt d t).pc + 16 }

/-- The instruction is done at its issue and the pc goes to a. -/
def State.jumped (s : State) (d t a : Nat) : State := s.issuedAs d t { s.lt d t with pc := a }

/-- The instruction has issued and joins the incomplete ones, with the Pane ranges that it reads and writes and the registers
that it writes (R207). -/
def State.started (s : State) (d t : Nat) (rds wrs : List (Nat × Nat)) (regs : List Nat) (kind : IKind) : State :=
  let y := s.lt d t
  s.issuedAs d t { y with pc := y.pc + 16, nextId := y.nextId + 1, inc := y.inc ++ [⟨y.nextId, rds, wrs, regs, kind⟩] }

/-- R206, R245: the value of a scalar operand. -/
def LTile.word (x : LTile) (b : BitVec 8) : Word := if opNone b then 0#32 else Assoc.get x.sregs (opIdx b) 0#32

/-- R285: the second operand. -/
def LTile.word2 (x : LTile) (w : IFields) : Word := if opNone w.srcb then w.imm.setWidth 32 else x.word w.srcb

/-- R285: SALU's operations as arithmetic of 32-bit words. -/
def saluWord (fmt : Nat) (a b : Word) : Word :=
  match fmt with
  | 0 => a + b
  | 1 => a - b
  | 2 => a &&& b
  | 3 => a ||| b
  | 4 => a ^^^ b
  | 5 => a <<< (b % 32#32)
  | 6 => a >>> (b % 32#32)
  | 7 => a.sshiftRight (b % 32#32).toNat
  | 8 => a * b
  | 9 => (a.setWidth 64 * b.setWidth 64).extractLsb' 32 32
  | 10 => if a.slt b then a else b
  | 11 => if a.slt b then b else a
  | 12 => if a.ult b then a else b
  | _ => if a.ult b then b else a

/-- R285: PCMP's conditions on 32-bit words. -/
def pcmpWord (fmt : Nat) (a b : Word) : Bool :=
  match fmt with
  | 0 => decide (a = b)
  | 1 => decide (a ≠ b)
  | 2 => a.slt b
  | 3 => b.sle a
  | 4 => a.ult b
  | _ => b.ule a

/-- R206: the predicates with predicate n set to b; p0 takes no write. -/
def predWith (p : BitVec 8) (n : Nat) (b : Bool) : BitVec 8 :=
  if n = 0 then p else if b then p ||| (1#8 <<< n) else p &&& ~~~(1#8 <<< n)

/-! ### Single bytes of the memories -/

/-- The stored byte at an offset of the Pane of position p (R200). -/
def State.paneByte (s : State) (p off : Nat) : Byte := Assoc.get s.pane.cells (paneKey p off) 0#8

/-- The stored byte at an offset of a stack (R287). -/
def State.hbmByte (s : State) (stack off : Nat) : Byte := Assoc.get s.hbm.cells (hbmKey stack off) 0#8

/-- The canonical form of a memory: an unlisted byte reads 0, a listed one does not, addresses and units rise. -/
def Mem.wf (m : Mem) : Bool := Assoc.wf (fun _ => 0#8) m.cells && NSet.wf m.psn && Assoc.wf (fun _ => 0) m.err

/-- Every memory of the package is in its canonical form (an erased byte of the flash reads 0xFF, R451). -/
def State.tidy (s : State) : Bool :=
  s.pane.wf && s.scratch.wf && s.hbm.wf && s.cdata.wf && s.host.wf && s.heldPane.wf && Assoc.wf (fun _ => 0#8) s.window &&
    Assoc.wf (fun _ => 0xFF#8) s.flash && NSet.wf s.cdirty

/-! ### Frames -/

/-- The first frame of a kind in port p's inbox is fr, of LIVE casement d; x is the port without it. -/
def State.gotFrame (s : State) (p : Nat) (f : FBody → Bool) (d : Nat) (fr : Frame) (x : Port) : Prop :=
  (s.port p).take (fun y => f y.body) = some (fr, x) ∧ s.fabOf fr.ctag = some d ∧ s.fabState d = 1

/-! ### Registers (R8, R11, R375) -/

/-- A write reaches the register and its requester sees the whole of it. -/
def State.lets (s : State) (rq : Req) (off : Nat) : Bool :=
  s.reaches rq && !s.unserved rq off && (rowAt off).isSome && s.view rq off == .full

/-- As State.lets, and the block of the register is not fenced (R374): a write of it is taken. -/
def State.takesWr (s : State) (rq : Req) (off : Nat) : Bool := s.lets rq off && !s.blkDown clsBlock (blockOf off)

/-- The state in which a write takes effect: its grant is made, and a window that it misses is closed. -/
def State.placed (s : State) (rq : Req) (off : Nat) : State := (s.grant (arbReg off)).windowAt rq off

/-- As State.takesWr, for a register without hardened bits. -/
def State.writes (s : State) (rq : Req) (off : Nat) : Bool := s.takesWr rq off && hrwMask off == 0

/-- As State.takesWr, for a hardened register that the requester has unlocked. -/
def State.writesHard (s : State) (rq : Req) (off : Nat) : Bool :=
  s.takesWr rq off && hrwMask off != 0 && (s.placed rq off).unlocked rq off

/-- The register's value is software's alone: a write of it does what its type codes say and nothing more. -/
def plainReg (off : Nat) : Bool :=
  !(off == 0x0010020 || off == 0x0010024 || isRstBit off || off == 0x0020004 || off == 0x0020800 || off == 0x0030000 ||
    (within off 0x0040000 0x20000 && decide (off % 0x10000 < 0x1000)) || within off 0x0060010 0x0C || off == 0x0060100 ||
    within off 0x0061000 0x200 || within off 0x0070400 0x20 || within off 0x0180000 0x10 || isStaged off || (within off 0x0201000 0x800 && off % 0x100 == 4) ||
    (within off 0x0202000 0x100 && off % 0x40 == 0x14) || decide (0x3FF0000 ≤ off))

/-- The bits of a register whose types satisfy p. -/
def typeMask (off : Nat) (p : RTy → Bool) : Nat :=
  match rowAt off with
  | some r => r.mask p
  | none => 0

/-! ### Command blocks (R403, R404, R490) -/

/-- Function f's front block may execute, is of TYPE t, sets no bit outside mask and names no casement. -/
def State.freeRun (s : State) (f : Nat) (k : Cmd) (t mask : Nat) : Prop :=
  s.frontCmd f = some k ∧ k.type = t ∧ k.plain mask = true ∧ k.ctag = 0

/-- Function f's front block may execute, is of TYPE t, sets no bit outside mask, and acts on casement d, which is in one of the
states xs. -/
def State.casRun (s : State) (f : Nat) (k : Cmd) (t mask : Nat) (any : Bool) (xs : List CPhase) (d : Nat) : Prop :=
  s.frontCmd f = some k ∧ k.type = t ∧ k.plain mask = true ∧ s.named f k.ctag any = some d ∧ xs.contains (s.casement d).phase = true

/-! ### The management path (R483) -/

/-- The request at the front of the management queue, its transport, and the rest of the queue; it may execute. -/
def State.mgtRun (s : State) (pcie : Bool) (r : MReq) (rest : List (Bool × MReq)) : Prop :=
  s.mgt.queue = (pcie, r) :: rest ∧ s.pkcHeld = false ∧ (s.isSafe = true → mSafeOk r.body = true)

/-- The state with the management queue as given. -/
def State.withQueue (s : State) (q : List (Bool × MReq)) : State := { s with mgt := { s.mgt with queue := q } }

end Sys2Proof.Machine
end

