-- ==== Sys2Proof/Certificates/Slice0/Obligations.lean ====
section
/-! DEFINITION. The statements for the provers: what the rules of spec/ say the commands do to the package. -/

open Sys2Proof Sys2Proof.Machine

/-! ### Tile instructions: scalar, predicate and descriptor registers -/

/-- R206, R245, R285: SALU's result for every form, and that nothing else changes. SLI, PCMP, PLOG, SETS and GETS write the register
that DST names; nothing else changes but the pc. A write to p0 is ignored. -/
def Obligations.ScalarResults : Prop :=
  (∀ (d : Fin 4) (t : Fin 4096) (w : IFields) (s : State), s.takes d t 0x50 w = true →
    exec (.salu d t w) s = .next (s.issuedAs d t { s.lt d t with
      sregs := Assoc.put (s.lt d t).sregs (opIdx w.dst) (saluWord w.fmt.toNat ((s.lt d t).word w.srca) ((s.lt d t).word2 w)) 0#32
      pc := (s.lt d t).pc + 16 })) ∧
  (∀ (d : Fin 4) (t : Fin 4096) (w : IFields) (s : State),
    (s.takes d t 0x51 w = true → exec (.sli d t w) s = .next (s.issuedAs d t { s.lt d t with
      sregs := Assoc.put (s.lt d t).sregs (opIdx w.dst) (w.imm.setWidth 32) 0#32
      pc := (s.lt d t).pc + 16 })) ∧
    (s.takes d t 0x52 w = true → exec (.pcmp d t w) s = .next (s.issuedAs d t { s.lt d t with
      preds := predWith (s.lt d t).preds (opIdx w.dst) (pcmpWord w.fmt.toNat ((s.lt d t).word w.srca) ((s.lt d t).word2 w))
      pc := (s.lt d t).pc + 16 })) ∧
    (s.takes d t 0x53 w = true → exec (.plog d t w) s = .next (s.issuedAs d t { s.lt d t with
      preds := predWith (s.lt d t).preds (opIdx w.dst)
        (let a := (s.lt d t).pred (opIdx w.srca)
         let b := (s.lt d t).pred (opIdx w.srcb)
         match w.fmt.toNat with
         | 0 => a && b
         | 1 => a || b
         | 2 => a ^^ b
         | _ => a && !b)
      pc := (s.lt d t).pc + 16 })) ∧
    (s.takes d t 0x55 w = true → exec (.sets d t w) s = .next (s.issuedAs d t { s.lt d t with
      lr := Assoc.put (s.lt d t).lr (opIdx w.dst - 0x20) ((s.lt d t).word w.srca) 0#32
      pc := (s.lt d t).pc + 16 })) ∧
    (s.takes d t 0x54 w = true → specLayer (opIdx w.srca) = true → (s.lt d t).stepWaits = true →
      exec (.gets d t w) s = .next (s.hold d t ⟨0x54, w, []⟩)) ∧
    (s.takes d t 0x54 w = true →
      (specLayer (opIdx w.srca) = true → (s.lt d t).stepWaits = false ∧ (s.layer d (w.imm.toNat % 4096)).isSome = true) →
      exec (.gets d t w) s = .next (s.issuedAs d t { s.lt d t with
        sregs := Assoc.put (s.lt d t).sregs (opIdx w.dst)
          (BitVec.ofNat 32 (s.special (s.tc d t ⟨0x54, w, []⟩) (opIdx w.srca) ((s.layer d (w.imm.toNat % 4096)).getD 0))) 0#32
        pc := (s.lt d t).pc + 16 })))

/-- R257: TDLD, TDST and TDADJ, with the alignment fault and the address fault of the first two. -/
def Obligations.DescriptorMoves : Prop :=
  ∀ (d : Fin 4) (t : Fin 4096) (w : IFields) (s : State),
    let x := s.lt d t
    let p := x.phys.getD 0
    (s.takes d t 0x04 w = true →
      let a := (x.word w.srca).toNat
      let u := s.paneTouch p a 32
      (hazard x.inc [(a, 32)] [] [] = true → exec (.tdld d t w) s = .next (s.hold d t ⟨0x04, w, []⟩)) ∧
      (hazard x.inc [(a, 32)] [] [] = false → a % 32 ≠ 0 → exec (.tdld d t w) s = .next (s.raiseFault d t ⟨3, 2, a⟩ x.pc (instrLow 0x04 w))) ∧
      (hazard x.inc [(a, 32)] [] [] = false → a % 32 = 0 → 524288 < a + 32 →
        exec (.tdld d t w) s = .next (s.raiseFault d t ⟨4, 2, max a 524288⟩ x.pc (instrLow 0x04 w))) ∧
      (a % 32 = 0 → a + 32 ≤ 524288 → ppsn (u.paneRead p a 32) = false → hazard x.inc [(a, 32)] [] [] = false →
        exec (.tdld d t w) s = .next ((u.setLt d t { u.lt d t with
          tds := Assoc.put (u.lt d t).tds (opIdx w.dst) (BitVec.ofNat 256 (leNat (pvals (u.paneRead p a 32)))) 0#256 }).started
            d t [(a, 32)] [] [32 + opIdx w.dst] .plain))) ∧
    (s.takes d t 0x05 w = true →
      let a := (x.word w.dst).toNat
      (hazard x.inc [] [(a, 32)] [] = true → exec (.tdst d t w) s = .next (s.hold d t ⟨0x05, w, []⟩)) ∧
      (hazard x.inc [] [(a, 32)] [] = false → a % 32 ≠ 0 → exec (.tdst d t w) s = .next (s.raiseFault d t ⟨3, 1, a⟩ x.pc (instrLow 0x05 w))) ∧
      (hazard x.inc [] [(a, 32)] [] = false → a % 32 = 0 → 524288 < a + 32 →
        exec (.tdst d t w) s = .next (s.raiseFault d t ⟨4, 1, max a 524288⟩ x.pc (instrLow 0x05 w))) ∧
      (a % 32 = 0 → a + 32 ≤ 524288 → hazard x.inc [] [(a, 32)] [] = false →
        exec (.tdst d t w) s = .next ((s.paneWrite p a (clean (leBytes 32 (x.td (opIdx w.srca)).toNat))).started
          d t [] [(a, 32)] [] .plain))) ∧
    (s.takes d t 0x06 w = true →
      ∃ v : Desc,
        exec (.tdadj d t w) s = .next (s.issuedAs d t { x with
          tds := Assoc.put x.tds (opIdx w.dst) v 0#256
          pc := x.pc + 16 }) ∧
        (let hi := (adjField w.fmt.toNat).1
         let lo := (adjField w.fmt.toNat).2
         let o := x.td (opIdx w.dst)
         ((fld v.toNat hi lo : Int) = (fld o.toNat hi lo + (x.word w.srca).toInt) % 2 ^ (hi + 1 - lo)) ∧
         ∀ i, i < lo ∨ hi < i → v.getLsbD i = o.getLsbD i))

/-- R284: BR's target, the block fault of a target outside the block, and the fall through on a false predicate. -/
def Obligations.BranchTarget : Prop :=
  ∀ (d : Fin 4) (t : Fin 4096) (w : IFields) (s : State),
    let x := s.lt d t
    let tgt := (BitVec.ofInt 64 ((x.pc : Int) + 16 * (w.imm.setWidth 32).toInt)).toNat
    (s.takes d t 0x44 w = true → x.bstart ≤ tgt → tgt ≤ x.bend →
      exec (.br d t w) s = .next (s.jumped d t tgt)) ∧
    (s.takes d t 0x44 w = true → (tgt < x.bstart ∨ x.bend < tgt) →
      exec (.br d t w) s = .next (s.raiseFault d t ⟨0x0D, 5, 0⟩ x.pc (instrLow 0x44 w))) ∧
    (s.looks d t = true → encCheck 0x44 w = none → hazard x.inc [] [] (instrRegs 0x44 w) = false → x.executes w = false →
      exec (.br d t w) s = .next (s.passed d t))

/-- R217, R221, R283: BLKEND ends the block and leaves the live mask, the merged wait conditions, the address of the next block
and the halt request; a bad live entry and a bad wait word raise their faults, the live-region fault before the block fault. -/
def Obligations.BlockEnd : Prop :=
  ∀ (d : Fin 4) (t : Fin 4096) (w : IFields) (s : State),
    let x := s.lt d t
    let ws : List Nat := if opNone w.srca then [] else
      [(x.word w.srca).toNat, x.sreg (opIdx w.srca + 1), x.sreg (opIdx w.srca + 2), x.sreg (opIdx w.srca + 3)]
    let off := (w.imm >>> 16).setWidth 32
    let liveBroken := ∃ n : Nat, n < 16 ∧ w.imm.getLsbD n = true ∧
      (2 ^ 21 ≤ x.lreg n ∨ 1024 < x.lreg n % 1024 + x.lreg n / 1024 % 2048)
    let waitBroken := ∃ c ∈ ws, c % 2 ^ 16 ≠ 0 ∧ 2 ^ 20 ≤ c
    s.takes d t 0x43 w = true →
      (liveBroken → exec (.blkend d t w) s = .next (s.raiseFault d t ⟨0x0C, 7, 0⟩ x.pc (instrLow 0x43 w))) ∧
      (¬ liveBroken → waitBroken → exec (.blkend d t w) s = .next (s.raiseFault d t ⟨0x0D, 2, 0⟩ x.pc (instrLow 0x43 w))) ∧
      (¬ liveBroken → ¬ waitBroken → exec (.blkend d t w) s = .next (s.issuedAs d t { x with
        phase := .ended
        live := w.imm.toNat % 2 ^ 16
        waits := ((List.range 16).map (fun n =>
          (n, ((ws.filter (fun c => c / 2 ^ 16 % 16 == n)).map (· % 2 ^ 16)).sum))).filter (fun c => c.2 != 0)
        next := (BitVec.ofInt 64 ((x.pc : Int) + 16 * (if off = 0#32 then 1 else off.toInt))).toNat
        haltReq := w.imm.getLsbD 48
        pc := x.pc + 16 }))

/-- R222, R278, R279, R282, R281, R351, R352: FENCE issues only when nothing is incomplete, and waits in the buffer otherwise; RECV takes
its arrivals at once when they are there; SYNC adds one arrival to every member, or raises the tile-range fault. EPOCH in both forms. A
step counts in the casement and stays open; a token of the master passes at once on a casement of one member, and otherwise leaves for
the next member. -/
def Obligations.SyncForms : Prop :=
  (∀ (d : Fin 4) (t : Fin 4096) (w : IFields) (s : State),
    let x := s.lt d t
    (s.takes d t 0x42 w = true → x.inc = [] → exec (.fence d t w) s = .next (s.passed d t)) ∧
    (s.takes d t 0x42 w = true → x.inc ≠ [] →
      exec (.fence d t w) s = .next (s.setLt d t { x with ibuf := [⟨0x42, w, []⟩] })) ∧
    (s.takes d t 0x39 w = true →
      let n := w.imm.toNat % 16
      let c := w.imm.toNat / 16 % 2 ^ 16
      (c ≤ x.acnt n →
        exec (.recv d t w) s = .next ((s.grant (arbPlace (s.dispOf d t))).issuedAs d t { x with
          ac := Assoc.put x.ac n (BitVec.ofNat 32 (x.acnt n - c)) 0#32
          pc := x.pc + 16 })) ∧
      (x.acnt n < c → ∃ u, exec (.recv d t w) s = .next u ∧ u.lt d t = { x with
        pc := x.pc + 16
        nextId := x.nextId + 1
        inc := x.inc ++ [⟨x.nextId, [], [], [], .recv n c⟩] })) ∧
    (s.takes d t 0x40 w = true →
      let first := w.imm.toNat % 2 ^ 12
      let count := w.imm.toNat / 2 ^ 12 % 2 ^ 13
      let n := w.imm.toNat / 2 ^ 25 % 16
      (first + count ≤ (s.casement d).nlt →
        exec (.sync d t w) s = .next (((List.range count).foldl (fun u i => u.arrive d (first + i) n) s).passed d t)) ∧
      ((s.casement d).nlt < first + count →
        exec (.sync d t w) s = .next (s.raiseFault d t ⟨0x0B, 5, 0⟩ x.pc (instrLow 0x40 w))))) ∧
  (∀ (d : Fin 4) (t : Fin 4096) (w : IFields) (s : State), s.takes d t 0x41 w = true →
    let x := s.lt d t
    let k := s.tc d t ⟨0x41, w, []⟩
    (w.fmt ≠ 1#4 → x.stepOpen = false →
      let u := (s.setCas d { s.casement d with steps := (s.casement d).steps + 1 }).setLt d t
        { x with stepOpen := true, stepAt := x.nextId }
      exec (.epochStep d t w) s = .next (if w.imm.getLsbD 0 then u.started d t [] [] [] .step else u.passed d t)) ∧
    (w.fmt = 1#4 → s.tokenBad k = true →
      exec (.epochToken d t w) s = .next (s.raiseFault d t ⟨0x0E, 0, 0⟩ x.pc (instrLow 0x41 w))) ∧
    (w.fmt = 1#4 → s.tokenBad k = false → (s.fab d).tokOut = none →
      ((s.members d).length ≤ 1 →
        exec (.epochToken d t w) s = .next (((s.setReg (rFab d 0x10) (s.reg (rFab d 0x10) + 1#32)).ripen d).passed d t)) ∧
      (1 < (s.members d).length →
        let u := s.setFab d { s.fab d with tokOut := some ((t : Nat), x.nextId) }
        exec (.epochToken d t w) s = .next
          ((u.sendTo (u.successor d) (u.fabTag d) 0 (.token (s.reg (rFab d 0x10) + 1#32).toNat)).1.started d t [] [] [] .token))))

/-- R220, R222, R277: one arrival at a counter that is not full: the counter rises by one, one grant of the placement arbiter of the
Dispatcher that holds the tile is numbered, an event tells a stall that it brings about, and nothing else changes; a full counter
stays and an event is raised. The delivery of a
SEND writes its payload, counts one arrival, and leaves the SEND to complete. -/
def Obligations.Arrivals : Prop :=
  (∀ (d t n : Nat) (s : State), n < 16 →
    ((s.lt d t).acnt n < 2 ^ 32 - 1 →
      (let u := (s.grant (arbPlace (s.dispOf d t))).setLt d t { s.lt d t with
         ac := Assoc.put (s.lt d t).ac n (BitVec.ofNat 32 ((s.lt d t).acnt n + 1)) 0#32 }
       s.arrive d t n = if s.stalled d = false ∧ u.stalled d = true then
         u.postArb (arbPlace d) { kind := 4, unit := d, ctag := u.tagOf d } else u) ∧
      ((s.arrive d t n).lt d t).acnt n = (s.lt d t).acnt n + 1) ∧
    ((s.lt d t).acnt n = 2 ^ 32 - 1 →
      ((s.arrive d t n).lt d t).acnt n = 2 ^ 32 - 1 ∧
      s.arrive d t n = (s.grant (arbPlace (s.dispOf d t))).post { kind := 4, unit := (s.lt d t).phys.getD 0, ctag := s.tagOf d,
                                                                  arbseq := s.arbN (arbPlace (s.dispOf d t)), info := t + n * 2 ^ 12 })) ∧
  (∀ (d : Fin 4) (t : Fin 4096) (id : Nat) (s : State) (i : Inc) (x : SendOp),
    (s.lt d t).inc.find? (fun j => j.id == id) = some i → i.kind = .send x →
      exec (.sendDelivery d t id) s = .next ((s.sendDeliver d t x).setInc d t id .plain))

/-! ### Tile instructions: memory, check values, tensors -/

/-- R254 to R256: LD, ST and MOV copy the lines that FIRST and COUNT name, when nothing stands against them. LD and ST find their
DST or their SRCA in the Pane. -/
def Obligations.MovementsComplete : Prop :=
  ∀ (d : Fin 4) (t : Fin 4096) (w : IFields) (s : State),
    let done := fun (k : TC) => Host.Outcome.next (φ := Fault) (ρ := Refusal)
      (((s.visited k k.moveRds k.moveWrs).moveLines k).started d t (paneOf k.moveRds) (paneOf k.moveWrs) [] .plain)
    (let k := s.tc d t ⟨0x01, w, []⟩
     s.takes d t 0x01 w = true → s.clear k (moveFaults s k (inPane k.tDst)) k.moveRds k.moveWrs [] = true →
       k.tDst.sp = 0 ∧ exec (.ld d t w) s = done k) ∧
    (let k := s.tc d t ⟨0x02, w, []⟩
     s.takes d t 0x02 w = true → s.clear k (moveFaults s k (inPane k.tA)) k.moveRds k.moveWrs [] = true →
       k.tA.sp = 0 ∧ exec (.st d t w) s = done k) ∧
    (let k := s.tc d t ⟨0x03, w, []⟩
     s.takes d t 0x03 w = true → s.clear k (moveFaults s k none) k.moveRds k.moveWrs [] = true →
       exec (.mov d t w) s = done k)

/-- R275, R276, R388, R390: CRC's feed and combine forms and DGST: the check value of the bytes of the Pane, of two sequences joined,
of a tensor's canonical bytes. -/
def Obligations.CheckValues : Prop :=
  ∀ (d : Fin 4) (t : Fin 4096) (w : IFields) (s : State),
    (s.takes d t 0x30 w = true →
      let k := s.tc d t ⟨0x30, w, []⟩
      let p := crcPoly (w.fmt.toNat % 4)
      let i := opIdx w.dst
      let n := k.sc w.srcc
      let a := k.sc w.srcb
      (8 ≤ w.fmt.toNat →
        exec (.crc d t w) s = .next ((s.setLt d t ((s.lt d t).setCrc p i (if opNone w.srca then k.crcVal p w.srcb
          else crcCombine p (k.crcVal p w.srca) (k.crcVal p w.srcb) n))).started
          d t [] [] (crcRegs p i) .plain)) ∧
      (w.fmt.toNat < 8 → s.clear k [] [⟨3, 0, a, n⟩] [] [⟨3, 0, a, n⟩] = true →
        let u := s.visited k [⟨3, 0, a, n⟩] []
        exec (.crc d t w) s = .next ((u.setLt d t ((u.lt d t).setCrc p i (crcFeeds p (k.crcVal p w.srca) (pvals (u.paneRead k.p a n))))).started
          d t [(a, n)] [] (crcRegs p i) .plain)) ∧
      (w.fmt.toNat < 8 → hazard (s.lt d t).inc [(a, n)] [] [] = false → n ≠ 0 → 524288 < a + n → exec (.crc d t w) s =
        .next (s.raiseFault d t ⟨4, 3, max a 524288⟩ (s.lt d t).pc (instrLow 0x30 w)))) ∧
    (s.takes d t 0x31 w = true →
      let k := s.tc d t ⟨0x31, w, []⟩
      let rds := k.tA.lineAll
      let i := opIdx w.dst
      s.clear k [k.tA.check, s.planeCheck k k.tA] rds [] rds = true →
        let u := s.visited k rds []
        exec (.dgst d t w) s = .next ((u.setLt d t ((u.lt d t).setPair i
          (crcFeeds (crcPoly 2) (k.crcVal (crcPoly 2) w.srcb) (u.canonical k k.tA)))).started d t (paneOf rds) [] [i, i + 1] .plain))

/-- R258 to R263, R191 to R193: MMQ, MMW and LRC form their product and write it, when the operands are good and no array's checksums
disagree to the end. LRC asked for a level below 3 does nothing. -/
def Obligations.ProductsComplete : Prop :=
  ∀ (d : Fin 4) (t : Fin 4096) (w : IFields) (ups : List Upset) (s : State),
    let done := fun (k : TC) (rds : List Rng) (u : State) (x : ProdRun) => Host.Outcome.next (φ := Fault) (ρ := Refusal)
      (((u.prodCheck k x).1.prodOut k x (u.liveRow k) (u.prodCheck k x).2.1).started d t (paneOf rds) (paneOf k.tDst.wrRngs) [] .plain)
    (let k := s.tc d t ⟨0x10, w, ups⟩
     let c := s.mmqCase k
     let v := s.visited k (k.mmqRds c) k.tDst.wrRngs
     let u := v.mismatch k.lsel c.entry (decide (c.lev < c.asked))
     s.takes d t 0x10 w = true →
     s.clearStored k (mmqFaults s k) [k.tA, k.tB] [] (fun _ => none) (k.mmqRds c) k.tDst.wrRngs (k.mmqRds c) = true →
     (u.prodCheck k (v.mmqRun k c)).2.2 = [] → exec (.mmq d t w ups) s = done k (k.mmqRds c) u (v.mmqRun k c)) ∧
    (let k := s.tc d t ⟨0x11, w, ups⟩
     let u := s.visited k k.mmwRds k.tDst.wrRngs
     s.takes d t 0x11 w = true → s.clearStored k (mmwFaults s k) [] [] (fun _ => none) k.mmwRds k.tDst.wrRngs k.mmwRds = true →
     (u.prodCheck k (u.mmwRun k)).2.2 = [] → exec (.mmw d t w ups) s = done k k.mmwRds u (u.mmwRun k)) ∧
    (let k := s.tc d t ⟨0x12, w, ups⟩
     s.takes d t 0x12 w = true → ∀ n, s.layer d k.layIdx = some n →
       (s.levelOf k.lsel n < 3 → exec (.lrc d t w ups) s = .next (s.passed d t)) ∧
       (3 ≤ s.levelOf k.lsel n →
         s.clearStored k (lrcFaults s k) [k.tA] [] (fun _ => none) k.lrcRds k.tDst.wrRngs k.lrcRds = true →
         let v := s.visited k k.lrcRds k.tDst.wrRngs
         let u := v.mismatch k.lsel n (decide (3 < s.levelOf k.lsel n))
         (u.prodCheck k (v.lrcRun k)).2.2 = [] → exec (.lrc d t w ups) s = done k k.lrcRds u (v.lrcRun k)))

/-- R91 to R116, R120 to R122, R205, R264 to R267: QNT, DQT, ROT and OUTX write their results, when the operands are good and a TWIN
comparison agrees in the end. -/
def Obligations.ConversionsComplete : Prop :=
  ∀ (d : Fin 4) (t : Fin 4096) (w : IFields) (ups : List Upset) (s : State),
    (let k := s.tc d t ⟨0x18, w, ups⟩
     let c := s.qcase k
     let u := s.visited k (k.qntRds c) k.qntWrs
     s.takes d t 0x18 w = true → s.clearStored k (qntFaults s k) [] k.histRng k.histFault (k.qntRds c) k.qntWrs (k.qntRds c) = true →
     (u.twinCheck k).2 = true → exec (.qnt d t w ups) s =
       .next (((u.twinCheck k).1.qput k c (u.qconv k c)).started d t (paneOf (k.qntRds c)) (paneOf k.qntWrs) [] .plain)) ∧
    (let k := s.tc d t ⟨0x19, w, ups⟩
     let u := s.visited k k.unaryRds k.dqtWrs
     s.takes d t 0x19 w = true → s.clearStored k (dqtFaults s k) [k.tA] [] (fun _ => none) k.unaryRds k.dqtWrs k.unaryRds = true →
     (u.twinCheck k).2 = true → exec (.dqt d t w ups) s =
       .next (((u.twinCheck k).1.dqtDo k (u.readT k k.tA)).started d t (paneOf k.unaryRds) (paneOf k.dqtWrs) [] .plain)) ∧
    (let k := s.tc d t ⟨0x1A, w, ups⟩
     let u := s.visited k k.unaryRds k.tDst.wrRngs
     s.takes d t 0x1A w = true → s.clear k (rotFaults s k) k.unaryRds k.tDst.wrRngs k.unaryRds = true →
     (u.twinCheck k).2 = true → ∀ n, s.layer d k.layLow = some n → exec (.rot d t w ups) s =
       .next (((u.twinCheck k).1.putWide k k.tDst (u.rotLines k n)).started
         d t (paneOf k.unaryRds) (paneOf k.tDst.wrRngs) [] .plain)) ∧
    (let k := s.tc d t ⟨0x1B, w, []⟩
     let u := s.visited k k.outxRds k.tDst.wrRngs
     s.takes d t 0x1B w = true → s.clearStored k (outxFaults s k) [] (k.outRecs s) k.outxHeld k.outxRds k.tDst.wrRngs k.outxEats = true →
     u.rngPoison k (u.outxEls k) = none → exec (.outx d t w) s =
       .next ((u.outxDo k).started d t (paneOf k.outxRds) (paneOf k.tDst.wrRngs) [] .plain))

/-- R158 to R165, R205, R268 to R273: RNG, SMP, EWO and RED write their results, when the operands are good and a TWIN comparison
agrees in the end; RED in tree form holds its partial and waits for its partners. -/
def Obligations.VectorComplete : Prop :=
  ∀ (d : Fin 4) (t : Fin 4096) (w : IFields) (ups : List Upset) (s : State),
    (let k := s.tc d t ⟨0x20, w, []⟩
     s.takes d t 0x20 w = true → s.clear k (rngFaults s k) k.rngRds k.rngWrs k.rngRds = true → exec (.rng d t w) s =
       .next (((s.visited k k.rngRds k.rngWrs).rngDo k).started d t (paneOf k.rngRds) (paneOf k.rngWrs) [] .plain)) ∧
    (let k := s.tc d t ⟨0x21, w, []⟩
     s.takes d t 0x21 w = true →
       (w.fmt ≠ 2#4 → s.clear k (smpFaults s k) k.tA.lineAll [k.smpOut] k.tA.lineAll = true → exec (.smp d t w) s =
         .next (((s.visited k k.tA.lineAll [k.smpOut]).smpDo k).started d t (paneOf k.tA.lineAll) (paneOf [k.smpOut]) [] .plain)) ∧
       (w.fmt = 2#4 → s.clear k [smpAlign k] [k.pairsDst, k.pairsA] [k.pairsDst] [k.pairsDst, k.pairsA] = true →
         exec (.smp d t w) s = .next (((s.visited k [k.pairsDst, k.pairsA] [k.pairsDst]).mergeDo k).started
           d t (paneOf [k.pairsDst, k.pairsA]) (paneOf [k.pairsDst]) [] .plain))) ∧
    (let k := s.tc d t ⟨0x28, w, ups⟩
     let u := s.visited k k.ewoRds k.tDst.wrRngs
     s.takes d t 0x28 w = true → s.clear k (ewoFaults s k) k.ewoRds k.tDst.wrRngs k.ewoRds = true → (u.twinCheck k).2 = true →
       exec (.ewo d t w ups) s = .next (((u.twinCheck k).1.putWide k k.tDst (u.ewoLines k)).started
         d t (paneOf k.ewoRds) (paneOf k.tDst.wrRngs) [] .plain)) ∧
    (let k := s.tc d t ⟨0x29, w, ups⟩
     s.takes d t 0x29 w = true →
       (w.fmt ≠ 8#4 → s.clear k (redFaults s k) k.unaryRds k.tDst.wrRngs k.unaryRds = true →
         let u := s.visited k k.unaryRds k.tDst.wrRngs
         (u.twinCheck k).2 = true → exec (.red d t w ups) s =
           .next (((u.twinCheck k).1.putWide k k.tDst (u.redResult k)).started
             d t (paneOf k.unaryRds) (paneOf k.tDst.wrRngs) [] .plain)) ∧
       (w.fmt = 8#4 → s.clear k (treeFaults s k) k.treeRds k.treeWrs k.treeRds = true →
         let u := s.visited k k.treeRds k.treeWrs
         exec (.red d t w ups) s = .next ((u.stallWith k (.red (u.treeOp k))).started d t (paneOf k.treeRds) (paneOf k.treeWrs) []
           (.red (u.treeOp k)))))

/-- R173 to R177, R205, R274: OPT updates its planes and records, when its operands and records are good and a TWIN comparison agrees in
the end. -/
def Obligations.UpdateCompletes : Prop :=
  ∀ (d : Fin 4) (t : Fin 4096) (w : IFields) (ups : List Upset) (s : State),
    let k := s.tc d t ⟨0x2A, w, ups⟩
    let c := (s.optVisit k).optCase k
    let u := s.visited k (k.optRds c) (k.optWrs c)
    s.takes d t 0x2A w = true → s.clear k (optAllFaults s k c) (k.optRds c) (k.optWrs c) (k.optRds c) = true →
    (u.twinCheck k).2 = true → exec (.opt d t w ups) s =
      .next (((u.twinCheck k).1.optDo k c (u.optPar k c.n (optRec c.rcd) c.hyp)
        (u.optRows k (optRec c.rcd) (u.optPar k c.n (optRec c.rcd) c.hyp))).started
          d t (paneOf (k.optRds c)) (paneOf (k.optWrs c)) [] .plain)

/-- R277, R280, R354: SEND reads its operands and waits for its delivery; ARED contributes its tensor to the group and waits to leave the
tile, whatever the folds of its own contribution meet. -/
def Obligations.CollectsStart : Prop :=
  ∀ (d : Fin 4) (t : Fin 4096) (w : IFields) (ups : List Upset) (s : State),
    (let k := s.tc d t ⟨0x38, w, []⟩
     let tgt := k.sc w.srcb
     let dst := if tgt = (t : Nat) then k.tDst.pane else []
     s.takes d t 0x38 w = true → s.clear k (sendFaults s k) k.tA.lineAll [] [] = true →
     hazard (s.lt d t).inc k.tA.pane dst [] = false → exec (.send d t w) s =
       .next ((s.visited k k.tA.lineAll []).started d t k.tA.pane dst []
         (.send ⟨(s.lt d t).td (opIdx w.srca), (s.lt d t).td (opIdx w.dst), tgt, w.imm.toNat % 16⟩))) ∧
    (let k := s.tc d t ⟨0x3A, w, ups⟩
     s.takes d t 0x3A w = true → s.clear k (aredFaults s k) k.tA.lineAll [] [] = true →
     hazard (s.lt d t).inc k.tA.pane [] [] = false → exec (.ared d t w ups) s =
       .next (((s.visited k k.tA.lineAll []).contributeShard k).started d t k.tA.pane [] [] .ared))

/-! ### Every tile instruction -/

/-- R207, R237, R242, R244, R250 to R253: an instruction whose predicate is false does nothing but let the pc pass, once the tile
looks at it, its encoding is good and no register is awaited; one that breaks its encoding raises its fault whatever its predicate,
and so does a word of an unassigned opcode; behind one that waits, with 16 incomplete, or while a register is awaited, an
instruction joins the buffer's end. A tile that is not inside a block of a running program takes none: the model's choice (log 2).
The 128-bit word of an instruction spells it, with every field at every value. -/
def Obligations.IssueRules : Prop :=
  (∀ (i : Instr) (d t : Nat) (ib : IBuf) (s : State), tileArgs i = some (d, t, ib) →
    s.looks d t = true → encCheck ib.op ib.w = none → hazard (s.lt d t).inc [] [] (instrRegs ib.op ib.w) = false →
    (s.lt d t).executes ib.w = false → exec i s = .next (s.passed d t)) ∧
  ((∀ (i : Instr) (d t : Nat) (ib : IBuf) (s : State) (f : TFault), tileArgs i = some (d, t, ib) →
    s.looks d t = true → encCheck ib.op ib.w = some f →
    exec i s = .next (s.raiseFault d t f (s.lt d t).pc (instrLow ib.op ib.w))) ∧
  (∀ (d : Fin 4) (t : Fin 4096) (op : BitVec 8) (w : IFields) (s : State), opSpec op.toNat w.fmt.toNat = none →
    s.looks d t = true → exec (.unassignedOpcode d t op w) s =
      .next (s.raiseFault d t ⟨1, 0, 0⟩ (s.lt d t).pc (instrLow op.toNat w)))) ∧
  (∀ (i : Instr) (d t : Nat) (ib : IBuf) (s : State), tileArgs i = some (d, t, ib) → s.canIssue d t = true →
    ((s.lt d t).ibuf ≠ [] ∨ 16 ≤ (s.lt d t).inc.length ∨
      (encCheck ib.op ib.w = none ∧ hazard (s.lt d t).inc [] [] (instrRegs ib.op ib.w) = true)) →
    exec i s = .next (s.setLt d t { s.lt d t with ibuf := (s.lt d t).ibuf ++ [ib] })) ∧
  (∀ (i : Instr) (d t : Nat) (ib : IBuf) (s : State), tileArgs i = some (d, t, ib) → s.canIssue d t = false →
    exec i s = .next s) ∧
  (∀ (i : Instr) (d t : Nat) (ib : IBuf), tileArgs i = some (d, t, ib) → ib.ups = [] →
    ∃ (e : Fin 4) (u : Fin 4096), e.val = d ∧ u.val = t ∧ decodeWord e u (fieldsWord (BitVec.ofNat 8 ib.op) ib.w) = i)

/-! ### Tiles: completion, blocks, tests -/

/-- R207, R273, R278: an instruction that waits for nothing else completes and leaves the incomplete ones, and the tile's buffered
instructions try again; a RECV completes when its arrivals are there, and takes them; a tree reduction goes on. -/
def Obligations.InstructionCompletes : Prop :=
  ∀ (d : Fin 4) (t : Fin 4096) (id : Nat) (s : State) (i : Inc),
    let x := s.lt d t
    x.inc.find? (fun j => j.id == id) = some i →
      (i.kind = .plain ∨ i.kind = .ared → exec (.instructionComplete d t id) s =
        .next ((s.setLt d t { x with inc := x.inc.filter (fun j => j.id != id) }).pump d t)) ∧
      (∀ n c, i.kind = .recv n c → c ≤ x.acnt n → ∃ u, exec (.instructionComplete d t id) s = .next (u.pump d t) ∧
        u = (s.grant (arbPlace (s.dispOf d t))).setLt d t { x with
          ac := Assoc.put x.ac n (BitVec.ofNat 32 (x.acnt n - c)) 0#32
          inc := x.inc.filter (fun j => j.id != id) }) ∧
      (∀ n c, i.kind = .recv n c → x.acnt n < c → exec (.instructionComplete d t id) s = .next s) ∧
      (∀ r, i.kind = .red r → exec (.instructionComplete d t id) s = .next ((s.redComplete d t id r).pumpAll d))

/-- R215, R218, R221, R238, R283: a block boundary of a healthy tile: when the block has ended and drained, the tile stands at its
boundary, or has halted, and its place counts one boundary more; before it has drained nothing happens. A block starts when the tile is
resident and ready: the merged counts leave their counters, the Pane bytes that are not live are undefined (R218), and the tile runs
from the block's first instruction to its BLKEND; a fault
of the fetch is raised before the block starts. -/
def Obligations.BlockEdges : Prop :=
  (∀ (d : Fin 4) (t : Fin 4096) (rng crc mig : Bool) (p : Nat) (s : State),
    let x := s.lt d t
    let u := (s.setTile p { s.tile p with bounds := (s.tile p).bounds + 1 }).setLt d t
      { x with phase := if x.haltReq then .halted else .boundary }
    x.phys = some p → (s.casement d).phase = .running →
      (x.phase ≠ .ended ∨ x.inc ≠ [] → exec (.blockBoundary d t rng crc mig) s = .next s) ∧
      (x.phase = .ended → x.inc = [] → exec (.blockBoundary d t rng crc mig) s = .next (s.boundary d t p rng crc mig)) ∧
      (x.phase = .ended → x.inc = [] → s.injArmed 3 p = false → s.injArmed 4 p = false → (s.tile p).failing = false →
        s.arrBad p = false → u.isDue p = false → u.waiting d = none →
        exec (.blockBoundary d t false false false) s = .next u)) ∧
  (∀ (d : Fin 4) (t : Fin 4096) (s u : State),
    let v := s.exchanges d
    let x := v.lt d t
    let p := x.phys.getD 0
    (s.casement d).phase = .running → v.canStart d t = true →
      (∀ e, v.scan d p (v.casement d) 1024 x.next = (u, .found e) → exec (.blockStart d t) s =
        .next (((u.grant (arbPlace (dieOfTile p))).paneStale p x.liveRanges).setLt d t
          { (u.lt d t).takeWaits with phase := .running, pc := x.next, bstart := x.next, bend := e })) ∧
      (∀ f, v.scan d p (v.casement d) 1024 x.next = (u, .fault f) → exec (.blockStart d t) s =
        .next (u.raiseFault d t f x.next 0)))

/-- R198, R209, R231, R379, R380: a test starts on a tile that may be tested, which goes to STATE 2; a tile that passes returns to STATE 1,
one that fails goes to STATE 3; an array that has ramped down under the DUMMY_EN in force is stopped. -/
def Obligations.TileTests : Prop :=
  ∀ (p : Fin 640) (s : State),
    (s.testAllowed p = true → ∃ u, exec (.inFieldTest p) s = .next u ∧ u.tilState p = 2 ∧
      u.tile p = { s.tile p with testing := true, spareTest := s.tilState p == 1 } ∧
      ∀ q, q ≠ (p : Nat) → u.tile q = s.tile q ∧ u.tilState q = s.tilState q) ∧
    ((s.tile p).testing = true →
      (∃ u, exec (.inFieldTestDone p true) s = .next u ∧
        (s.injArmed 0x0F p = false → u.tilState p = 1 ∧ (u.tile p).testing = false ∧ (u.tile p).failing = false)) ∧
      (∃ u, exec (.inFieldTestDone p false) s = .next u ∧ u.tilState p = 3)) ∧
    ((s.tile p).testing = false → ∀ pass, exec (.inFieldTestDone p pass) s = .next s) ∧
    (∀ a : Fin 4, (s.tile p).pwr % 2 = 1 → exec (.rampDown p a) s = .next (s.setTile p { s.tile p with
      stopped := NSet.insert (s.tile p).stopped a }))

/-- R138, R281: a commit takes place once every tile of the program has met its step boundary and every earlier instruction has
completed; the step's tiles are answered, the count of steps starts again at 0, and waiting instructions try again. A commit moves a
layer by at most one rung, unless SET_EN names a level, while the level lies between FLOOR and CEIL; and the new level lies between
them. -/
def Obligations.CommitAndLadder : Prop :=
  (∀ (d : Fin 4) (s : State),
    (s.commitReady d = true → s.blkDown 7 7 = false → exec (.numCommit d) s = .next ((s.commit d).pumpAll d) ∧ ((s.commit d).casement d).steps = 0 ∧
      ∀ t, t < (s.casement d).nlt → ((s.commit d).lt d t).stepOpen = false) ∧
    (s.commitReady d = false ∨ s.blkDown 7 7 = true → exec (.numCommit d) s = .next s)) ∧
  (∀ (cfg thr : Word) (auto : Bool) (last : Nat) (l : Lay),
    let floor := rfld cfg 5 3
    let ceil := rfld cfg 8 6
    let lev := rfld cfg 2 0
    let r := ladderDecide cfg thr auto last l
    floor ≤ ceil → ceil ≤ 5 →
      (floor ≤ r.level ∧ r.level ≤ ceil) ∧
      (rfld cfg 13 13 = 0 → floor ≤ lev → lev ≤ ceil → r.level ≤ lev + 1 ∧ lev ≤ r.level + 1) ∧
      (rfld cfg 13 13 = 1 → floor ≤ rfld cfg 12 10 → rfld cfg 12 10 ≤ ceil → r.level = rfld cfg 12 10))

/-! ### Memory -/

/-- R201 to R203: a read of a Pane word, for each thing its code shows: no error, a single-bit error that is corrected, counted and written
back, an uncorrectable error that poisons the word; a write stores its bytes and changes no other byte of any Pane, a whole word
taking the poison of the data and a word written in part staying poisoned if it was; the scrubber visits its next word as a read
does, and moves on. -/
def Obligations.PaneAccess : Prop :=
  (∀ (p : Fin 640) (w : Fin 65536) (flips : List Nat) (s : State),
    let k := p.val * 65536 + w.val
    let m := s.pane.upsets k flips
    let ev : Bool → Ev := fun inj => { kind := 2, det := 0x05, unit := p, ctag := s.dieTag (dieOfTile p), inj := inj }
    s.blkDown 0 p = false →
      (m.errsOf k = [] → exec (.paneRead p w flips) s = .next { s with pane := m }) ∧
      (∀ pos v, m.errsOf k = [(pos, v)] → exec (.paneRead p w flips) s =
        .next ((({ s with pane := (m.invert k pos).clearErr k }.count (rTil p 0x30) 15 0 1).setReg (rTil p 0x34)
          (BitVec.ofNat 32 (w.val * 8))).post (ev (v == 2)))) ∧
      (2 ≤ (m.errsOf k).length → exec (.paneRead p w flips) s =
        .next ((({ s with pane := m.setPsn k true }.count (rTil p 0x30) 31 16 1).setReg (rTil p 0x34)
          (BitVec.ofNat 32 (w.val * 8 + 2 ^ 31))).post (ev ((m.errsOf k).any (fun e => e.2 == 2)))))) ∧
  (∀ (p : Fin 640) (off : Nat) (bytes : List Nat) (poison : Bool) (s : State),
    off + bytes.length ≤ 524288 → s.blkDown 0 p = false → s.injArmed 5 p = false → s.pane.errUnits (p * 65536) 65536 = [] →
      ∃ u, exec (.paneWrite p off bytes poison) s = .next u ∧ { u with pane := s.pane } = s ∧
        (∀ q x, x < 524288 → u.paneByte q x =
          if q = (p : Nat) ∧ off ≤ x ∧ x < off + bytes.length then BitVec.ofNat 8 (bytes.getD (x - off) 0) else s.paneByte q x) ∧
        (bytes ≠ [] → off % 8 + bytes.length ≤ 8 →
          NSet.mem u.pane.psn (p * 65536 + off / 8) =
            (poison || (decide (bytes.length < 8) && NSet.mem s.pane.psn (p * 65536 + off / 8))))) ∧
  (∀ (p : Fin 640) (flips : List Nat) (s : State), s.rf (rTil p 0x38) 0 0 = 1 → s.blkDown 0 p = false →
    let w := (s.tile p).scrub
    let v := { s with pane := s.pane.upsets (p * 65536 + w) flips }.paneVisit p w
    exec (.paneScrubVisit p flips) s = .next (v.setTile p { s.tile p with scrub := (w + 1) % 65536 }))

/-- R297, R300, R305, R306: a slice grants the request that its window's rule chooses, writes back the lines it replaces, and serves the
request; its scrubber, a request of class B, visits the next word, of the scratchpad or of a line that the slice holds. -/
def Obligations.SliceServes : Prop :=
  ∀ (sl : Fin 16) (s : State) (d : Nat), s.casOfDie (sl / 4) = some d →
    (∀ (reqs : List TReq) (flips evict : List Nat) (r : TReq) (l : Louvre),
      s.slicePick sl d (reqs.filter (s.sliceHas sl d)) = some (r, l) →
        r ∈ reqs ∧ s.sliceHas sl d r = true ∧
        exec (.transomAccess sl reqs flips evict) s = .next
          (({ s with louvres := Assoc.put s.louvres sl l Louvre.reset }.evictLines sl
            ((evict.filter (fun x => decide (x < paSize (s.mask d)) && paSlice (s.mask d) x == sl.val)).map
              (paKey (s.mask d)))).sliceServe sl d r flips)) ∧
    (∀ flips : List Nat,
      let w := Assoc.get s.tscrub sl 0
      let v := { s.unitGrant sl (sl / 4) .scrub with tscrub := Assoc.put s.tscrub sl ((w + 1) % 3145728) 0 }
      let k := sl.val * 2 ^ 22 + w
      (w < s.scrWords sl → exec (.transomScrubVisit sl flips) s =
        .next ({ v with scratch := v.scratch.upsets k flips }.scratchVisit k)) ∧
      (∀ l, s.scrWords sl ≤ w → (s.linesOf sl)[(w - s.scrWords sl) / 16]? = some l →
        let k := l * 16 + (w - s.scrWords sl) % 16
        exec (.transomScrubVisit sl flips) s =
          .next ({ v with cdata := v.cdata.upsets k flips }.lineTouch sl (8 * k) 8)))

/-- R306: the class that the next grant of a window goes to, of those with a pending request (c: C, st: S, b: B), and how the window
counts its grants: 64 of them end it. -/
def Obligations.WindowRule : Prop :=
  ∀ (l : Louvre) (c st b : Bool), l.n < 64 →
    let due := b = true ∧ 64 - l.n ≤ l.floor - l.b
    (due → l.choose c st b = 2) ∧
    (¬ due → c = true → l.c < l.cap → l.choose c st b = 0) ∧
    (¬ due → ¬ (c = true ∧ l.c < l.cap) →
      (st = true → l.choose c st b = 1) ∧ (st = false → b = true → l.choose c st b = 2) ∧
      (st = false → b = false → c = true → l.choose c st b = 0)) ∧
    (∀ k, k < 3 → l.n < 63 → l.took k = { l with n := l.n + 1, c := l.c + b2n (k == 0), b := l.b + b2n (k == 2) }) ∧
    (∀ k, k < 3 → l.n = 63 → l.took k = { l with n := 0, c := 0, b := 0 })

/-- R291 to R294, R306: a read of an HBM chunk that the controller's arbiter grants visits it; refresh leaves the contents, and shows the
temperature; the patrol scrubber, a request of class B, moves on by 2^RATE_LOG2 chunks and leaves a stack without errors as it is; a
write to a stack that is granted stores its bytes and changes no other byte; a request waits while another class is served. -/
def Obligations.HbmAccess : Prop :=
  (∀ (st : Fin 24) (s : State),
    (∀ (c : Nat) (kind : TKind) (waiting : List TKind) (errs : List (Nat × Nat)), s.blkDown 2 st = false → c < 2 ^ 31 →
      (∀ v, s.hbmGrant st kind waiting = some v → exec (.hbmRead st c kind waiting errs) s =
        .next ({ v with hbm := v.hbm.symErrs (st * 2 ^ 31 + c) errs }.hbmVisit (st * 2 ^ 31 + c))) ∧
      (s.hbmGrant st kind waiting = none → exec (.hbmRead st c kind waiting errs) s = .next s)) ∧
    (∀ temp, exec (.hbmRefresh st temp true) s = .next s ∧
      exec (.hbmRefresh st temp false) s = .next (s.setRf (rMem st 0) 23 16 temp)) ∧
    (∀ (pc : Fin 64) (errs : List (Nat × Nat)), s.rf (rMem st 0x20) 0 0 = 1 → s.blkDown 2 st = false →
      let key := st.val * 64 + pc.val
      let i' := (Assoc.get s.hscrub key 0 + 2 ^ s.rf (rMem st 0x20) 7 4) % 2 ^ 25
      (∃ u, exec (.hbmPatrolScrub st pc errs) s = .next u ∧ Assoc.get u.hscrub key 0 = i') ∧
      (s.hbm.errUnits (st * 2 ^ 31) (2 ^ 31) = [] →
        exec (.hbmPatrolScrub st pc []) s =
          .next { s.unitGrant (16 + st) (st / 6) .scrub with hscrub := Assoc.put s.hscrub key i' 0 }))) ∧
  (∀ (st : Fin 24) (off : Nat) (kind : TKind) (waiting : List TKind) (bytes : List Nat) (poison : Bool) (s v : State),
    off + bytes.length ≤ 2 ^ 36 → s.blkDown 2 st = false → s.injArmed 7 st = false → s.hbm.errUnits (st * 2 ^ 31) (2 ^ 31) = [] →
    s.hbmGrant st kind waiting = some v →
      ∃ u, exec (.hbmWrite st off kind waiting bytes poison) s = .next u ∧ { u with hbm := v.hbm } = v ∧
        ∀ q x, x < 2 ^ 36 → u.hbmByte q x =
          if q = (st : Nat) ∧ off ≤ x ∧ x < off + bytes.length then BitVec.ofNat 8 (bytes.getD (x - off) 0) else s.hbmByte q x)

/-- R307, R316 to R320, R324, R489: a page-out when the free frames have fallen below OUT_WM, a demand page-in, a prefetch, each once the
hub grants the casement and the free lists' poisoned entries are dropped; while the hub serves another casement it waits; and the
poisoned bytes that stand for host data of the casement that did not arrive in time. -/
def Obligations.PagingSteps : Prop :=
  (∀ (d : Fin 4) (e : PageEnv) (s : State), (s.casement d).exist = true → s.blkDown 7 10 = false →
    let v := (s.hubGrant d e.others).2.dropEntries d e.frBad e.hostBad
    ((s.hubGrant d e.others).1 = true → (v.freeFrames d = 0 → v.victimPoison d 1 [] = none) →
      (s.freeFrames d < s.rf (rPga d 0xC) 15 0 → v.victimPoison d 1 [] = none → exec (.pageOut d e) s = .next (v.pageOut d)) ∧
      (∀ va u, va < 2 ^ 48 → s.pagedOut d (va / 2 ^ 21) = true → v.walkPoison d (va / 2 ^ 21) = none →
        v.pageIn d (va / 2 ^ 21) true = some u → exec (.pageInDemand d va e) s = .next (u.pumpAll d)) ∧
      (∀ w u, s.rf (rPga d 0x10) 0 0 = 1 → s.rf (rPga d 0xC) 31 16 ≤ s.freeFrames d → s.prefetchPage d = some w →
        v.walkPoison d w = none → v.pageIn d w false = some u → exec (.pageInPrefetch d e) s = .next (u.pumpAll d))) ∧
    ((s.hubGrant d e.others).1 = false → s.freeFrames d < s.rf (rPga d 0xC) 15 0 →
      exec (.pageOut d e) s = .next (s.hubGrant d e.others).2)) ∧
  (∀ (d : Fin 4) (n : Nat) (s : State), (s.casement d).exist = true →
    let bs := (List.range n).map (fun i => ((Config.freeByte (s.free + i)).toNat, true))
    let v := { s with free := s.free + n }
    let ev := fun (u : State) => (u.aerSet (u.casement d).owner aerTimeout).post { kind := 7, unit := d, ctag := u.tagOf d }
    (∀ p off, p < 640 → off + n ≤ 2 ^ 19 →
      ((s.mask d).testBit (dieOfTile p) = true → exec (.completionTimeout d (.pane p off) n) s = .next (ev (v.paneWrite p off bs))) ∧
      ((s.mask d).testBit (dieOfTile p) = false → exec (.completionTimeout d (.pane p off) n) s = .next s)) ∧
    (∀ off, off + n ≤ s.partSize d → exec (.completionTimeout d (.spad off) n) s = .next (ev (v.spadWrite d off bs))) ∧
    (∀ x, x % 32 = 0 → n % 32 = 0 → x + n ≤ paSize (s.mask d) → exec (.completionTimeout d (.hbm x) n) s =
      .next (ev ((v.paWrite d x bs .demandIn).raise (rPga d 0x20) 3))))
/-! ### The fabric: the link layer -/

/-- R329 to R331, R333, R334, R343, R346: bytes that fail their CRC-32C are discarded and NAK is asked for; so is a frame for which the pool
has no room; one out of LSEQ order is discarded. The next one in order is taken: its chunks leave the pool, and the unacknowledged
frames up to the one that its LACK names are done. At a port with nothing to send it then ends here (IDLE), waits in the inbox when it
is for this package, or waits to be routed; one that breaks the ingress check is dropped, with DROP counted up. A replay sends every unacknowledged
frame again and counts; after eight replays without an acknowledgement, and after a link's timeout, the link goes down: the port is DOWN,
DOWNS counts up and nothing waits on the link; an idle port sends one IDLE frame, which takes the next LSEQ. -/
def Obligations.LinkLayer : Prop :=
  (∀ (p : Fin 8) (bytes : List Nat) (fr : Frame) (s : State), s.portUp p = true ∨ s.portState p = 1 →
    let x := s.port p
    (readFrame bytes = (fr, false) → exec (.frameReceive p bytes) s =
      .next ((s.setPort p { x with nak := true }).post { kind := 2, det := 0x09, unit := p })) ∧
    (readFrame bytes = (fr, true) →
      (fr.lseq ≠ x.rxNext → exec (.frameReceive p bytes) s = .next s) ∧
      (fr.lseq = x.rxNext → x.room.spend fr = none → exec (.frameReceive p bytes) s = .next (s.setPort p { x with nak := true })) ∧
      (∀ c, fr.lseq = x.rxNext → x.room.spend fr = some c → x.txq = [] →
        let y := { x.header fr with rxNext := (x.rxNext + 1) % 4096, room := c }
        (malformed fr = false → s.admits p fr = true →
          (fr.body = .idle → exec (.frameReceive p bytes) s = .next (s.setPort p (y.giveBack fr))) ∧
          (fr.body ≠ .idle → (isHello fr.body = true ∨ fr.dest = s.pkgId) →
            exec (.frameReceive p bytes) s = .next (s.setPort p { y with inbox := x.inbox ++ [fr] })) ∧
          (fr.body ≠ .idle → isHello fr.body = false → fr.dest ≠ s.pkgId →
            exec (.frameReceive p bytes) s = .next (s.setPort p { y with rxq := x.rxq ++ [fr] }))) ∧
        (malformed fr = true ∨ s.admits p fr = false → isPreq fr.body = false → ∃ u, exec (.frameReceive p bytes) s = .next u ∧
          (u.port p).room = ((Port.giveBack y fr).room) ∧ (u.port p).inbox = x.inbox ∧ (u.port p).rxq = x.rxq ∧
          u.rf (rPort p 0xC) 15 0 = min (2 ^ 16 - 1) (s.rf (rPort p 0xC) 15 0 + 1))))) ∧
  (∀ (x : Port) (fr : Frame),
    (∀ pre a post, x.unacked = pre ++ a :: post → a.lseq = fr.lack → (∀ y ∈ pre, y.lseq ≠ fr.lack) →
      (x.header fr).unacked = post ∧ (x.header fr).replays = 0) ∧
    ((∀ y ∈ x.unacked, y.lseq ≠ fr.lack) → (x.header fr).unacked = x.unacked ∧ (x.header fr).replays = x.replays)) ∧
  (∀ (p : Fin 8) (s : State), s.portUp p = true → s.txIdle = false →
    let x := s.port p
    (x.replay = true → x.replays < 8 → ∃ u, exec (.frameReplay p) s = .next u ∧
      u.port p = { x with
        replay := false, replays := x.replays + 1, nak := false
        unacked := x.unacked.mapIdx (fun i f => { f with lack := (x.rxNext + 4095) % 4096, nak := f.nak || (x.nak && i == 0) }) } ∧
      u.out = s.out ++ (u.port p).unacked.map (fun f => .frame p (wireBytes f)) ∧
      u.rf (rPort p 8) 15 0 = min (2 ^ 16 - 1) (s.rf (rPort p 8) 15 0 + 1)) ∧
    (x.replay = true → 8 ≤ x.replays → ∃ u, exec (.frameReplay p) s = .next u ∧ u.portState p = 0 ∧
      u.rf (rPort p 8) 31 16 = min (2 ^ 16 - 1) (s.rf (rPort p 8) 31 16 + 1)) ∧
    (∃ u, exec (.linkTimeout p) s = .next u ∧ u.portState p = 0 ∧
      u.rf (rPort p 8) 31 16 = min (2 ^ 16 - 1) (s.rf (rPort p 8) 31 16 + 1) ∧
      (u.port p).unacked = [] ∧ (u.port p).txq = [] ∧ (u.port p).rxNext = 0 ∧ (u.port p).txNext = 0) ∧
    (x.txq = [] → x.unacked.length < 2048 → s.injArmed 0x09 p = false →
      ∀ c, x.cr.spend (s.ownFrame 0 0 0 .idle) = some c →
        let fr := { s.ownFrame 0 0 0 .idle with
          lseq := x.txNext, lack := (x.rxNext + 4095) % 4096, nak := x.nak, cret := x.ret.map (min 255) }
        exec (.idleFrameSend p) s = .next ((s.setPort p { x with
          cr := c, txNext := (x.txNext + 1) % 4096, unacked := x.unacked ++ [fr], nak := false
          ret := x.ret.map (fun n => n - min 255 n) }).emit (.frame p (wireBytes fr)))))

/-- R340 to R343: the first frame that waits to be routed gives its credits back and goes where the routing rules, in their order, say: out
at a port, to this package, or nowhere, which is counted. -/
def Obligations.FrameForwarded : Prop :=
  (∀ (p : Fin 8) (s : State) (fr : Frame) (rest : List Frame), (s.port p).rxq = fr :: rest →
    let u := s.setPort p (Port.giveBack { s.port p with rxq := rest } fr)
    (∀ q esc, u.route fr.dest fr.ctag fr.downed = .fwd q esc →
      exec (.frameForward p) s = .next (u.tx q { fr with esc := esc })) ∧
    (u.route fr.dest fr.ctag fr.downed = .deliver →
      exec (.frameForward p) s = .next (u.setPort p { u.port p with inbox := (u.port p).inbox ++ [fr] })) ∧
    (u.route fr.dest fr.ctag fr.downed = .drop → exec (.frameForward p) s = .next (u.dropped p fr))) ∧
  (∀ (dest ctag : Nat) (downed : Bool) (s : State),
    let k := routeKey dest
    let port := s.rf k 3 0
    let alt := s.rf k 7 4
    let held := ∃ d, d < 4 ∧ (s.casement d).exist = true ∧ s.rf (rFab d 0) 15 0 = ctag
    (dest = s.pkgId → held → s.route dest ctag downed = .deliver) ∧
    (dest = s.pkgId → ¬ held → s.route dest ctag downed = .drop) ∧
    (dest ≠ s.pkgId → downed = true → s.route dest ctag downed = .drop) ∧
    (dest ≠ s.pkgId → downed = false →
      ((s.rf k 8 8 = 0 ∨ port = 15) → s.route dest ctag downed = .drop) ∧
      (s.rf k 8 8 = 1 → port ≠ 15 → s.rf k 9 9 = 1 → s.rf k 31 16 ≠ ctag → s.route dest ctag downed = .drop) ∧
      (s.rf k 8 8 = 1 → (s.rf k 9 9 = 0 ∨ s.rf k 31 16 = ctag) →
        (1 ≤ port → port ≤ 8 → s.portUp (port - 1) = true → s.route dest ctag downed = .fwd (port - 1) false) ∧
        (1 ≤ port → port ≤ 8 → s.portUp (port - 1) = false → 5 ≤ alt → alt ≤ 8 → s.portUp (alt - 1) = true →
          s.route dest ctag downed = .fwd (alt - 1) true))))

/-- R19, R328, R337, R338, R367, R432, R447, R448: a training attempt with enough lanes sends HELLO; a lane that leaves service is counted off; the peer's HELLO brings the
port up or misconnects it; a port whose IDV is 0, whose logic is bad, that is held idle or in a shutter does not train. A mesh flit that
passes its CRC clears its link's count, one that fails is counted; the 16th failure in a row takes the link out of service both ways,
with the dies that need it, and no flit crosses it any more. -/
def Obligations.PortsAndMesh : Prop :=
  (∀ (p : Fin 8) (lanes : Nat) (s : State), s.rf (rPort p 4) 0 0 = 1 → s.portState p < 2 → 0 < lanes → laneMin p ≤ lanes →
    (s.mayTrain p = true →
      let u := ((s.setRf (rPort p 0) 2 0 1).setRf (rPort p 0) 6 3 (min lanes (laneMax p))).setPort p ((s.port p).fresh s.pool)
      let hi := u.ownFrame 0 0 0 (.hello s.pkgId p)
      exec (.portTraining p lanes) s =
        .next (u.sendNow p { u.port p with cr := ((u.port p).cr.spend hi).getD (u.port p).cr } hi)) ∧
    (s.rf 0x0200000 16 16 = 0 ∨ (s.port p).bad = true ∨ s.txIdle = true ∨ s.blkDown 4 p = true →
      exec (.portTraining p lanes) s = .next s)) ∧
  (∀ (p : Fin 8) (lane : Nat) (s : State), s.portUp p = true → lane < laneMax p →
    let n := s.rf (rPort p 0) 6 3
    let u := s.setRf (rPort p 0) 6 3 (n - 1)
    exec (.laneErrorRetrain p lane) s = .next (if n ≤ laneMin p then u.linkDown p else u)) ∧
  (∀ (p : Fin 8) (s : State) (fr : Frame) (x : Port) (id port : Nat),
    (s.port p).take (fun y => isHello y.body) = some (fr, x) → fr.body = .hello id port → s.portState p = 1 →
      let u := (((s.setPort p x).setRf (rPort p 0) 23 8 id).setRf (rPort p 0) 27 24 port).setFound p true
      (peerOk s.pkgId p id port = true →
        let v := (u.setRf (rPort p 0) 2 0 2).post { kind := 4, unit := p }
        exec (.hello p) s = .next (v.pumpTx p (v.port p).txq.length)) ∧
      (peerOk s.pkgId p id port = false → exec (.hello p) s = .next ((u.setRf (rPort p 0) 2 0 3).post { kind := 4, unit := p }))) ∧
  (∀ (pos : Fin 640) (dir : Fin 4) (s : State) (src : Nat), meshFrom pos dir = some src → s.injArmed 8 (dieOfTile src) = false →
    let key := pos.val * 4 + dir.val
    let die := dieOfTile src
    let n := Assoc.get s.mesh key 0 + 1
    let both := Assoc.put (Assoc.put s.mesh key 16 0) (src * 4 + (dir.val + 2) % 4) 16 0
    let u := (s.count (0x0060400 + 4 * die) 15 0 1).post { kind := 2, det := 0x08, unit := die, ctag := s.dieTag die }
    (n ≤ 16 → exec (.meshFlitReceive pos dir true) s = .next { s with mesh := Assoc.put s.mesh key 0 0 }) ∧
    (n < 16 → exec (.meshFlitReceive pos dir false) s = .next { u with mesh := Assoc.put s.mesh key n 0 }) ∧
    (n = 16 → exec (.meshFlitReceive pos dir false) s =
      .next ((linkDies src pos).foldl (fun v d => v.dieLost d) { u with mesh := both })) ∧
    (∀ ok, 16 < n → exec (.meshFlitReceive pos dir ok) s = .next s))

/-! ### The fabric: reductions, tokens, HOLD -/

/-- R354, R356, R358: at the reducer, a request of the casement's group is registered and granted when it may be; one that does not fit its
shard holds the casement; a waiting request is granted when memory allows. -/
def Obligations.RequestsGranted : Prop :=
  (∀ (p : Fin 8) (s : State) (d : Nat) (fr : Frame) (x : Port) (id g gi shard piece e tile ret desc : Nat),
    s.gotFrame p isPreq d fr x → fr.body = .preq id g gi shard piece e tile ret desc →
    let u := s.setPort p x
    let pk := u.groupPkgs d g
    let seg := pk.idxOf u.pkgId
    u.groupBad d g = false → gi < pk.length → nth pk gi u.pkgId = fr.src → piece < (segPieces (ceilDiv e 8) pk.length seg).length →
      (u.fits d g shard seg piece gi e = false → exec (.preq p) s = .next (u.enterHold d 7)) ∧
      (u.fits d g shard seg piece gi e = true →
        let v := u.joinRed d g shard seg piece pk.length e ⟨gi, fr.src, id, ret, none, false, false, 0, [], []⟩
        ∃ r, v.red? d g shard seg piece = some r ∧ exec (.preq p) s = .next (v.tryGrant d r))) ∧
  (∀ (p : Fin 8) (s : State) (d : Nat) (r : FRed) (m : FMem),
    (((List.range 4).flatMap (fun d => ((s.fab d).reds.filter (fun r => r.port == p.val)).map (fun r => (d, r)))).find?
      (fun x => (s.grantable x.2).isSome)) = some (d, r) → s.grantable r = some m →
    exec (.grantIssue p) s = .next (s.grantTo d r m))

/-- R354, R355, R357: a GRANT makes the contributor send its piece; chunks of a piece and of a result are kept until their digest
comes. A digest at the reducer folds the piece or counts the mismatch; one at a member writes the result home or counts the mismatch. -/
def Obligations.PiecesMove : Prop :=
  (∀ (p : Fin 8) (s : State) (d : Nat) (fr : Frame) (x : Port),
    let u := s.setPort p x
    let f := s.fab d
    (∀ id h r, s.gotFrame p isGrant d fr x → fr.body = .grant id h →
      f.reqs.find? (fun r => r.reqid == id && r.tgt == fr.src && r.handle.isNone) = some r →
      let v := u.setFab d { f with reqs := f.reqs.map (fun y => if y.reqid = id then { y with handle := some h } else y) }
      exec (.grant p) s = .next (v.sendData r.tgt (v.fabTag d) h false r.chunks r.psn)) ∧
    (∀ h off last cs, s.gotFrame p isPiece d fr x → fr.body = .piece h off last cs →
      exec (.piece p) s = .next (u.setFab d { f with reds := f.reds.map (fun r => { r with mems := r.mems.map (fun m =>
        if m.handle = some h ∧ m.pkg = fr.src ∧ m.folded = false then
          { m with chunks := m.chunks.take off ++ cs, psn := putPsn m.psn fr.psn cs.length off } else m) }) })) ∧
    (∀ h off last cs, s.gotFrame p isDeliver d fr x → fr.body = .deliver h off last cs →
      exec (.deliver p) s = .next (u.setFab d { f with rets := f.rets.map (fun r =>
        if r.ret = h ∧ r.from_ = fr.src then
          { r with chunks := r.chunks.take off ++ cs, psn := putPsn r.psn fr.psn cs.length off } else r) }))) ∧
  (∀ (p : Fin 8) (bad : Nat) (s : State) (d : Nat) (fr : Frame) (x : Port) (h crc : Nat),
    let u := s.setPort p x
    let hit := (s.fab d).reds.findSome? (fun r =>
      (r.mems.find? (fun m => m.handle == some h && m.pkg == fr.src && !m.folded)).map (fun m => (r, m)))
    s.gotFrame p isDigest d fr x → fr.body = .digest h crc →
      (∀ r m, hit = some (r, m) → m.chunks.length = r.count → pieceDigest m.chunks = crc →
        (∀ v, u.fold d r m.gi bad m.chunks m.psn = (v, true) →
          exec (.digest p bad) s = .next (v.sendTo m.pkg (v.fabTag d) 0 (.ack h false)).1) ∧
        (∀ v, u.fold d r m.gi bad m.chunks m.psn = (v, false) → exec (.digest p bad) s = .next v)) ∧
      (∀ r m, hit = some (r, m) → (m.chunks.length ≠ r.count ∨ pieceDigest m.chunks ≠ crc) →
        exec (.digest p bad) s = .next ((u.updRed d r { r with mems := r.mems.map (fun y =>
          if y.gi = m.gi then { y with tries := y.tries + 1, chunks := [], psn := [] } else y) }).digestBad p d h m.pkg m.tries)) ∧
      (∀ y, hit = none → (s.fab d).rets.find? (fun y => y.ret == h && y.from_ == fr.src) = some y →
        exec (.digest p bad) s = .next (u.digestResult p d crc y)))

/-- R343, R344, R352, R354, R357, R359: the answers: an ACK frees what it names, a NAK sends it again; an ERR and a timeout of a request that
waits for its grant hold the casement; a token waits at its member for what is outstanding; a HOLD frame holds the casement. -/
def Obligations.AnswersTaken : Prop :=
  ∀ (p : Fin 8) (s : State) (d : Nat) (fr : Frame) (x : Port),
    let u := s.setPort p x
    let f := s.fab d
    (∀ h nak r, s.gotFrame p isAck d fr x → fr.body = .ack h nak →
      f.reqs.find? (fun r => r.handle == some h && r.tgt == fr.src) = some r →
      exec (.ack p) s = .next (if nak then u.sendData r.tgt (u.fabTag d) h false r.chunks r.psn
        else u.setFab d { f with reqs := f.reqs.erase r })) ∧
    (∀ id code, s.gotFrame p isErr d fr x → fr.body = .err id code →
      f.reqs.any (fun r => r.reqid == id && r.handle.isNone) = true → exec (.err p) s = .next (u.enterHold d 2)) ∧
    (∀ e, s.gotFrame p isToken d fr x → fr.body = .token e →
      exec (.token p) s = .next (u.setFab d { f with tokHeld := some e, tokWait := f.outstanding })) ∧
    (∀ c, s.gotFrame p isHold d fr x → fr.body = .hold c → exec (.hold p) s = .next (u.enterHold d 3)) ∧
    (∀ (e : Fin 4) id, s.fabState e = 1 → (s.fab e).reqs.any (fun r => r.reqid == id && r.handle.isNone) = true →
      exec (.requestTimeout e id) s = .next (s.enterHold e 2))

/-- R352, R359, R360: a token whose wait is over sets the member's epoch; it goes on to the next member, or completes the master's TOKEN; until
then nothing happens. A LIVE member that enters HOLD shows its cause, discards what its ports hold of the casement, and ends its
program; a member that is not LIVE does not. -/
def Obligations.TokenAndHold : Prop :=
  (∀ (d : Fin 4) (s : State) (e : Nat),
    let f := s.fab d
    let u := ((s.setFab d { f with tokHeld := none, tokWait := [], tokOut := none }).setReg (rFab d 0x10) (BitVec.ofNat 32 e)).ripen d
    f.tokHeld = some e → s.fabState d = 1 →
      (f.tokWait.any f.outstanding.contains = true → exec (.tokenForward d) s = .next s) ∧
      (f.tokWait.any f.outstanding.contains = false → f.tokOut = none →
        exec (.tokenForward d) s = .next (u.sendTo (u.successor d) (u.fabTag d) 0 (.token e)).1) ∧
      (∀ t id, f.tokWait.any f.outstanding.contains = false → f.tokOut = some (t, id) →
        exec (.tokenForward d) s = .next ((u.setInc d t id .plain).pump d t))) ∧
  (∀ (s : State) (d cause : Nat), d < 4 → cause < 8 →
    (s.fabState d ≠ 1 → s.enterHold d cause = s) ∧
    (s.fabState d = 1 → (s.enterHold d cause).fabState d = 2 ∧ (s.enterHold d cause).rf (rFab d 0x18) 11 8 = cause ∧
      (s.enterHold d cause).fab d = { Fab.reset with nextReq := (s.fab d).nextReq, nextHandle := (s.fab d).nextHandle } ∧
      ((s.enterHold d cause).casement d).phase ≠ .running))

/-! ### Registers -/

/-- R7 to R9, R11, R374, R375: a 32-bit write of a register that has no rule of its own: a write that a virtual function may not make,
or of a reserved offset, changes no register; a hardened register that a function may only read, or whose window is not unlocked,
stays as it is, with an access-error event; a fenced block refuses it; otherwise RW and HRW bits take the value, RW1C bits are cleared
by 1, RW1S bits are set by 1, and every other bit and every other register stays. A 64-bit write is two of them, the lower first. -/
def Obligations.RegisterWrite : Prop :=
  (∀ (rq : Req) (off : Nat) (v : BitVec 64) (s : State), off % 4 = 0 → s.reaches rq = true → s.unserved rq off = false →
    let ev := (s.placed rq off).accEv rq off (s.arbN (arbReg off))
    ((rowAt off = none ∨ s.view rq off = .none ∨ (s.view rq off = .ro ∧ hrwMask off = 0)) →
      exec (.regWrite rq off false v) s = .next (s.placed rq off) ∧ ∀ k, (s.placed rq off).reg k = s.reg k) ∧
    (rowAt off ≠ none → s.view rq off = .ro → hrwMask off ≠ 0 → exec (.regWrite rq off false v) s = .next ev) ∧
    (∀ d, d < 4 → rowAt off ≠ none → s.view rq off = .one d → ∃ t, exec (.regWrite rq off false v) s = .next t ∧
      (∀ k, k ≠ off → t.reg k = s.reg k) ∧ ∀ i, i < 32 → (t.reg off).getLsbD i = if i = d then v.getLsbD i else (s.reg off).getLsbD i) ∧
    (s.lets rq off = true → s.blkDown clsBlock (blockOf off) = true →
      exec (.regWrite rq off false v) s = .next (s.placed rq off).refuse) ∧
    (s.takesWr rq off = true → hrwMask off ≠ 0 → (s.placed rq off).unlocked rq off = false →
      exec (.regWrite rq off false v) s = .next ev) ∧
    (plainReg off = true → (s.writes rq off = true ∨ (s.writesHard rq off = true ∧ (s.placed rq off).refuses off (v.toNat % 2 ^ 32) = false)) →
      ∃ t, exec (.regWrite rq off false v) s = .next t ∧ (∀ k, k ≠ off → t.reg k = s.reg k) ∧
        (hrwMask off ≠ 0 → t.copies off = HCopy.three) ∧
        ∀ i, i < 32 → ((t.reg off).getLsbD i =
          if bit (typeMask off (fun y => y == .rw1s)) i && v.getLsbD i then true
          else if bit (typeMask off (fun y => y == .rw1c)) i && v.getLsbD i then false
          else if bit (typeMask off (fun y => y == .rw || y == .hrw)) i then v.getLsbD i
          else (s.reg off).getLsbD i))) ∧
  (∀ (rq : Req) (off : Nat) (v : BitVec 64) (s : State), off % 8 = 0 →
    ∃ t, exec (.regWrite rq off false v) s = .next t ∧ exec (.regWrite rq off true v) s = exec (.regWrite rq (off + 4) false (v >>> 32)) t)

/-- R7, R8, R375, R493: a 32-bit read of a register that its requester sees whole answers what the register shows; the read clears its
RC bits and changes no other register. An access of another width or alignment: a read answers all ones, nothing is written, an
access-error event names the offset and the grant, and a write outside the requester's unlock window closes it. For a virtual function
outside its subset R14 has such a read answer 0; that it answers all ones too is the model's choice (log 2). -/
def Obligations.RegisterRead : Prop :=
  (∀ (rq : Req) (off : Nat) (s : State), off % 4 = 0 → off < 2 ^ 26 → s.lets rq off = true →
    ∃ t, exec (.rcRead rq off false) s = .next t ∧ t.out = s.out ++ [.reg rq off 4 (s.regShow rq off)] ∧
      (∀ k, k ≠ rqKey rq off → t.reg k = s.reg k) ∧
      ∀ i, i < 32 → (t.reg (rqKey rq off)).getLsbD i =
        (!bit (typeMask off (fun y => y == .rc)) i && (s.reg (rqKey rq off)).getLsbD i)) ∧
  (∀ (rq : Req) (off width : Nat) (s : State), s.reaches rq = true →
    ¬ ((width = 4 ∧ off % 4 = 0) ∨ (width = 8 ∧ off % 8 = 0)) →
    let u := (s.grant (arbReg off)).post { kind := 3, ctag := s.rqTag rq, arbseq := s.arbN (arbReg off), info := off }
    exec (.badWidthAccess rq off width true) s = .next (u.windowAt rq (off / 4 * 4)) ∧
    exec (.badWidthAccess rq off width false) s = .next { u with out := u.out ++ [.reg rq off width (2 ^ (8 * width) - 1)] })

/-- R364: "Each command takes effect in one state only.": what FAB_CMDd does in each state of an existing casement. A command that takes
effect is followed by R377's comparison of the state shown. The entries of the member list and of the group table lie where R364 puts
them, with its fields, types and resets; a member is valid when V is 1, and ID is its package. -/
def Obligations.FabricCommands : Prop :=
  (∀ (rq : Req) (d : Fin 4) (s : State), s.writes rq (rFab d 0x14) = true → (s.casement d).exist = true →
    let u := s.placed rq (rFab d 0x14)
    let n := s.arbN (arbReg (rFab d 0x14))
    let no := u.post { kind := 3, unit := d, ctag := s.tagOf d, arbseq := n, info := rFab d 0x14 }
    let e := u.setReg (rFab d 0x10) 0
    let w := match e.fabCheck d with | none => e.fabTo d 1 none n | some r => e.fabTo d 3 (some r) n
    let x := match u.fabCheck d with | none => u.fabTo d 1 none n | some r => u.fabTo d 2 (some r) n
    let z := ((u.fabEnd d).post { kind := 4, unit := d, ctag := s.tagOf d, arbseq := n }).ripen d n
    ((s.fabState d = 0 ∨ s.fabState d = 3) → exec (.fabCommit rq d) s = .next ((w.ripen d n).compare (rFab d 0x18))) ∧
    (s.fabState d = 1 → exec (.fabHold rq d) s = .next ((u.enterHold d 4 n).compare (rFab d 0x18))) ∧
    (s.fabState d = 2 → exec (.fabResume rq d) s = .next (x.compare (rFab d 0x18))) ∧
    (exec (.fabEnd rq d) s = .next (z.compare (rFab d 0x18))) ∧
    ((u.fabEnd d).fabState d = 0 ∧ (u.fabEnd d).reg (rFab d 0x10) = 0 ∧ (u.fabEnd d).fab d = Fab.reset) ∧
    (s.fabState d = 1 ∨ s.fabState d = 2 → exec (.fabCommit rq d) s = .next no) ∧
    (s.fabState d ≠ 1 → exec (.fabHold rq d) s = .next no) ∧
    (s.fabState d ≠ 2 → exec (.fabResume rq d) s = .next no)) ∧
  (∀ n, n < 4096 →
    (rowAt (0x0210000 + 4 * n)).map (·.fields) = some [⟨15, 0, .hrw, 0⟩, ⟨16, 16, .hrw, 0⟩] ∧
    (rowAt (0x0218000 + 8 * n)).map (·.fields) = some [⟨11, 0, .hrw, 0⟩, ⟨23, 12, .hrw, 0⟩, ⟨31, 24, .hrw, 0⟩] ∧
    (rowAt (0x0218004 + 8 * n)).map (·.fields) = some [⟨3, 0, .hrw, 0⟩, ⟨4, 4, .hrw, 0⟩]) ∧
  (∀ (d m id : Nat) (s : State),
    let e := (s.reg (0x0210000 + 4 * (s.rf (rFab d 4) 11 0 + m))).toNat
    (m, id) ∈ s.members d ↔ m < s.rf (rFab d 4) 24 12 ∧ e / 2 ^ 16 % 2 = 1 ∧ id = e % 2 ^ 16)

/-- R328, R337, R351, R363: an unlocked write of a member, group or routing entry that would fail the check of a LIVE casement, of the
package's ID while a port is not down, and of floors that do not fit, is ignored with an event; every other one takes effect.
RETRAIN written to a port that is enabled and may train: a port that is not up trains; an up port's link is lost (the model's reading,
log 50); a port that may not train, for want of a valid ID among other reasons, stays as it is. -/
def Obligations.FabricTables : Prop :=
  (∀ (rq : Req) (v : BitVec 32) (s : State),
    (∀ off, isEntry off = true → off % 4 = 0 → s.writesHard rq off = true →
      let u := s.placed rq off
      let bad := (u.entryOwners off).any (fun d => ((u.setReg off v).fabCheck d).isSome)
      (bad = true → exec (.fabEntryWrite rq off v) s = .next (u.accEv rq off (s.arbN (arbReg off)))) ∧
      (bad = false → exec (.fabEntryWrite rq off v) s = .next (((u.wrGen off v.toNat true).heal off).windowUse rq))) ∧
    (s.writesHard rq 0x0200000 = true →
      let u := s.placed rq 0x0200000
      ((∃ p, p < 8 ∧ s.portState p ≠ 0) → exec (.pkgidWrite rq v) s = .next (u.accEv rq 0x0200000 (s.arbN (arbReg 0x0200000)))) ∧
      ((∀ p, p < 8 → s.portState p = 0) →
        exec (.pkgidWrite rq v) s = .next (((u.wrGen 0x0200000 v.toNat true).heal 0x0200000).windowUse rq))) ∧
    (s.writesHard rq 0x0200008 = true →
      let u := s.placed rq 0x0200008
      let bad := 6144 < 32 * (rfld v 7 0 + rfld v 15 8 + rfld v 23 16 + rfld v 31 24) ∨ rfld v 7 0 < 16
      (bad → exec (.floorWrite rq v) s = .next (u.accEv rq 0x0200008 (s.arbN (arbReg 0x0200008)))) ∧
      (¬ bad → exec (.floorWrite rq v) s = .next (((u.wrGen 0x0200008 v.toNat true).heal 0x0200008).windowUse rq)))) ∧
  (∀ (rq : Req) (p : Fin 8) (s : State), s.writes rq (rPort p 4) = true → s.rf (rPort p 4) 0 0 = 1 →
    let u := (s.placed rq (rPort p 4)).wrGen (rPort p 4) 3 false
    (s.mayTrain p = false → exec (.portRetrain rq p) s = .next u) ∧
    (s.mayTrain p = true → s.portUp p = false → exec (.portRetrain rq p) s = .next (u.setRf (rPort p 0) 2 0 1)) ∧
    (s.mayTrain p = true → s.portUp p = true →
      exec (.portRetrain rq p) s = .next (u.linkGone p 1 false (s.arbN (arbReg (rPort p 4))))) ∧
    (s.rf 0x0200000 16 16 = 0 → s.mayTrain p = false))

/-- R152, R298, R304, R370: unlocked writes of a key, of a casement's SPW and of the injection control. A key is in force at once when no
instruction of its casement is incomplete, and waits for the next commit otherwise; SPW is refused while a program is loaded, and a
change of it leaves no line in the casement's cache (the model's choice, log 14); ARM is refused while an injection is armed. -/
def Obligations.GuardedWrites : Prop :=
  ∀ (rq : Req) (v : BitVec 32) (s : State),
    (∀ (d : Fin 4) (hi : Bool), let off := 0x0070400 + 8 * d.val + 4 * b2n hi
      s.writesHard rq off = true →
      let u := s.placed rq off
      let now := { u.setReg off v with staged := Assoc.put u.staged off none none }
      let later := { u with staged := Assoc.put u.staged off (some v) none }
      (s.casQuiet d = true → exec (.keyWrite rq d hi v) s = .next ((now.heal off).windowUse rq)) ∧
      (s.casQuiet d = false → exec (.keyWrite rq d hi v) s = .next ((later.heal off).windowUse rq))) ∧
    (∀ d : Fin 4, let off := 0x0180000 + 4 * d.val
      s.writesHard rq off = true →
      let u := s.placed rq off
      let same := min 16 (rfld v 4 0) = min 16 (s.rf off 4 0)
      ((s.casement d).phase = .idle → same →
        exec (.spwWrite rq d v) s = .next (((u.wrGen off v.toNat true).heal off).windowUse rq)) ∧
      ((s.casement d).phase = .idle → ¬ same →
        exec (.spwWrite rq d v) s = .next ((((u.flushSlices d).wrGen off v.toNat true).heal off).windowUse rq)) ∧
      ((s.casement d).phase ≠ .idle → exec (.spwWrite rq d v) s = .next (u.accEv rq off (s.arbN (arbReg off))))) ∧
    (s.writesHard rq 0x0060100 = true → rq ≠ .pkc →
      let u := s.placed rq 0x0060100
      let w := u.wrGen 0x0060100 v.toNat true
      (v.getLsbD 8 = true → s.rf 0x006010C 0 0 = 0 →
        exec (.injArm rq v) s = .next (((w.setRf 0x006010C 0 0 1).heal 0x0060100).windowUse rq)) ∧
      (v.getLsbD 8 = false → exec (.injArm rq v) s = .next ((w.heal 0x0060100).windowUse rq)) ∧
      (v.getLsbD 8 = true → s.rf 0x006010C 0 0 = 1 →
        exec (.injArm rq v) s = .next (u.accEv rq 0x0060100 (s.arbN (arbReg 0x0060100)))))

/-- R375: the unlock window of a requester: ADR and LEN are written, the right KEY opens the window over LEN registers from ADR, KEY 0
closes it, and another KEY closes it with an event; ADR and LEN close it as well. An accepted write inside the window uses one of
its writes, and the last one closes it; a write outside closes it. -/
def Obligations.UnlockWindow : Prop :=
  (∀ (rq : Req) (b : Nat) (v : BitVec 32) (s : State), rqBank rq = some b →
    (∀ o, o = 0x0060010 ∨ o = 0x0060014 ∨ o = 0x0060018 → s.writes rq o = true) →
    let u := s.grant (arbReg 0x0060010)
    let x := s.bank b
    (∃ t, exec (.hunlkAdrWrite rq v) s = .next t ∧
      t.bank b = { x with adr := 4 * (v.toNat / 4 % 2 ^ 23), open_ := false, left := 0 } ∧ t.regs = s.regs) ∧
    (∃ t, exec (.hunlkLenWrite rq v) s = .next t ∧
      t.bank b = { x with len := v.toNat % 2 ^ 18, open_ := false, left := 0 } ∧ t.regs = s.regs) ∧
    (∃ t, exec (.hunlkKeyWrite rq 0x6A5C93F1#32) s = .next t ∧
      t.bank b = { x with open_ := true, base := x.adr, span := max 1 x.len, left := max 1 x.len } ∧ t.regs = s.regs) ∧
    (∃ t, exec (.hunlkKeyWrite rq 0#32) s = .next t ∧ t.bank b = { x with open_ := false, left := 0 } ∧ t.regs = s.regs) ∧
    (v ≠ 0x6A5C93F1#32 → v ≠ 0#32 → ∃ w : State, w.regs = s.regs ∧ w.bank b = { x with open_ := false, left := 0 } ∧ w.arb = u.arb ∧
      exec (.hunlkKeyWrite rq v) s = .next (w.accEv rq 0x0060018 (s.arbN (arbReg 0x0060018))))) ∧
  (∀ (rq : Req) (b : Nat) (s : State), rqBank rq = some b →
    ((s.bank b).left ≤ 1 → (s.windowUse rq).bank b = { s.bank b with open_ := false, left := 0 }) ∧
    (1 < (s.bank b).left → (s.windowUse rq).bank b = { s.bank b with left := (s.bank b).left - 1 }) ∧
    (∀ off, (s.bank b).open_ = true → ¬ ((s.bank b).base ≤ off ∧ off < (s.bank b).base + 4 * (s.bank b).span) →
      ((s.windowAt rq off).bank b).open_ = false))

/-- R388 to R392: a check-value unit: a write of POLY empties the value; feeds take the bytes in ascending order; CMD combines and
empties. -/
def Obligations.CheckUnits : Prop :=
  ∀ (rq : Req) (n : Fin 8) (v : BitVec 32) (s : State),
    (∀ o, o ∈ [0x00, 0x0C, 0x10, 0x14, 0x28] → s.writes rq (rCvu n o) = true) →
    let u := fun (o : Nat) => s.placed rq (rCvu n o)
    let p := s.cvuPoly n
    let a := s.cvuVal n
    exec (.cvuCtlWrite rq n v) s =
      .next (((u 0).wrGen (rCvu n 0) v.toNat false).setCvu n (crcEmpty (crcPoly (rfld v 1 0)))) ∧
    exec (.cvuFeed8 rq n v) s = .next ((u 0x0C).setCvu n (crcFeeds p a (leBytes 1 v.toNat))) ∧
    exec (.cvuFeed16 rq n v) s = .next ((u 0x10).setCvu n (crcFeeds p a (leBytes 2 v.toNat))) ∧
    exec (.cvuFeed32 rq n v) s = .next ((u 0x14).setCvu n (crcFeeds p a (leBytes 4 v.toNat))) ∧
    exec (.cvuCombine rq n) s = .next ((u 0x28).setCvu n (crcCombine p a
      ((s.reg (rCvu n 0x18)).toNat + (s.reg (rCvu n 0x1C)).toNat * 2 ^ 32)
      ((s.reg (rCvu n 0x20)).toNat + (s.reg (rCvu n 0x24)).toNat * 2 ^ 32))) ∧
    exec (.cvuEmpty rq n) s = .next ((u 0x28).setCvu n (crcEmpty p))

/-- R418, R419: a ring's head takes the value written, and an armed ring with an unread record sends its vector and clears ARM; enabling a
ring clears HEAD and TAIL and sets PHASE to 1. -/
def Obligations.RingRegisters : Prop :=
  ∀ (rq : Req) (f : Fin 16) (evt : Bool) (v : BitVec 32) (s : State),
    (s.writes rq (ringWin f evt + 0x1C) = true →
      let u := (s.placed rq (ringWin f evt + 0x1C)).wrGen (ringWin f evt + 0x1C) v.toNat false
      (u.ringArmed f evt = true → u.ringHead f evt ≠ u.ringTail f evt → exec (.ringHeadWrite rq f evt v) s =
        .next ((u.setRf (ringWin f evt + 0x1C) 16 16 0).sendVec f (u.ringVec f evt))) ∧
      ((u.ringArmed f evt = false ∨ u.ringHead f evt = u.ringTail f evt) → exec (.ringHeadWrite rq f evt v) s = .next u)) ∧
    (s.writes rq (ringWin f evt + 0x18) = true →
      (s.ringEn f evt = false → v.getLsbD 4 = true → ∃ t, exec (.ringCtlWrite rq f evt v) s = .next t ∧
        t.ringHead f evt = 0 ∧ t.ringTail f evt = 0 ∧ t.ringPhase f evt = true ∧ t.ringEn f evt = true ∧
        t.ringSize f evt = 64 * 2 ^ min (rfld v 3 0) 10) ∧
      (s.ringEn f evt = true → min 10 (rfld v 3 0) ≠ min 10 (s.rf (ringWin f evt + 0x18) 3 0) →
        exec (.ringCtlWrite rq f evt v) s =
          .next ((((s.placed rq (ringWin f evt + 0x18)).setRf (ringWin f evt + 0x18) 4 4 (rfld v 4 4)).setRf (ringWin f evt + 0x18) 14 8
            (rfld v 14 8)).accEv rq (ringWin f evt + 0x18) (s.arbN (arbReg (ringWin f evt + 0x18))))))

/-- R424, R431, R448, R449: the Package Controller feeds the watchdog with 0x5A5A and any other value is the reset of source 5; another
requester's write is ignored; a block's reset bit that is newly set records source 8, in LAST as well while the block is not held
in reset, and ends a seal test (R444). In the safe state every class but the intake engine's is held. -/
def Obligations.ResetRegisters : Prop :=
  (∀ (v : BitVec 32) (s : State), s.writes .pkc 0x0010024 = true →
    let u := s.placed .pkc 0x0010024
    (v = 0x5A5A#32 → exec (.wdtFeed .pkc v) s = .next u) ∧ (v ≠ 0x5A5A#32 → exec (.wdtFeed .pkc v) s = .next (u.wideReset .none 5))) ∧
  (∀ (rq : Req) (v : BitVec 32) (s : State), rq ≠ .pkc → s.writes rq 0x0010024 = true →
    exec (.wdtFeed rq v) s = .next (s.placed rq 0x0010024)) ∧
  (∀ (rq : Req) (off : Nat) (v : BitVec 32) (s : State), isRstBit off = true → off % 4 = 0 → s.writes rq off = true →
    let u := (s.placed rq off).wrGen off v.toNat false
    let kept := s.held = true ∨ (s.isSafe = true ∧ off ≠ 0x0010160)
    (u.reg off ≠ s.reg off → ¬ kept → exec (.blockResetWrite rq off v) s = .next ((u.cause 8).sealReset 8)) ∧
    (u.reg off ≠ s.reg off → kept → exec (.blockResetWrite rq off v) s = .next ((s.placed rq off).seen 8)) ∧
    (u.reg off = s.reg off → exec (.blockResetWrite rq off v) s = .next (s.placed rq off)))

/-- R455, R456, R457, R468: the firmware commands, from whoever may write FWU_CMD, while no command is in progress. A refusal gives RES
and REASON, with an event of the write's grant, and a command that is done RES 0. ARM, DISARM, DBSET and DBCLR put a new entry, with
the next SEQ, into a journal of the flash, where FWU_STAT shows its STATE and DB; SVNCOMMIT burns the fuse counter up to the running
image's; ACTIVATE is the reset of source 5; ATTEST writes the report to FWU_ADDR. -/
def Obligations.FirmwareCommands : Prop :=
  (∀ (rq : Req) (s : State), s.writes rq 0x0030000 = true → s.fwuBusy = false →
    let u := s.placed rq 0x0030000
    let no := fun (res reason : Nat) => ((u.setRf 0x0030004 3 1 res).setRf 0x0030004 7 4 reason).post
      { kind := 9, arbseq := s.arbN (arbReg 0x0030000), info := reason }
    let st := s.jrn.st
    let put := fun (c : Instr) (j : Jrn) => ∃ t, exec c s = .next t ∧ t.jrn = j ∧ t.rf 0x0030004 3 1 = 0 ∧ t.rf 0x0030004 7 4 = 0 ∧
      t.rf 0x0030004 10 10 = b2n j.db ∧ (j.st < 8 → t.rf 0x0030004 13 11 = j.st) ∧
      ∃ a, jrnA ≤ a ∧ a + 64 ≤ jrnB + sectorSize ∧ t.flashRead a 64 = j.bytes.map (· % 256)
    (s.jrn.db = true → exec (.fwuArm rq) s = .next (no 2 3)) ∧
    (s.jrn.db = false → s.rsvLow = true → exec (.fwuArm rq) s = .next (no 2 2)) ∧
    (s.jrn.db = false → s.rsvLow = false → (st ≠ 2 ∧ st ≠ 3 ∧ st ≠ 4) → exec (.fwuArm rq) s = .next (no 2 5)) ∧
    (s.jrn.db = false → s.rsvLow = false → (st = 2 ∨ st = 3 ∨ st = 4) → put (.fwuArm rq) { s.jrn with
      seq := s.jrn.seq + 1, st := if s.rf 0x0030014 16 16 = 1 then 4 else 3, ctag := s.rf 0x0030014 15 0, epoch := (s.reg 0x0030018).toNat }) ∧
    ((st = 3 ∨ st = 4) → put (.fwuDisarm rq) { s.jrn with seq := s.jrn.seq + 1, st := 2 }) ∧
    ((st ≠ 3 ∧ st ≠ 4) → exec (.fwuDisarm rq) s = .next (no 2 5)) ∧
    (∀ x, s.anyCas = false → s.rsvLow = false → s.jrn.db = false → st = 4 → exec (.fwuActivate rq x) s = .next (u.wideReset x 5)) ∧
    (∀ x, (s.anyCas = true → exec (.fwuActivate rq x) s = .next (no 2 1)) ∧
      (s.anyCas = false → s.rsvLow = true → exec (.fwuActivate rq x) s = .next (no 2 2)) ∧
      (s.anyCas = false → s.rsvLow = false → s.jrn.db = true → exec (.fwuActivate rq x) s = .next (no 2 3)) ∧
      (s.anyCas = false → s.rsvLow = false → s.jrn.db = false → st ≠ 4 → exec (.fwuActivate rq x) s = .next (no 2 4))) ∧
    (s.rsvLow = false → s.run.gold = false → s.fuses.svnctr < s.run.svn → s.run.svn ≤ 128 →
      ∃ t, exec (.fwuSvncommit rq) s = .next t ∧ t.fuses = { s.fuses with svnctr := s.run.svn } ∧ t.rf 0x0030004 3 1 = 0 ∧
        t.rf 0x0030024 31 16 = s.run.svn) ∧
    (s.rsvLow = false → s.run.gold = true → exec (.fwuSvncommit rq) s = .next (no 2 7)) ∧
    (s.rsvLow = false → s.run.gold = false → s.run.svn ≤ s.fuses.svnctr → exec (.fwuSvncommit rq) s = .next (no 2 6)) ∧
    put (.fwuDbset rq) { s.jrn with seq := s.jrn.seq + 1, db := true, st := if st = 3 ∨ st = 4 then 2 else st } ∧
    (rq = .mgt → put (.fwuDbclr rq) { s.jrn with seq := s.jrn.seq + 1, db := false }) ∧
    (rq ≠ .mgt → exec (.fwuDbclr rq) s = .next (no 5 0)) ∧
    (let rep := u.report s.fwuNonce
      ∃ t, exec (.fwuAttest rq) s = .next t ∧ t.rseq = s.rseq + 1 ∧ t.rf 0x0030004 3 1 = 0 ∧
        t.out = s.out ++ [.host 0 true s.fwuAddr rep.length] ∧ t.hostRead s.fwuAddr rep.length = rep.map (· % 256))) ∧
  (∀ (j : Jrn) (s : State) (a : Nat) (i : Jrn), s.jrnForce = some (a, i) → (s.journal j).jrnAt a = some i)

/-- R456, R458: STAGE of an image that the host answers: it is written to the erased sill, and is STAGED when it is valid and as long as its
header says, EMPTY otherwise; STAGE is refused while downgrade blocking is set and while SUPPLY_RSV_L is asserted. SUPPLY_RSV_L that
asserts meanwhile ends it EMPTY; a reset that comes meanwhile leaves the journal at STAGING. -/
def Obligations.StageImage : Prop :=
  ∀ (rq : Req) (s : State), s.writes rq 0x0030000 = true → s.fwuBusy = false →
    let u := s.placed rq 0x0030000
    let no := fun (reason : Nat) => ((u.setRf 0x0030004 3 1 2).setRf 0x0030004 7 4 reason).post
      { kind := 9, arbseq := s.arbN (arbReg 0x0030000), info := reason }
    let n := s.rf 0x0030010 23 0
    let res := fun (t : State) (st res reason : Nat) => t.jrn.st = st ∧ t.rf 0x0030004 13 11 = st ∧ t.rf 0x0030004 3 1 = res ∧
      t.rf 0x0030004 7 4 = reason
    ∀ cut : Option (Nat × Bool),
    (s.jrn.db = true → exec (.fwuStage rq cut) s = .next (no 3)) ∧
    (s.jrn.db = false → s.rsvLow = true → exec (.fwuStage rq cut) s = .next (no 2)) ∧
    (s.jrn.db = false → s.rsvLow = false → s.hostAnswer s.fwuAddr n ≠ 0 → ∃ t, exec (.fwuStage rq cut) s = .next t ∧ res t 0 4 0 ∧
      t.flashRead bankSill bankSize = s.flashRead bankSill bankSize) ∧
    (s.jrn.db = false → s.rsvLow = false → s.hostAnswer s.fwuAddr n = 0 →
      (n ≤ bankSize →
        let img := s.hostRead s.fwuAddr n
        let w := (s.flashErase bankSill (roundUp n 65536)).flashWrite bankSill img
        let good := w.imgValid bankSill = true ∧ n = (w.imgHdr bankSill).len + 8192
        ∃ t, exec (.fwuStage rq none) s = .next t ∧ t.flashRead bankSill n = img ∧ t.jrn.db = false ∧
          (good → res t 2 0 0 ∧ t.jrn.svn = (w.imgHdr bankSill).svn ∧ t.jrn.ver = (w.imgHdr bankSill).ver) ∧
          (¬ good → res t 0 3 0)) ∧
      (bankSize < n → ∃ t, exec (.fwuStage rq none) s = .next t ∧ res t 0 3 0) ∧
      (∀ k, ∃ t, exec (.fwuStage rq (some (k, true))) s = .next t ∧ res t 0 2 2 ∧ t.rsvLow = true) ∧
      (∀ k, ∃ t, exec (.fwuStage rq (some (k, false))) s = .next t ∧ t.jrn.st = 1 ∧ t.fwuBusy = true))

/-- R432, R443, R463: START of a seal test is refused with its REASON, or raises READY_L and begins the test, which takes every Pane, slice
and stack and closes every function's intake; a package that is held, in the safe state, not up, testing or sealed takes no START. A
life-cycle transition that is allowed is pending until the next reset, and every other one is refused with an event. -/
def Obligations.SealAndLife : Prop :=
  (∀ (rq : Req) (s : State), s.writes rq 0x0020800 = true →
    let up := s.held = false ∧ s.isSafe = false ∧ s.rf 0x0020808 3 0 = 9 ∧ s.sealState ≠ 1 ∧ s.sealState ≠ 2 ∧ s.sealState ≠ 5
    let u := s.placed rq 0x0020800
    let no := fun (r : Nat) => ((u.setRf 0x0020804 2 0 3).setRf 0x0020804 11 8 r).post { kind := 9, info := r }
    (¬ up → exec (.sealTest rq) s = .next u) ∧
    (up → s.anyCas = true → exec (.sealTest rq) s = .next (no 1)) ∧
    (up → s.anyCas = false → s.rf 0x0020000 2 0 = 4 → exec (.sealTest rq) s = .next (no 2)) ∧
    (up → s.anyCas = false → s.rf 0x0020000 2 0 ≠ 4 → s.rsvLow = true → exec (.sealTest rq) s = .next (no 3)) ∧
    (up → s.anyCas = false → s.rf 0x0020000 2 0 ≠ 4 → s.rsvLow = false → ∃ t, exec (.sealTest rq) s = .next t ∧ t.sealState = 1 ∧
      t.rf 0x1000014 5 5 = 0 ∧ (∀ f, f < 16 → t.rf (rItk f 0) 0 0 = 0) ∧ t.pane = Mem.empty ∧ t.scratch = Mem.empty ∧
      t.hbm = Mem.empty ∧ t.sealing = ⟨sealTests, 640, [], false⟩)) ∧
  (∀ (rq : Req) (target : Nat) (s : State), target < 8 → s.writes rq 0x0020004 = true →
    let u := s.placed rq 0x0020004
    let ok := s.lcAllowed rq target s.hostToken
    ((s.anyCas = true ∨ ok = false) → exec (.lcTransition rq target) s =
      .next (u.post { kind := 9, arbseq := s.arbN (arbReg 0x0020004), info := target })) ∧
    (s.anyCas = false → ok = true → ∃ t, exec (.lcTransition rq target) s = .next t ∧ t.fuses.pend = target ∧ t.fuses.lcs = s.fuses.lcs ∧
      t.rf 0x0020000 5 3 = target ∧ t.rf 0x0020000 2 0 = s.rf 0x0020000 2 0))

/-- R372 to R374, R376 to R378: the scrubber's visit of the next hardened register in ascending order. A register whose copies agree stays;
one copy with a flipped bit is rewritten and counted, with an event that names the register's unit; with two it is uncorrectable: an
entry takes its reset value, a vital register brings the safe state, and another fences the units that own it. A working copy that
differs in a bit that R376 compares is logged with both values and fences the unit that holds it. In a held package and in the
safe state nothing is visited. That an upset arrives at the visit is the model's reading (log 51); a port's reduction state (row 3 of
R376) is not among the working copies named here. -/
def Obligations.HardenedVisit : Prop :=
  (∀ (fl : List (Nat × Nat)) (wc : Option (Nat × Nat)) (s : State), (s.held = true ∨ s.isSafe = true) →
    exec (.hardenedScrubVisit fl wc) s = .next s) ∧
  (∀ p, p < hardNext p ∨ ∀ r, r ∈ visitRows → hardNext p ≤ r.base) ∧
  (∀ s : State, s.held = false → s.isSafe = false → s.injArmed 0x0C 0 = false → s.injArmed 0x0D (s.rf 0x0060104 15 0) = false →
    let off := hardNext s.hpos
    let ev : Ev := { kind := 2, det := 0x0C, unit := s.fieldUnit off, info := off }
    let at_ := fun (u : State) => u.hpos = off ∧ u.fieldUnit off = s.fieldUnit off ∧ ∀ k, u.reg k = s.reg k
    let hit := fun (b : Nat) => b = 32 ∨ (b < 32 ∧ bit (hrwMask off) b = true)
    s.copies off = HCopy.three → s.wcopy = [] → cmpKind off ≠ 3 →
    (∃ u, exec (.hardenedScrubVisit [] none) s = .next u ∧ at_ u ∧ u.copies off = HCopy.three ∧ u.out = s.out) ∧
    (∀ (c : Fin 3) (b : Nat), hit b → hrwMask off ≠ 0 → ∃ u : State, at_ u ∧ u.copies off = HCopy.three ∧
      exec (.hardenedScrubVisit [(c.val, b)] none) s = .next ((u.count 0x0060000 15 0 1).postArb (arbReg off) ev)) ∧
    (∀ (c e : Fin 3) (b x : Nat), c ≠ e → hit b → hit x → hrwMask off ≠ 0 → ∃ u : State, at_ u ∧
      exec (.hardenedScrubVisit [(c.val, b), (e.val, x)] none) s =
        .next ((((u.count 0x0060000 31 16 1).postArb (arbReg off) ev).uncorrectable off).compare off)) ∧
    (∀ un x, un ∈ s.cmpUnits off → x < 2 ^ 32 → x &&& cmpMask off ≠ 0 → ∃ u : State, at_ u ∧ u.wcDiff off un = x ∧
      exec (.hardenedScrubVisit [] (some (un, x))) s = .next (u.disagree off un ((s.reg off).toNat ^^^ x) false))) ∧
  (∀ (off : Nat) (s : State),
    (isEntry off = true → off % 4 = 0 → off < 2 ^ 26 → (s.uncorrectable off).reg off = regReset off) ∧
    (isEntry off = false → isVital off = true → (s.uncorrectable off).isSafe = true ∧ (s.uncorrectable off).reg 0x0020810 = 8#32) ∧
    (isEntry off = false → isVital off = false → s.uncorrectable off = (s.fieldUnits off).foldl (fun s u => s.fence u.1 u.2) s)) ∧
  (∀ (cls idx : Nat) (s : State), (s.fence cls idx).blkDown cls idx = true) ∧
  (∀ (off un w : Nat) (s : State), ∃ u : State, u.rf 0x0060300 3 0 = cmpKind off % 16 ∧ u.rf 0x0060300 19 4 = un % 65536 ∧
    u.rf 0x0060304 15 0 = min 65535 (s.rf 0x0060304 15 0 + 1) ∧
    let auth := if cmpKind off = 3 ∨ 5 ≤ cmpKind off then 1 else 0
    let info := (s.reg off).toNat + w % 2 ^ 32 * 2 ^ 32 + auth * 2 ^ 64
    s.disagree off un w false = (u.post { kind := 2, det := 0x0D, unit := un, info := info }).fence (cmpClass (cmpKind off)) un)

/-! ### Intake and completions -/

/-- R400, R401, R403 to R406, R413, R414: a write of a function's window takes a number of the acceptance arbiter, and one that completes a
block with a bad CRC is counted, with an event; the block at READ is accepted when its SEQ is NEXT, its CRC is good and the queue has
room; the oldest record that waits is written when the ring has room. A reserved TYPE completes with BADTYPE; SKIP and NOP complete
with OK, and with BADFIELD when an unused bit is set; a command that only the PF may use completes with DENIED for a virtual function. -/
def Obligations.IntakeAccepts : Prop :=
  (∀ (f : Fin 16) (s : State),
    (∀ (off : Nat) (bytes : List Nat), s.reaches (.fn f) = true → (s.fn f).d3 = false → s.isSafe = false → off < winBytes →
      s.blkDown 5 0 = false →
      let bs := bytes.take (winBytes - off)
      let u := (s.grant arbAccept).winWrite f off bs
      let w := u.setFn f { u.fn f with exam := true }
      let e := s.itkRead f + w.headLen f
      let bad := w.headOk f = true ∧ off ≤ e - 4 ∧ e ≤ off + bs.length ∧ crcOk (w.headBytes f) = false
      (bad → exec (.intakeWrite f off bytes) s =
        .next (((w.raise (rItk f 0) 2).count (rItk f 0xC) 31 16 1).post { kind := 6, unit := f, info := s.itkRead f })) ∧
      (¬ bad → exec (.intakeWrite f off bytes) s = .next w)) ∧
    ((s.fn f).exam = true → s.isReady = true → (s.fn f).d3 = false → s.blkDown 5 0 = false → s.headOk f = true →
      crcOk (s.headBytes f) = true → (s.fn f).q.length < 64 →
      ∃ t, exec (.blockAccept f) s = .next t ∧ (t.fn f).q = (s.fn f).q ++ [⟨s.headBytes f, s.arbN arbAccept⟩] ∧
        t.itkRead f = (s.itkRead f + s.headLen f) % 2 ^ 20 ∧ t.itkNext f = (s.itkNext f + 1) % 2 ^ 32 ∧
        t.rf (rItk f 0xC) 15 0 = min (2 ^ 16 - 1) (s.rf (rItk f 0xC) 15 0 + 1)) ∧
    (∀ (r : CRec) (rest : List CRec), (s.fn f).recs = r :: rest → s.ringReady f false = true →
      let u := s.setFn f { s.fn f with recs := rest }
      exec (.completionRecordWrite f) s = .next (u.ringWrite f false (leBytes 32 (r.bits (s.ringPhase f false)))))) ∧
  (∀ (f : Fin 16) (s : State) (k : Cmd), s.frontCmd f = some k →
    (cmdTypes.contains k.type = false → exec (.reservedCommandType f) s = .next (s.finish f k 0x01 0)) ∧
    (k.type = 0x01 → k.plain 0 = true → k.ctag = 0 → exec (.skip f) s = .next (s.finish f k 0x00 0)) ∧
    (k.type = 0x02 → k.plain 0 = true → k.ctag = 0 → exec (.nop f) s = .next (s.finish f k 0x00 0)) ∧
    (k.type = 0x01 → (k.plain 0 = false ∨ k.ctag ≠ 0) → exec (.skip f) s = .next (s.finish f k 0x02 0)) ∧
    (k.type = 0x02 → (k.plain 0 = false ∨ k.ctag ≠ 0) → exec (.nop f) s = .next (s.finish f k 0x02 0)) ∧
    (f.val ≠ 0 → k.type = 0x10 → k.plain mapMask = true → k.ctag = 0 → s.mapOk k = true →
      exec (.casementMap f) s = .next (s.finish f k 0x03 0)) ∧
    (k.type = 0x11 → k.plain 0 = true → (f.val ≠ 0 ∨ s.named f k.ctag true = none) →
      ∀ x, exec (.casementEnd f x) s = .next (s.finish f k 0x03 0)) ∧
    (k.type = 0x12 → k.plain 0 = true → s.named f k.ctag true = none → ∀ x, exec (.casementReset f x) s = .next (s.finish f k 0x03 0)) ∧
    (k.type = 0x21 → k.plain 0 = true → s.named f k.ctag false = none → exec (.start f) s = .next (s.finish f k 0x03 0)))

/-- R303, R407, R412, R422, R491: the commands that give a casement its life: a map that finds its dies available and free makes an idle
casement of the tag, the owner and the dies named, whose stacks hold zeros; END takes it away, whatever the shutters meet; RESET
leaves it idle with its maps; DIE_TEST tests every tile of free dies and then decides each die. -/
def Obligations.CasementLife : Prop :=
  ∀ (f : Fin 16) (s : State) (k : Cmd),
    (s.freeRun f k 0x10 mapMask → s.mapOk k = true → f.val = 0 → s.isReady = true → s.mapRes k = true →
      let d := (diesOf (k.f 3 0)).headD 0
      ∃ u : State, exec (.casementMap f) s = .next (u.finish f k 0x00 k.newCas.ctxBase) ∧ u.casement d = k.newCas ∧
        u.rf (rFab d 0) 15 0 = k.f 31 16 ∧
        (s.rf 0x006010C 0 0 = 0 → ∀ st off, st ∈ stacksOf (k.f 3 0) → s.blkDown 2 st = false → off < 2 ^ 36 → u.hbmByte st off = 0#8)) ∧
    (s.freeRun f k 0x10 mapMask → s.mapOk k = true → f.val = 0 → s.isReady = true → s.mapRes k = false →
      exec (.casementMap f) s = .next (s.finish f k 0x08 0)) ∧
    (s.freeRun f k 0x10 mapMask → s.mapOk k = true → f.val = 0 → s.isReady = false → exec (.casementMap f) s = .next s) ∧
    (∀ d x, d < 4 → f.val = 0 → s.casRun f k 0x11 0 true [.idle, .loaded, .running, .stopped] d →
      let ended := (s.post { kind := 4, unit := d, ctag := s.tagOf d }).endProgram d (s.arbN arbEvent)
      let t := ((if (s.casement d).phase = .running then ended else s).shutAll x d).casGone d
      exec (.casementEnd f x) s = .next (t.finish f k 0x00 0) ∧ t.casement d = Cas.reset ∧ t.fabState d = 0) ∧
    (∀ d x, d < 4 → s.casRun f k 0x12 0 true [.idle, .loaded, .stopped] d →
      let c := ((s.shutAll x d).resetCvu d).casement d
      let t := s.casReset x d
      exec (.casementReset f x) s = .next (t.finish f k 0x00 0) ∧ (t.casement d).phase = .idle ∧ (t.casement d).nlt = 0 ∧
        (t.casement d).mask = c.mask ∧ (t.casement d).tag = c.tag ∧ (t.casement d).ptBase = c.ptBase) ∧
    (∀ d x, d < 4 → s.casRun f k 0x12 0 true [.running] d → exec (.casementReset f x) s = .next (s.finish f k 0x04 0)) ∧
    (∀ fails : List Nat, s.freeRun f k 0x40 (maskOf [(3, 0)]) → f.val = 0 → s.isReady = true →
      ((diesOf (k.f 3 0)).all (fun x => (s.casOfDie x).isNone) = true →
        let test := fun (s : State) (d : Nat) => (tilesOfDie d).foldl (fun s p => s.tested p (!fails.contains p)) s
        let t := (diesOf (k.f 3 0)).foldl (fun s d => ((test s d).buildMap d).dieBack d) s
        exec (.dieTest f fails) s = .next (t.finish f k 0x00 (t.failCount (k.f 3 0)))) ∧
      ((diesOf (k.f 3 0)).any (fun x => (s.casOfDie x).isSome) = true → exec (.dieTest f fails) s = .next (s.finish f k 0x04 0)))

/-- R408, R409: a program is loaded into an idle casement from the host's image; START of a loaded one binds its tiles and answers STARTED,
or STATE while its member is not LIVE; a program whose tiles have all halted ends, with START's second record, DONE. -/
def Obligations.ProgramLife : Prop :=
  (∀ (f : Fin 16) (s : State) (k : Cmd) (d : Nat), d < 4 → s.casRun f k 0x20 loadMask false [.idle] d → loadOk k = true →
    let src := k.f 63 0
    let n := k.f 95 64
    let pva := k.f 159 96
    let small := ¬ (s.physP d < k.f 172 160 ∧ (s.casement d).ctxFrames * frameBytes < k.f 172 160 * slotBytes)
    (¬ small → exec (.programLoad f) s = .next (s.finish f k 0x08 0)) ∧
    (small → (s.codeOk d pva n = false ∨ s.hostAnswer src n ≠ 0) → exec (.programLoad f) s = .next (s.finish f k 0x07 0)) ∧
    (small → s.codeOk d pva n = true → s.hostAnswer src n = 0 →
      let y := (s.hostAsk (s.casement d).owner src n).codeCopy d (cuts frameBytes pva n) (s.hostRead src n)
      let u := y.1
      let c := { u.casement d with
        phase := .loaded, held := false, steps := 0, nlt := k.f 172 160, gx := k.f 188 176, gy := k.f 172 160 / k.f 188 176
        entry := k.f 223 192, plen := n, pva := pva }
      (y.2 = false → exec (.programLoad f) s = .next (u.finish f k 0x07 0)) ∧
      (y.2 = true → exec (.programLoad f) s = .next ((((u.setCas d c).putKey d (k.f 287 224)).freshTiles d).finish f k 0x00 0)))) ∧
  (∀ (f : Fin 16) (s : State) (k : Cmd) (d : Nat), d < 4 → s.casRun f k 0x21 0 false [.loaded] d →
    let want := min (s.casement d).nlt (s.physP d)
    let ps := (s.bindable d).take want
    (s.rf (rFab d 4) 24 12 ≠ 0 → s.fabState d ≠ 1 → exec (.start f) s = .next (s.finish f k 0x04 0)) ∧
    ((s.rf (rFab d 4) 24 12 = 0 ∨ s.fabState d = 1) → (∃ x, x ∈ diesOf (s.mask d) ∧ s.dieAvail x = false) →
      exec (.start f) s = .next (s.finish f k 0x04 0)) ∧
    ((s.rf (rFab d 4) 24 12 = 0 ∨ s.fabState d = 1) → (∀ x, x ∈ diesOf (s.mask d) → s.dieAvail x = true) → want ≤ ps.length →
      let u := s.bindAll d ps
      let v := u.setCas d { u.casement d with phase := .running, held := false, quiesce := false, start := some ⟨f, k.seq, k.tag, k.aseq⟩ }
      exec (.start f) s =
        .next ({ v with heldPane := v.heldPane.zero 8 (ltKey d 0 * 2 ^ 19) (2 ^ 31) }.finish f k 0x10 0))) ∧
  (∀ (d : Fin 4) (s : State), (s.casement d).phase = .running → s.allHalted d = true →
    ∃ t, exec (.programEnd d) s = .next t ∧ (t.casement d).phase = .loaded ∧ (t.casement d).start = none ∧
      ∀ r, (s.casement d).start = some r → (t.fn r.f).recs = (s.fn r.f).recs ++ [⟨r.seq, 0x21, 0x11, r.tag, r.aseq, 0⟩])

/-- R234, R235, R410: a context whose range of host pages can be written is saved, while the program stops at a boundary, for which the
command waits, or is only loaded; the program goes on or is held. An image of the casement's size is restored into a loaded
casement. STATE, NORES, ADDRESS and REJECTED in the order of their checks. That the image says in its header which tiles have
halted is the model's choice (log 40). -/
def Obligations.ContextLife : Prop :=
  (∀ (f : Fin 16) (s : State) (k : Cmd) (d : Nat), d < 4 →
    s.casRun f k 0x22 (maskOf [(63, 0), (127, 64), (128, 128)]) false [.running, .loaded] d → k.f 63 0 % 2 ^ 21 = 0 →
    let n := 4096 + (s.casement d).nlt * slotBytes
    let reach := s.hostRange d (k.f 63 0) (k.f 127 64) true = true ∧ s.hostErr d (k.f 63 0) n 1 = false
    (s.fabState d = 2 → exec (.ctxSave f) s = .next (s.finish f k 0x04 0)) ∧
    (s.fabState d ≠ 2 → k.f 127 64 < n → exec (.ctxSave f) s = .next (s.finish f k 0x08 0)) ∧
    (s.fabState d ≠ 2 → n ≤ k.f 127 64 → ¬ reach → exec (.ctxSave f) s = .next (s.finish f k 0x07 0)) ∧
    (s.fabState d ≠ 2 → n ≤ k.f 127 64 → reach → (s.casement d).phase = .running → s.allStill d = false →
      ∃ t, exec (.ctxSave f) s = .next t ∧ t.casement d = { s.casement d with quiesce := true } ∧
        t.fn f = { s.fn f with busy := true }) ∧
    (s.fabState d ≠ 2 → n ≤ k.f 127 64 → reach → ((s.casement d).phase = .loaded ∨ s.allStill d = true) →
      let u := s.saveImage d (k.f 63 0)
      (k.f 128 128 = 1 → exec (.ctxSave f) s = .next ((u.setCas d { u.casement d with quiesce := false }).finish f k 0x00 n)) ∧
      (k.f 128 128 = 0 → exec (.ctxSave f) s = .next ((u.holdCtx d).finish f k 0x00 n) ∧
        ((u.holdCtx d).casement d).phase = .loaded ∧ ((u.holdCtx d).casement d).held = true))) ∧
  (∀ (f : Fin 16) (s : State) (k : Cmd) (d : Nat), d < 4 → s.casRun f k 0x23 (maskOf [(63, 0)]) false [.loaded] d →
    let sva := k.f 63 0
    let c := s.casement d
    let h := pvals (s.imgRead d sva 4096)
    let w := s.hostAskRange d sva (imgLen c.nlt)
    let recs := w.imgTiles d sva c.nlt
    let fits := recs.any ppsn = false ∧ recs.all (fun b => (LTile.fromImage (pvals b) false false 0).liveFits) = true
    let good := ppsn (s.imgRead d sva 4096) = false ∧ leAt h 0 4 = c.nlt ∧ leAt h 4 4 ≠ 0 ∧ c.nlt % leAt h 4 4 = 0
    (s.hostRange d sva 4096 false = false → exec (.ctxRestore f) s = .next (s.finish f k 0x07 0)) ∧
    (s.hostRange d sva 4096 false = true → s.hostErr d sva 4096 1 = false → ¬ good →
      exec (.ctxRestore f) s = .next (s.finish f k 0x06 0)) ∧
    (s.hostRange d sva 4096 false = true → s.hostErr d sva 4096 1 = false → good → s.hostRange d sva (imgLen c.nlt) false = false →
      exec (.ctxRestore f) s = .next (s.finish f k 0x07 0)) ∧
    (s.hostRange d sva 4096 false = true → s.hostRange d sva (imgLen c.nlt) false = true → (∀ a n, w.hostErr d a n 1 = false) →
      s.hostErr d sva 4096 1 = false → good → fits →
      ∃ u : State, exec (.ctxRestore f) s = .next (u.finish f k 0x00 0) ∧ (u.casement d).held = true ∧
        (u.casement d).gx = leAt h 4 4 ∧ (u.casement d).gy = c.nlt / leAt h 4 4 ∧
        (u.reg (0x0070260 + 4 * d)).toNat = leAt h 12 4 % 2 ^ 32 ∧
        ∀ t, t < c.nlt → (u.lt d t).phase = (if bit (leAt h (512 + t / 8) 1) (t % 8) then .halted else .boundary)))

/-- R310 to R312, R411: MAP writes the entry of every page of its range, which no entry held before and whose host frames have been
supplied; UNMAP clears those that hold one, and a host frame goes back to the pool when no page refers to it any more; HOSTFR
supplies entries of the host frame table that no page uses, and the pool takes them. -/
def Obligations.PageCommands : Prop :=
  ∀ (f : Fin 16) (s : State) (k : Cmd) (d : Nat), d < 4 →
    let va := k.f 63 0
    let n := k.f 95 64
    let h := if k.f 96 96 = 1 then k.f 147 128 else 0
    let ws := s.walks d va n
    let poison := ∃ w, w ∈ ws ∧ ∃ a, w = .poison a
    let mapped := ∃ w, w ∈ ws ∧ ∃ x e, w = .leaf x e
    let host := k.f 99 96 % 2 = 1 → ∀ i, i < n → s.supplied d (h + i) = true
    (s.casRun f k 0x30 (maskOf [(63, 0), (95, 64), (99, 96), (147, 128)]) false notStopped d → vaOk va n = true →
      (poison → exec (.map f) s = .next (s.finish f k 0x07 0)) ∧
      (¬ poison → (mapped ∨ ¬ host) → exec (.map f) s = .next (s.finish f k 0x04 0)) ∧
      (¬ poison → ¬ mapped → host →
        (s.mapPages d va (k.f 99 96) h (List.range n) = none → exec (.map f) s = .next (s.finish f k 0x08 0)) ∧
        (∀ u, s.mapPages d va (k.f 99 96) h (List.range n) = some u →
          exec (.map f) s = .next ((u.setCas d ((u.casement d).mapped (va / 2 ^ 21) (k.f 99 96) h n)).finish f k 0x00 0)))) ∧
    (s.casRun f k 0x31 (maskOf [(63, 0), (95, 64)]) false notStopped d → vaOk va n = true →
      (poison → exec (.unmap f) s = .next (s.finish f k 0x07 0)) ∧
      (¬ poison → exec (.unmap f) s = .next (((List.range n).foldl (fun s i => s.unmapPage d (va + i * 2 ^ 21)) s).finish f k 0x00 0))) ∧
    (∀ x e, s.walk d va = .leaf x e → leHost e = true →
      (1 < (s.casement d).hrefs.count (leFrame e) → leFrame e ∉ (s.casement d).pool →
        leFrame e ∉ ((s.unmapPage d va).casement d).pool)) ∧
    (s.casRun f k 0x32 (maskOf [(63, 0), (83, 64), (127, 96)]) false notStopped d →
      let first := k.f 83 64
      let m := k.f 127 96
      1 ≤ m → first + m ≤ 2 ^ 20 →
      ((∃ i, first ≤ i ∧ i < first + m ∧ s.hostBusy d i = true) → exec (.hostfr f) s = .next (s.finish f k 0x04 0)) ∧
      ((∀ i, first ≤ i → i < first + m → s.hostBusy d i = false) → s.hostAnswer va (8 * m) ≠ 0 →
        exec (.hostfr f) s = .next (s.finish f k 0x07 0)) ∧
      ((∀ i, first ≤ i → i < first + m → s.hostBusy d i = false) → s.hostAnswer va (8 * m) = 0 →
        ∃ u : State, exec (.hostfr f) s = .next (u.finish f k 0x00 0) ∧ ∀ i, i < m →
          Assoc.get (u.casement d).hft (first + i) 0 = leNat (((s.hostRead va (8 * m)).drop (8 * i)).take 8) + 1 ∧
          first + i ∈ (u.casement d).pool))

/-- R307, R393, R395, R396, R420: a function's BAR4 reads and writes the stacks of the casement it shows, once the hub grants it the
request, and answers Unsupported Request beyond them or beyond its own size; configuration requests are answered with RRS until
configuration space is loaded. What a write leaves of a word of configuration space, and the words that PCIe gives, are free values. -/
def Obligations.HostWindows : Prop :=
  ∀ (f : Fin 16) (s : State),
    (∀ (off : Nat) (bytes : List Nat) (n d : Nat) (os : List Nat) (psn : Bool), s.reaches (.fn f) = true →
      let ur := ((s.emit (.unsupported f)).setFn f { s.fn f with aer := (s.fn f).aer ||| 2 ^ 20 })
      let bad := fun (g : Nat) => ur.post { kind := 7, ctag := g, unit := f, info := off }
      (s.bar4Up f = false → exec (.bar4Read f off n os) s = .next ur ∧ exec (.bar4Write f off bytes psn os) s = .next ur) ∧
      (s.bar4Up f = true → s.bar4Cas f = none →
        exec (.bar4Read f off n os) s = .next (bad 0) ∧ exec (.bar4Write f off bytes psn os) s = .next (bad 0)) ∧
      (s.bar4Up f = true → s.bar4Cas f = some d →
        let size := min (2 ^ (s.fn f).bar4) (paSize (s.mask d))
        let w := (s.hubGrant d os).2
        (size < off + n → exec (.bar4Read f off n os) s = .next (bad (s.tagOf d))) ∧
        (size < off + bytes.length → exec (.bar4Write f off bytes psn os) s = .next (bad (s.tagOf d))) ∧
        (off + n ≤ size → (s.hubGrant d os).1 = false → exec (.bar4Read f off n os) s = .next w) ∧
        (off + bytes.length ≤ size → (s.hubGrant d os).1 = false → exec (.bar4Write f off bytes psn os) s = .next w) ∧
        (off + n ≤ size → (s.hubGrant d os).1 = true →
          let u := w.paTouch d off n .bar4Read
          let bs := u.paRead d off n
          let v := u.emit (.bar4 f off (pvals bs) (ppsn bs))
          (ppsn bs = false → exec (.bar4Read f off n os) s = .next v) ∧
          (ppsn bs = true → exec (.bar4Read f off n os) s = .next (v.post { kind := 7, ctag := s.tagOf d, unit := f, info := off }))) ∧
        (off + bytes.length ≤ size → (s.hubGrant d os).1 = true →
          (psn = false → exec (.bar4Write f off bytes psn os) s = .next (w.paWrite d off (bytes.map (fun b => (b, false))) .bar4Write)) ∧
          (psn = true → exec (.bar4Write f off bytes psn os) s =
            .next ((w.aerSet f aerPoison).paWrite d off (bytes.map (fun b => (b, true))) .bar4Write))))) ∧
    (∀ r : CfgReq, s.boot.link = true → s.boot.cfg = false → exec (.configRequest f r) s = .next (s.emit (.cfg f true 0))) ∧
    (s.boot.link = true → s.boot.cfg = true →
      (∀ off, Assoc.get s.cfgs (f * 4096 + off % 4096) 0 = 0 →
        exec (.configRequest f (.read off)) s = .next (s.emit (.cfg f false (Config.cfgWord (f * 4096 + off % 4096))))) ∧
      (∀ off v, ∃ t, exec (.configRequest f (.write off v)) s = .next t ∧ t.out = s.out ++ [.cfg f false 0] ∧
        t.cfgAt f off = Config.cfgWrite (f * 4096 + off % 4096) (s.cfgAt f off) v) ∧
      exec (.configRequest f .aerRead) s = .next (s.emit (.cfg f false (s.fn f).aer)) ∧
      (∀ b, ∃ t, exec (.configRequest f (.aerClear b)) s = .next t ∧ ∀ i, bit (t.fn f).aer i = (bit (s.fn f).aer i && !bit b i)) ∧
      (∀ n, 30 ≤ n → n ≤ 41 → ∃ t, exec (.configRequest f (.bar4 n)) s = .next t ∧ t.bar4Size f = 2 ^ n) ∧
      (∀ b, exec (.configRequest f (.power b)) s = .next ((s.setFn f { s.fn f with d3 := b }).emit (.cfg f false 0))))

/-! ### Resets, bring-up, self-test -/

/-- R303, R424, R425, R431, R435, R462, R470, R473, R480: sources 1 and 2 put every register and memory of the package at its reset value
but for the levels of the input pins and for what HBM holds; the host's memory, the flash and the fuses stay, and a pending
life-cycle state comes into force. A reset by SYS_RST_L keeps the ROS fields, records its source and counts a restart of option
loading. The other wide resets record their source, with SEEN alone where the package is held, and leave no casement, whatever
the shutters meet. PERST_L holds the link; when it is deasserted the link trains and, once, DRS goes out. -/
def Obligations.WholeResets : Prop :=
  ∀ s : State,
    let r := { State.reset with
      pending := s.pending, hbm := s.hbm, host := s.host, hbad := s.hbad, flash := s.flash, fuses := s.fuses.turned
      free := s.free, out := s.out }
    let w := (r.setRf 0x1000014 4 0 (s.rf 0x1000014 4 0)).setRf 0x1000008 16 16 (s.rf 0x1000008 16 16)
    exec .powerOnReset s = .next w ∧
    (s.rf 0x1000014 0 0 = 0 → ∀ rail, exec (.railFault rail) s = .next w) ∧
    exec .vauxRemoval s = .next ((w.setRf 0x1000014 4 4 0).setRf 0x1000008 16 16 0) ∧
    (s.rf 0x1000014 0 0 = 0 → ∃ t, exec (.sysRst true) s = .next t ∧ t.rf 0x1000014 0 0 = 1 ∧ t.rf rCause 3 0 = 2 ∧
      t.rf rCause 8 8 = s.rf rCause 8 8 ∧ t.rf rCause 9 9 = 1 ∧ t.rf rCause 24 24 = 0 ∧
      t.rf rCause 23 16 = (if s.loaded || s.isSafe then s.rf rCause 23 16 else min 255 (s.rf rCause 23 16 + 1)) ∧
      t.rf 0x0030004 14 14 = s.rf 0x0030004 14 14 ∧ t.rseq = s.rseq ∧ t.cas = [] ∧ t.pane = Mem.empty ∧ t.hbm = s.hbm ∧
      t.flash = s.flash ∧ t.jrn = Jrn.reset) ∧
    (s.rf 0x1000014 0 0 = 1 → exec (.sysRst false) s = .next (s.setRf 0x1000014 0 0 0)) ∧
    (∀ x, exec (.hotReset x) s = .next (s.wideReset x 4) ∧ exec (.wdtExpiry x) s = .next (s.wideReset x 5)) ∧
    (∀ x, s.rf 0x1000014 1 1 = 0 → ∃ t, exec (.perst x) s = .next t ∧ t.rf 0x1000014 1 1 = 1 ∧ t.boot.link = false ∧
      ∀ k, k ≠ 0x1000014 → t.reg k = (s.wideReset x 3).reg k) ∧
    (s.rf 0x1000014 1 1 = 1 → ∃ t, exec .perstDeassert s = .next t ∧ t.rf 0x1000014 1 1 = 0 ∧ t.boot.link = s.boot.cfg ∧
      t.out = if s.boot.cfg && !s.boot.drs then s.out ++ [.drs] else s.out) ∧
    (∀ x k, 3 ≤ k → k ≤ 6 → (s.held = true → s.wideReset x k = s.setRf rCause (7 + k) (7 + k) 1) ∧
      (s.held = false → (s.wideReset x k).fuses = s.fuses ∧ (∀ d, d < 4 → ((s.wideReset x k).casement d).exist = false)))

/-- R423, R427, R428, R431: the shutter of a block whose reset bit is set stops what runs on it and records it, and the block takes no
work; when it has drained, or after the wait, with FORCED, its count and an event, the block is reset and released, its fence and
its reset bit cleared: a tile is a spare, unless it is mapped out or failing, and the intake engine holds no block that has not
started. FLR of a virtual function resets its casement, empties its queue and clears its windows; in a held package it is only
seen. -/
def Obligations.BlockResets : Prop :=
  (∀ (cls idx r b : Nat) (s : State), rstBit cls idx = some (r, b) →
    (s.rf r b b = 1 → NSet.mem s.shut (blkNo cls idx) = false →
      let u := (s.shutOff cls idx).shtStat cls idx
      exec (.shutter cls idx) s = .next { u with shut := NSet.insert u.shut (blkNo cls idx) } ∧
      ({ u with shut := NSet.insert u.shut (blkNo cls idx) } : State).blkDown cls idx = true) ∧
    (NSet.mem s.shut (blkNo cls idx) = true → ∀ x,
      (cls ≠ 3 → exec (.shutterDrained cls idx x) s = .next (s.release x cls idx)) ∧
      (cls = 3 → exec (.shutterDrained cls idx x) s = .next ((s.sliceBack idx (s.dirtyOf idx).length).release x cls idx)) ∧
      (∀ done, let u := if cls = 3 then s.sliceBack idx done else s
        let v := ((u.setRf 0x0010014 14 14 1).count 0x0010018 15 0 1).post { kind := 9, unit := idx, info := cls }
        exec (.shutterTimeout cls idx done x) s = .next (v.release x cls idx))) ∧
    (NSet.mem s.shut (blkNo cls idx) = false → ∀ x done,
      exec (.shutterDrained cls idx x) s = .next s ∧ exec (.shutterTimeout cls idx done x) s = .next s) ∧
    (∀ x, (s.release x cls idx).blkDown cls idx = false ∧ (s.release x cls idx).rf r b b = 0 ∧
      (cls = 0 → (s.release x cls idx).tilState idx =
        if s.tilState idx = 3 then 3 else if (s.tile idx).failing then 2 else 1) ∧
      (cls = 5 → ∀ f, f < 16 → ((s.release x cls idx).fn f).q = if (s.fn f).busy then (s.fn f).q.take 1 else []))) ∧
  (∀ (f : Fin 16) (s : State) (x : ShutIn), f.val ≠ 0 →
    (s.held = false → ∃ t, exec (.flr f x) s = .next t ∧ (t.fn f).q = [] ∧ (t.fn f).recs = [] ∧
      t.itkRead f = 0 ∧ t.itkNext f = 0 ∧ t.ringEn f false = false ∧ t.ringEn f true = false) ∧
    (s.held = true → exec (.flr f x) s = .next (s.setRf rCause 14 14 1)))

/-- R395, R434, R436, R437, R440, R447, R448, R450: BRINGUP runs the steps that remain, each shown in LCB_BOOT_STAT: it loads the options
unless they are loaded, and stops in the safe state with cause 6 when they fail, with cause 10 when a regulator does not answer,
and with the cause of a hub unit that fails its test; the PCIe core's failure stops it before the link is enabled. It runs the boot
ROM, enables the link unless PERST_L is asserted, builds what is not built; then READY_L is asserted, FAULT_L is not, the step is 9
and every function's intake shows ready. That the hub is tested before the boot ROM runs is the model's reading (log 54). -/
def Obligations.BringsUp : Prop :=
  (∀ (b : BringIn) (s : State), s.sysHeld = false → s.isSafe = false → s.rf 0x0020808 3 0 ≠ 9 →
    let s0 := b.flash.foldl (fun s x => s.flashBoard x.1 x.2) s
    let s1 := if s0.loaded then s0 else (s0.setRf 0x0020808 3 0 2).optionLoad b
    let h := s1.hubFails b
    let s3 := (s1.setRf 0x0020808 3 0 3).bootRom
    let s4 := (s3.setRf 0x0020808 3 0 4).linkUp
    let s5 := s4.buildUp b
    let on := s1.isSafe = false ∧ b.regDead = []
    (s0.loaded = false → b.optOk = false → exec (.bringup b) s = .next ((s0.setRf 0x0020808 3 0 2).safeUp 6)) ∧
    (s1.isSafe = false → b.regDead ≠ [] → exec (.bringup b) s = .next (s1.safeUp 10)) ∧
    (on → h ≠ 0 → h ≠ 2 → exec (.bringup b) s = .next ((s1.setRf 0x0020808 3 0 3).safeUp h)) ∧
    (on → (h = 0 ∨ h = 2) → s3.isSafe = true → exec (.bringup b) s = .next s3) ∧
    (on → h = 2 → s3.isSafe = false → exec (.bringup b) s = .next ((s3.setRf 0x0020808 3 0 4).safeUp 2)) ∧
    (on → h = 0 → s3.isSafe = false → s4.boot.built = true → exec (.bringup b) s = .next s4.readyUp) ∧
    (on → h = 0 → s3.isSafe = false → s4.boot.built = false → s5.isSafe = true → exec (.bringup b) s = .next s5) ∧
    (on → h = 0 → s3.isSafe = false → s4.boot.built = false → s5.isSafe = false → exec (.bringup b) s = .next s5.readyUp)) ∧
  (∀ (b : BringIn) (u : State), b.optOk = true → (u.optionLoad b).loaded = true ∧ (u.optionLoad b).pkgId = b.straps % 65536 ∧
    (u.optionLoad b).rf 0x0200000 16 16 = 1 ∧ ∀ d, d < 4 → (u.optionLoad b).rf (0x1000100 + 4 * d) 21 12 = 750) ∧
  (∀ u : State, u.linkUp.boot.cfg = true ∧ u.linkUp.boot.link = (u.rf 0x1000014 1 1 == 0)) ∧
  (∀ u : State, u.readyUp.isReady = true ∧ u.readyUp.rf 0x0020808 3 0 = 9 ∧ u.readyUp.rf 0x1000014 6 6 = 0 ∧
    ∀ f, f < 16 → u.readyUp.rf (rItk f 0) 0 0 = 1) ∧
  (∀ (c : Nat) (u : State), (u.safeUp c).isSafe = true ∧ (u.safeUp c).reg 0x0020810 = BitVec.ofNat 32 c ∧
    (u.safeUp c).isReady = false ∧ (u.safeUp c).rf 0x1000014 6 6 = 1 ∧ (u.safeUp c).rf 0x0020808 3 0 = u.rf 0x0020808 3 0 ∧
    (∀ p, p < 8 → (u.safeUp c).portState p = 0) ∧ ∀ d, ((u.safeUp c).casement d).exist = false)

/-- R442, R444, R445, R446: at a boundary of the seal test the tests that have ended make room, and the scheduler admits the next while the
measured power allows it, or SUPPLY_RSV_L ends the test without a record; the sum of the declared powers stays under the cap, and
ports, the PCIe core, Dispatchers and the Package Controller wait until every tile has been tested. When every test has ended the
record goes to the slot that does not hold the best one. -/
def Obligations.SealTests : Prop :=
  (∀ (done : List Nat) (s : State), s.sealState = 1 →
    let x := s.sealing
    let y := { x with running := x.running.filter (fun r => !done.contains r.1) }
    let u := s.count 0x0020804 23 16 (x.running.filter (fun r => decide (1000 ≤ r.1) && done.contains r.1)).length
    (x.rsv = true → exec (.testAdmit done) s = .next (u.sealStop 5 3)) ∧
    (x.rsv = false → s.pwr.watts ≤ s.bistCap → exec (.testAdmit done) s = .next { u with sealing := y.admitTests s.bistCap }) ∧
    (x.rsv = false → s.bistCap < s.pwr.watts → exec (.testAdmit done) s = .next { u with sealing := y })) ∧
  (∀ (r : SealIn) (s : State), s.sealState = 1 → s.sealing.todo = [] → s.sealing.tiles = 0 → s.sealing.running = [] →
    let u := s.setReg 0x0020814 (BitVec.ofNat 32 r.durMs)
    (s.sealing.rsv = true → exec (.sealTestComplete r) s = .next (u.sealStop 5 3)) ∧
    (s.sealing.rsv = false → r.flashOk = false → exec (.sealTestComplete r) s = .next (u.sealStop 4 5)) ∧
    (s.sealing.rsv = false → r.flashOk = true →
      let j := match s.bestSlot with | some i => 1 - i | none => 0
      let no := match s.bestSlot with | some i => slotNo (s.flashRead (slotBase i) 16) + 1 | none => 1
      exec (.sealTestComplete r) s =
        .next (((u.flashErase (slotBase j) 65536).flashWrite (slotBase j) (s.sealRecord r no)).sealStop 2 0))) ∧
  (∀ (st reason : Nat) (s : State), st < 8 → reason < 16 → (s.sealStop st reason).sealState = st ∧
    (s.sealStop st reason).rf 0x0020804 11 8 = reason) ∧
  (∀ (cap : Nat) (x : SealSt), (x.power ≤ cap → (x.admitTests cap).power ≤ cap) ∧
    ∀ r, r ∈ (x.admitTests cap).running → r ∉ x.running → 200 ≤ r.1 → r.1 < 1000 → x.tiles = 0 ∧ ∀ q, q ∈ x.running → q.1 < 1000)

/-! ### Pins, power, temperature, management -/

/-- R458, R468, R470, R472, R479, R480: the pins: a level of SUPPLY_RSV_L or PWR_LIM_L shows in MGT_PIN_STAT; SUPPLY_RSV_L ends a seal test
at its next boundary and after 10 s sets RSVSTK, which a second of the other level clears; PWR_LIM_L asserted for 10 s raises an event;
a trip sets TRIPPED and drives THERMTRIP_L. A temperature is stored; a sensor above TWARN raises one event until every sensor is 3 °C
below; a die above TTHROT, or with a stack above 95 °C, is throttled, and released after 10 ms at 3 °C below its limits. -/
def Obligations.PinsAndTemperatures : Prop :=
  (∀ s : State,
    (∀ b, let u := s.setRf 0x1000014 2 2 (b2n b)
      ((b = false ∨ s.sealState ≠ 1) → exec (.supplyRsv b) s = .next u) ∧
      (b = true → s.sealState = 1 → exec (.supplyRsv b) s = .next { u with sealing := { u.sealing with rsv := true } })) ∧
    (s.rsvLow = true → s.rf 0x0030004 14 14 = 0 →
      exec .rsvStuckTimeout s = .next ((s.setRf 0x0030004 14 14 1).post { kind := 9 })) ∧
    (s.rsvLow = false → exec .rsvstkClearTimeout s = .next (s.setRf 0x0030004 14 14 0)) ∧
    (∀ b, exec (.pwrLim b) s = .next ((s.setRf 0x1000014 3 3 (b2n b)).setRf 0x1000004 15 15 (b2n b))) ∧
    (s.powered = true → s.rf 0x1000014 3 3 = 1 → exec .pwrLimStuckTimeout s = .next (s.post { kind := 8 })) ∧
    (s.rf 0x1000008 16 16 = 0 →
      let u := (s.setRf 0x1000008 16 16 1).setRf 0x1000014 4 4 1
      (s.powered = true → exec .thermtrip s = .next (u.post { kind := 8 })) ∧
      (s.powered = false → exec .thermtrip s = .next u))) ∧
  (∀ (d : Fin 4) (s : State), s.powered = true →
    (∀ (tj : Nat) (st : Fin 6) (temp : Nat),
      let u := (s.setRf (rDie d) 29 22 tj).setRf (rMem (6 * d + st) 0) 23 16 temp
      exec (.temperatureChange d tj st temp) s = .next ((u.warnCheck d).hotCheck d)) ∧
    (s.pwr.warn = true → s.rf rTherm 15 8 < s.tj d →
      s.warnCheck d = { s with pwr := { s.pwr with warn := false } }.post { kind := 8, unit := d, info := s.tj d }) ∧
    (s.pwr.warn = false → (∀ x, x < 4 → s.tj x + 3 ≤ s.rf rTherm 15 8) →
      s.warnCheck d = { s with pwr := { s.pwr with warn := true } }) ∧
    (s.tooHot d = true → bit s.pwr.hot d = false → s.hotCheck d =
      ({ s with pwr := { s.pwr with hot := s.pwr.hot + 2 ^ d.val } }.setRf 0x1000004 14 14 1).post { kind := 8, unit := d, info := s.tj d }) ∧
    (bit s.pwr.hot d = true → s.tj d + 3 ≤ s.rf rTherm 7 0 → (∀ i, i < 6 → s.stackTemp (6 * d + i) + 3 ≤ 95) →
      ∃ t, exec (.thermalRelease d) s = .next t ∧ bit t.pwr.hot d = false ∧ t.rf 0x1000004 14 14 = b2n (decide (0 < t.pwr.hot))))

/-- R474 to R478: a measurement takes the power in force; one over it starts a burst of ten steps on every die above VMIN, or halves F when none is; one
below 95 % reverses one action; a rail moves one step of 5 mV at a time, into its range first; the regulator's answers show in
MGT_DIEd, and a regulator that does not answer takes its die out of service, or stops bring-up. -/
def Obligations.PowerControl : Prop :=
  ∀ s : State,
    (∀ w avg, s.powered = true →
      let u := { s.dropTick with pwr := { s.pwr with watts := w, force := s.powerInForce } }.setRf 0x1000004 11 0 avg
      let ds := (List.range 4).filter (fun d => !s.atVmin d && !bit s.pwr.held d)
      (s.powerInForce < w → ds ≠ [] → exec (.powerMeasurement w avg) s = .next ((u.burst ds).capped)) ∧
      (s.powerInForce < w → ds = [] → exec (.powerMeasurement w avg) s = .next u.throttle) ∧
      (w ≤ s.powerInForce →
        let hots := (List.range 4).filter (fun d => bit s.pwr.hot d)
        let y := u.burst hots
        ((∃ d, d ∈ hots ∧ s.atVmin d = true) → exec (.powerMeasurement w avg) s = .next y.throttle) ∧
        ((∀ d, d ∈ hots → s.atVmin d = false) →
          (w * 100 < s.powerInForce * 95 → exec (.powerMeasurement w avg) s = .next y.reverseStep) ∧
          (s.powerInForce * 95 ≤ w * 100 → exec (.powerMeasurement w avg) s = .next y)))) ∧
    (∀ d : Fin 4, s.railFree d = true →
      let v := s.vcmd d
      let x := s.pwr
      (v < s.vmin → exec (.voltageStep d) s = .next (s.setRail d (v + 5))) ∧
      (s.vmin ≤ v → s.vmax < v → exec (.voltageStep d) s = .next (s.setRail d (v - 5))) ∧
      (s.vmin ≤ v → v ≤ s.vmax → v < s.vmin + 5 → 0 < x.down.getD d 0 → exec (.voltageStep d) s =
        .next { s with pwr := { x with down := setNth x.down d 0 } }) ∧
      (s.vmin ≤ v → v ≤ s.vmax → x.down.getD d 0 = 0 → (x.up.getD d 0 = 0 ∨ s.vmax < v + 5) → exec (.voltageStep d) s = .next s) ∧
      (s.vmin + 5 ≤ v → v ≤ s.vmax → 0 < x.down.getD d 0 → exec (.voltageStep d) s =
        .next ({ s with pwr := { x with down := drop1 x.down d, low := bump x.low d } }.setRail d (v - 5))) ∧
      (s.vmin ≤ v → v + 5 ≤ s.vmax → x.down.getD d 0 = 0 → 0 < x.up.getD d 0 → exec (.voltageStep d) s =
        .next (({ s with pwr := { x with up := drop1 x.up d, low := drop1 x.low d } }.setRail d (v + 5)).showCapped))) ∧
    (∀ (d : Fin 4) (mv pace : Nat), s.powered = true →
      exec (.regulatorPoll d mv pace) s = .next ((s.setRf (rDie d) 21 12 mv).setRf (rDie d) 11 0 pace)) ∧
    (∀ d : Fin 4, s.sysHeld = false → s.isSafe = false →
      (s.rf 0x0020808 3 0 ≠ 9 → exec (.regulatorTimeout d) s = .next (s.safeUp 10)) ∧
      (s.rf 0x0020808 3 0 = 9 → bit s.pwr.held d = false →
        let u := { s with pwr := { s.pwr with
          held := s.pwr.held + 2 ^ d.val, down := setNth s.pwr.down d 0, up := setNth s.pwr.up d 0 } }
        exec (.regulatorTimeout d) s = .next ((u.post { kind := 5, unit := d, ctag := s.dieTag d }).dieLost d)))

/-- R481, R483, R484: I3C addresses and MCTP control requests are taken and answered; a request is answered BUSY when the queue is full or
the Package Controller is held, BADREQ when its format is wrong, and is queued otherwise. -/
def Obligations.RequestsArrive : Prop :=
  (∀ (a : Nat) (s : State), s.sysHeld = false → exec (.i3cEntdaa a) s = .next { s with mgt := { s.mgt with addr := a % 128 } }) ∧
  (∀ (pcie : Bool) (s : State), s.mgtUp pcie = true →
    (∀ e, ∃ t, exec (.mctpControl pcie (.setEid e)) s = .next t ∧ t.eid pcie = e % 256 ∧ t.eid (!pcie) = s.eid (!pcie) ∧
      t.out = s.out ++ [.mctp pcie [0, e % 256]]) ∧
    exec (.mctpControl pcie .getEid) s = .next (s.emit (.mctp pcie [0, s.eid pcie])) ∧
    (∀ c, c = McCtl.version ∨ c = McCtl.types ∨ c = McCtl.vendor →
      ∃ body, exec (.mctpControl pcie c) s = .next (s.emit (.mctp pcie (0 :: body))))) ∧
  (∀ (pcie : Bool) (r : MReq) (s : State), s.mgtUp pcie = true →
    ((s.pkcHeld = true ∨ 8 ≤ s.mgt.queue.length) → exec (.mgtRequestArrival pcie r) s = .next (s.answer pcie r 2 [])) ∧
    (s.pkcHeld = false → s.mgt.queue.length < 8 → mGood r.body = false →
      exec (.mgtRequestArrival pcie r) s = .next (s.answer pcie r 4 [])) ∧
    (s.pkcHeld = false → s.mgt.queue.length < 8 → mGood r.body = true →
      exec (.mgtRequestArrival pcie r) s = .next (s.withQueue (s.mgt.queue ++ [(pcie, r)]))))

/-- R482, R484 to R486: the request at the front executes: what each one answers and does; in the safe state all but IDENTIFY, STATUS and
POLL are denied. -/
def Obligations.RequestsExecute : Prop :=
  (∀ (pcie : Bool) (r : MReq) (rest : List (Bool × MReq)) (s : State), s.mgtRun pcie r rest →
    let u := s.withQueue rest
    (r.body = .identify → exec .mgtIdentify s =
      .next (u.answer pcie r 0 (u.regBytes [0x0, 0x10, 0x14, 0x18, 0x1C, 0x0030020, 0x0020000]))) ∧
    (r.body = .status → exec .mgtStatus s = .next (u.answer pcie r 0 (u.regBytes [0x0020808, 0x0020810, 0x1000014]))) ∧
    (r.body = .telemetry → exec .mgtTelemetry s = .next (u.answer pcie r 0 u.telemetry)) ∧
    (∀ off n, r.body = .regRead off n → exec .mgtRegRead s =
      .next ((u.regReads off n).1.answer pcie r 0 (u.regReads off n).2)) ∧
    (∀ off vs, r.body = .regWrite off vs → (u.regWrites off vs).pkcHeld = false → exec .mgtRegWrite s =
      .next ((u.regWrites off vs).answer pcie r 0 [])) ∧
    (∀ off vs, r.body = .regWrite off vs → (u.regWrites off vs).pkcHeld = true → exec .mgtRegWrite s = .next (u.regWrites off vs)) ∧
    (∀ x, r.body = .reset → exec (.mgtReset x) s = .next ((u.answer pcie r 0 []).wideReset x 6)) ∧
    (∀ op addr len arm epoch cut x, r.body = .fwu op addr len arm epoch →
      let v := ((u.answer pcie r 1 []).fwuValues addr len arm epoch).fwuCmd .mgt op ⟨cut, x⟩ 0
      (v.pkcHeld = false → exec (.mgtFwu cut x) s = .next (v.keepRes pcie r.inst (v.regBytes [0x0030004]))) ∧
      (v.pkcHeld = true → exec (.mgtFwu cut x) s = .next v)) ∧
    (r.body = .sealTest → exec .mgtSeal s = .next (u.sealRequest.answer pcie r 0 (u.sealRequest.regBytes [0x0020804]))) ∧
    (∀ target tok, r.body = .lifecycle target tok →
      let k := if tok = [] then s.hostToken else tok
      let v := u.lcRequest .mgt target k 0
      ((s.anyCas = false ∧ s.lcAllowed .mgt target k = true) → exec .mgtLifecycle s = .next (v.answer pcie r 0 [])) ∧
      ((s.anyCas = true ∨ s.lcAllowed .mgt target k = false) → exec .mgtLifecycle s = .next (v.answer pcie r 3 []))) ∧
    (∀ nonce, r.body = .attest nonce →
      (s.fwuBusy = true → exec .mgtAttest s = .next (u.answer pcie r 2 [])) ∧
      (s.fwuBusy = false → nonce.length = 64 → (∀ b, b ∈ nonce → b < 256) →
        ∃ t, exec .mgtAttest s = .next t ∧ t.rseq = s.rseq + 1 ∧ t.fwuNonce = nonce ∧
        ∃ x, x ∈ t.mgt.results ∧ x.pcie = pcie ∧ x.inst = r.inst ∧ x.got = 0 ∧
          x.bytes = u.report nonce)) ∧
    (∀ inst off, r.body = .poll inst off →
      (s.mgt.results.find? (fun x => x.pcie == pcie && x.inst == inst) = none → exec .mgtPoll s = .next (u.answer pcie r 4 [])) ∧
      (∀ x, s.mgt.results.find? (fun x => x.pcie == pcie && x.inst == inst) = some x →
        ∃ t, exec .mgtPoll s = .next t ∧ t.out = s.out ++ [.mgt pcie 0x0B r.inst 0 ((x.bytes.drop off).take 1024)] ∧
          t.mgt.queue = rest))) ∧
  (∀ (pcie : Bool) (r : MReq) (rest : List (Bool × MReq)) (s : State) (x : ShutIn), s.mgt.queue = (pcie, r) :: rest → s.pkcHeld = false →
    s.isSafe = true →
    let no := Host.Outcome.next ((s.withQueue rest).answer pcie r 3 [])
    (r.body = .telemetry → exec .mgtTelemetry s = no) ∧ (∀ off n, r.body = .regRead off n → exec .mgtRegRead s = no) ∧
    (∀ off vs, r.body = .regWrite off vs → exec .mgtRegWrite s = no) ∧ (r.body = .reset → exec (.mgtReset x) s = no) ∧
    (∀ op addr len arm epoch cut, r.body = .fwu op addr len arm epoch → exec (.mgtFwu cut x) s = no) ∧
    (r.body = .sealTest → exec .mgtSeal s = no) ∧ (∀ target tok, r.body = .lifecycle target tok → exec .mgtLifecycle s = no) ∧
    (∀ nonce, r.body = .attest nonce → exec .mgtAttest s = no))

/-! ### Steps, reset, the canonical form -/

/-- A step takes the command at the front of the queue and is exec of it on the state with the queue's rest; an empty queue idles, which is
the model's choice (log 1). -/
def Obligations.StepRunsFront : Prop :=
  (∀ (c : Instr) (r : List Instr) (s : State), s.pending = c :: r → step s = exec c { s with pending := r }) ∧
  (∀ s : State, s.pending = [] → step s = .next s)

/-- R13, R424, R469, R400, R418, R374: what reset leaves: the registers of the package at the values of their tables, among them the part
number, the cause of the reset and the boot step; rings off, windows and queues empty, no casement, no memory listed. -/
def Obligations.ResetState : Prop :=
  State.reset.reg 0x0000000 = 0x00100576#32 ∧ State.reset.rf 0x0010000 3 0 = 1 ∧ State.reset.rf 0x0010000 15 8 = 1 ∧
  State.reset.rf 0x0010020 15 0 = 0x1F4 ∧ State.reset.rf 0x0020808 3 0 = 1 ∧ State.reset.isSafe = false ∧ State.reset.held = true ∧
  (∀ d, d < 4 → (State.reset.casement d).exist = false ∧ State.reset.fabState d = 0) ∧
  (∀ p, p < 8 → State.reset.portState p = 0) ∧
  (∀ f, f < 16 → State.reset.itkRead f = 0 ∧ State.reset.itkNext f = 0 ∧ State.reset.ringEn f false = false ∧
    State.reset.ringEn f true = false ∧ (State.reset.fn f).q = []) ∧
  (∀ p, p < 640 → State.reset.rf (rTil p 0) 9 0 = p) ∧
  State.reset.tidy = true

/-- Every step keeps every memory of the package in its canonical form: two memories that hold the same bytes are the same data. -/
def Obligations.CanonicalKept : Prop :=
  ∀ s t : State, s.tidy = true → step s = .next t → t.tidy = true
end

