-- ==== Sys2Proof/Laws/Assoc.lean ====
section
/-! SUPPORT. What the sparse maps and the sets of numbers do: a value stored is the value read, other keys stay, and the canonical form
is kept. -/

namespace Sys2Proof.Machine

variable {α : Type}

/-! ### Reading after writing -/

theorem Assoc.get_drop_self (l : List (Nat × α)) (k : Nat) (d : α) : Assoc.get (Assoc.drop l k) k d = d := by
  induction l with
  | nil => rfl
  | cons x r ih =>
    obtain ⟨k', v⟩ := x
    by_cases h : k' = k <;> simp [Assoc.drop, Assoc.get, h, ih]

theorem Assoc.get_drop_ne (l : List (Nat × α)) {k j : Nat} (d : α) (h : j ≠ k) :
    Assoc.get (Assoc.drop l k) j d = Assoc.get l j d := by
  induction l with
  | nil => rfl
  | cons x r ih =>
    obtain ⟨k', v⟩ := x
    by_cases h1 : k' = k
    · have : ¬ k' = j := by omega
      simp [Assoc.drop, Assoc.get, h1, ih]; omega
    · simp [Assoc.drop, Assoc.get, h1, ih]

theorem Assoc.get_ins_self (l : List (Nat × α)) (k : Nat) (v d : α) :
    Assoc.get (Assoc.ins (Assoc.drop l k) k v) k d = v := by
  induction l with
  | nil => simp [Assoc.drop, Assoc.ins, Assoc.get]
  | cons x r ih =>
    obtain ⟨k', v'⟩ := x
    by_cases h1 : k' = k
    · simpa [Assoc.drop, h1] using ih
    · by_cases h2 : k < k' <;> simp [Assoc.drop, Assoc.ins, Assoc.get, h1, h2, ih]

theorem Assoc.get_ins_ne (l : List (Nat × α)) {k j : Nat} (v d : α) (h : j ≠ k) :
    Assoc.get (Assoc.ins l k v) j d = Assoc.get l j d := by
  induction l with
  | nil => simp [Assoc.ins, Assoc.get, Ne.symm h]
  | cons x r ih =>
    obtain ⟨k', v'⟩ := x
    by_cases h2 : k < k'
    · simp [Assoc.ins, Assoc.get, h2, Ne.symm h]
    · simp [Assoc.ins, Assoc.get, h2, ih]

/-- A value stored at a key is what the key reads as. -/
@[simp] theorem Assoc.get_put_self [DecidableEq α] (l : List (Nat × α)) (k : Nat) (v d : α) :
    Assoc.get (Assoc.put l k v d) k d = v := by
  by_cases h : v = d
  · simp [Assoc.put, h, Assoc.get_drop_self]
  · simp [Assoc.put, h, Assoc.get_ins_self]

/-- Every other key reads as before. -/
theorem Assoc.get_put_ne [DecidableEq α] (l : List (Nat × α)) {k j : Nat} (v d e : α) (h : j ≠ k) :
    Assoc.get (Assoc.put l k v d) j e = Assoc.get l j e := by
  by_cases h1 : v = d
  · simp [Assoc.put, h1, Assoc.get_drop_ne l e h]
  · simp [Assoc.put, h1, Assoc.get_ins_ne _ v e h, Assoc.get_drop_ne l e h]

theorem Assoc.get_put [DecidableEq α] (l : List (Nat × α)) (k j : Nat) (v d : α) :
    Assoc.get (Assoc.put l k v d) j d = if j = k then v else Assoc.get l j d := by
  by_cases h : j = k
  · subst h; simp
  · simp [h, Assoc.get_put_ne l v d d h]

theorem Assoc.get_below (l : List (Nat × α)) (k j : Nat) (d : α) :
    Assoc.get (Assoc.below l k) j d = if j < k then Assoc.get l j d else d := by
  induction l with
  | nil => simp [Assoc.below, Assoc.get]
  | cons x r ih =>
    obtain ⟨k', v⟩ := x
    by_cases h1 : k' < k
    · by_cases h2 : k' = j
      · subst h2; simp [Assoc.below, Assoc.get, h1]
      · simp [Assoc.below, Assoc.get, h1, h2, ih]
    · by_cases h3 : j < k
      · have h2 : ¬ k' = j := by omega
        simp [Assoc.below, Assoc.get, h1, h2, h3, ih]
      · simp [Assoc.below, h1, h3, ih]

theorem Assoc.get_atLeast (l : List (Nat × α)) (k j : Nat) (d : α) :
    Assoc.get (Assoc.atLeast l k) j d = if j < k then d else Assoc.get l j d := by
  induction l with
  | nil => simp [Assoc.atLeast, Assoc.get]
  | cons x r ih =>
    obtain ⟨k', v⟩ := x
    by_cases h1 : k' < k
    · by_cases h3 : j < k
      · simp [Assoc.atLeast, h1, h3, ih]
      · have h2 : ¬ k' = j := by omega
        simp [Assoc.atLeast, Assoc.get, h1, h2, h3, ih]
    · by_cases h3 : j < k
      · have h2 : ¬ k' = j := by omega
        simp [Assoc.atLeast, Assoc.get, h1, h2, h3, ih]
      · by_cases h2 : k' = j
        · subst h2; simp [Assoc.atLeast, Assoc.get, h1]
        · simp [Assoc.atLeast, Assoc.get, h1, h2, h3, ih]

theorem Assoc.get_append (a b : List (Nat × α)) (j : Nat) (d : α) (h : ∀ x, x ∈ a → x.1 ≠ j) :
    Assoc.get (a ++ b) j d = Assoc.get b j d := by
  induction a with
  | nil => rfl
  | cons x r ih =>
    obtain ⟨k, v⟩ := x
    have hk : k ≠ j := h (k, v) (by simp)
    simp only [List.cons_append, Assoc.get, if_neg hk]
    exact ih (fun x hx => h x (by simp [hx]))

theorem Assoc.get_append_left (a b : List (Nat × α)) (j : Nat) (d : α) (h : ∀ x, x ∈ b → x.1 ≠ j) :
    Assoc.get (a ++ b) j d = Assoc.get a j d := by
  induction a with
  | nil =>
    have := Assoc.get_append b [] j d h
    simpa [Assoc.get] using this
  | cons x r ih =>
    obtain ⟨k, v⟩ := x
    by_cases hk : k = j <;> simp [Assoc.get, hk, ih]

theorem Assoc.mem_below (l : List (Nat × α)) (k : Nat) : ∀ x, x ∈ Assoc.below l k → x.1 < k := by
  induction l with
  | nil => simp [Assoc.below]
  | cons y r ih =>
    obtain ⟨k', v⟩ := y
    intro x hx
    by_cases h : k' < k
    · simp only [Assoc.below, h, if_true, List.mem_cons] at hx
      rcases hx with rfl | hx
      · exact h
      · exact ih x hx
    · simp only [Assoc.below, h, if_false] at hx
      exact ih x hx

theorem Assoc.mem_atLeast (l : List (Nat × α)) (k : Nat) : ∀ x, x ∈ Assoc.atLeast l k → k ≤ x.1 := by
  induction l with
  | nil => simp [Assoc.atLeast]
  | cons y r ih =>
    obtain ⟨k', v⟩ := y
    intro x hx
    by_cases h : k' < k
    · simp only [Assoc.atLeast, h, if_true] at hx
      exact ih x hx
    · simp only [Assoc.atLeast, h, if_false, List.mem_cons] at hx
      rcases hx with rfl | hx
      · simp; omega
      · exact ih x hx

/-- Clearing a range of keys: inside it every key reads as the default, outside it as before. -/
theorem Assoc.get_clear (l : List (Nat × α)) (k n j : Nat) (d : α) :
    Assoc.get (Assoc.clear l k n) j d = if k ≤ j ∧ j < k + n then d else Assoc.get l j d := by
  unfold Assoc.clear
  by_cases h : j < k
  · rw [Assoc.get_append_left _ _ _ _ (fun x hx => by have := Assoc.mem_atLeast _ _ x hx; omega), Assoc.get_below]
    have : ¬ k ≤ j := by omega
    simp [h, this]
  · rw [Assoc.get_append _ _ _ _ (fun x hx => by have := Assoc.mem_below _ _ x hx; omega), Assoc.get_atLeast]
    have h1 : k ≤ j := by omega
    by_cases h2 : j < k + n <;> simp [h1, h2]

/-- Values in a row before a list whose keys are all above them. -/
theorem Assoc.get_run [DecidableEq α] (vs : List α) (d : α) (l : List (Nat × α)) (k j : Nat)
    (h : ∀ i, k ≤ i → i < k + vs.length → Assoc.get l i d = d) :
    Assoc.get (Assoc.run k vs d l) j d = if k ≤ j ∧ j < k + vs.length then vs.getD (j - k) d else Assoc.get l j d := by
  induction vs generalizing k with
  | nil =>
    have : ¬ (k ≤ j ∧ j < k + ([] : List α).length) := by simp only [List.length_nil]; omega
    rw [if_neg this, Assoc.run]
  | cons v r ih =>
    have ih := ih (k + 1) (fun i h1 h2 => h i (by omega) (by simp only [List.length_cons]; omega))
    by_cases hj : k = j
    · subst hj
      by_cases hv : v = d
      · have h1 : ¬ (k + 1 ≤ k ∧ k < k + 1 + r.length) := by omega
        rw [if_neg h1] at ih
        simp [Assoc.run, hv, ih, h k (Nat.le_refl k) (by simp)]
      · simp [Assoc.run, Assoc.get, hv]
    · have hr : Assoc.get (Assoc.run k (v :: r) d l) j d = Assoc.get (Assoc.run (k + 1) r d l) j d := by
        by_cases hv : v = d <;> simp [Assoc.run, Assoc.get, hv, hj]
      rw [hr, ih]
      by_cases h1 : k + 1 ≤ j ∧ j < k + 1 + r.length
      · have h2 : k ≤ j ∧ j < k + (v :: r).length := by simp only [List.length_cons]; omega
        have h3 : j - k = (j - (k + 1)) + 1 := by omega
        rw [if_pos h1, if_pos h2, h3]; rfl
      · have h2 : ¬ (k ≤ j ∧ j < k + (v :: r).length) := by simp only [List.length_cons]; omega
        rw [if_neg h1, if_neg h2]

/-- A row of values stored: each key of the row reads as its value, every other key as before. -/
theorem Assoc.get_splice [DecidableEq α] (l : List (Nat × α)) (k : Nat) (vs : List α) (j : Nat) (d : α) :
    Assoc.get (Assoc.splice l k vs d) j d = if k ≤ j ∧ j < k + vs.length then vs.getD (j - k) d else Assoc.get l j d := by
  have hr : ∀ i, Assoc.get (Assoc.run k vs d (Assoc.atLeast l (k + vs.length))) i d =
      if k ≤ i ∧ i < k + vs.length then vs.getD (i - k) d else if i < k + vs.length then d else Assoc.get l i d := by
    intro i
    rw [Assoc.get_run vs d _ k i (fun i h1 h2 => by rw [Assoc.get_atLeast]; simp [h2]), Assoc.get_atLeast]
  have hm : ∀ (ws : List α) (m : Nat) (l : List (Nat × α)) (n : Nat), n ≤ m → (∀ x, x ∈ l → n ≤ x.1) →
      ∀ x, x ∈ Assoc.run m ws d l → n ≤ x.1 := by
    intro ws
    induction ws with
    | nil => intro m l n _ hl x hx; exact hl x hx
    | cons w r ih =>
      intro m l n hn hl x hx
      by_cases hw : w = d
      · simp only [Assoc.run, hw, if_true] at hx
        exact ih (m + 1) l n (by omega) hl x hx
      · simp only [Assoc.run, hw, if_false, List.mem_cons] at hx
        rcases hx with rfl | hx
        · exact hn
        · exact ih (m + 1) l n (by omega) hl x hx
  unfold Assoc.splice
  by_cases h : j < k
  · rw [Assoc.get_append_left, Assoc.get_below]
    · have : ¬ (k ≤ j ∧ j < k + vs.length) := by omega
      simp [h, this]
    · intro x hx
      have := hm vs k _ k (Nat.le_refl k) (fun y hy => by have := Assoc.mem_atLeast _ _ y hy; omega) x hx
      omega
  · rw [Assoc.get_append _ _ _ _ (fun x hx => by have := Assoc.mem_below _ _ x hx; omega), hr]
    by_cases h1 : k ≤ j ∧ j < k + vs.length
    · simp [h1]
    · have : ¬ j < k + vs.length := by omega
      simp [this]

/-! ### The canonical form -/

theorem Assoc.above_mono (l : List (Nat × α)) {j k : Nat} (h : j ≤ k) (hl : Assoc.above k l = true) : Assoc.above j l = true := by
  induction l with
  | nil => rfl
  | cons x r ih =>
    simp only [Assoc.above, Bool.and_eq_true, decide_eq_true_eq] at hl ⊢
    exact ⟨by omega, ih hl.2⟩

theorem Assoc.above_iff (l : List (Nat × α)) (k : Nat) : Assoc.above k l = true ↔ ∀ x, x ∈ l → k < x.1 := by
  induction l with
  | nil => simp [Assoc.above]
  | cons x r ih => simp [Assoc.above, ih]

/-- The canonical form as a statement about entries. -/
theorem Assoc.wf_cons [DecidableEq α] (dflt : Nat → α) (k : Nat) (v : α) (r : List (Nat × α)) :
    Assoc.wf dflt ((k, v) :: r) = true ↔ v ≠ dflt k ∧ (∀ x, x ∈ r → k < x.1) ∧ Assoc.wf dflt r = true := by
  simp [Assoc.wf, Assoc.above_iff, and_assoc]

theorem Assoc.wf_append [DecidableEq α] (dflt : Nat → α) (a b : List (Nat × α)) (ha : Assoc.wf dflt a = true) (hb : Assoc.wf dflt b = true)
    (h : ∀ x, x ∈ a → ∀ y, y ∈ b → x.1 < y.1) : Assoc.wf dflt (a ++ b) = true := by
  induction a with
  | nil => exact hb
  | cons x r ih =>
    obtain ⟨k, v⟩ := x
    rw [Assoc.wf_cons] at ha
    rw [List.cons_append, Assoc.wf_cons]
    refine ⟨ha.1, fun y hy => ?_, ih ha.2.2 (fun x hx y hy => h x (by simp [hx]) y hy)⟩
    rcases List.mem_append.mp hy with hy | hy
    · exact ha.2.1 y hy
    · exact h (k, v) (by simp) y hy

theorem Assoc.mem_drop (l : List (Nat × α)) (k : Nat) (x : Nat × α) (h : x ∈ Assoc.drop l k) : x ∈ l := by
  induction l with
  | nil => simp [Assoc.drop] at h
  | cons y r ih =>
    by_cases hk : y.1 = k
    · simp only [Assoc.drop, hk, if_true] at h
      exact List.mem_cons_of_mem _ (ih h)
    · simp only [Assoc.drop, hk, if_false, List.mem_cons] at h
      rcases h with rfl | h
      · simp
      · exact List.mem_cons_of_mem _ (ih h)

theorem Assoc.wf_drop [DecidableEq α] (dflt : Nat → α) (l : List (Nat × α)) (k : Nat) (h : Assoc.wf dflt l = true) :
    Assoc.wf dflt (Assoc.drop l k) = true := by
  induction l with
  | nil => rfl
  | cons x r ih =>
    obtain ⟨k', v⟩ := x
    rw [Assoc.wf_cons] at h
    by_cases hk : k' = k
    · simpa [Assoc.drop, hk] using ih h.2.2
    · simp only [Assoc.drop, if_neg hk]
      rw [Assoc.wf_cons]
      exact ⟨h.1, fun x hx => h.2.1 x (Assoc.mem_drop r k x hx), ih h.2.2⟩

theorem Assoc.ne_drop (l : List (Nat × α)) (k : Nat) (x : Nat × α) (h : x ∈ Assoc.drop l k) : x.1 ≠ k := by
  induction l with
  | nil => simp [Assoc.drop] at h
  | cons y r ih =>
    by_cases hk : y.1 = k
    · simp only [Assoc.drop, hk, if_true] at h
      exact ih h
    · simp only [Assoc.drop, hk, if_false, List.mem_cons] at h
      rcases h with rfl | h
      · exact hk
      · exact ih h

theorem Assoc.mem_ins (l : List (Nat × α)) (k : Nat) (v : α) (x : Nat × α) (h : x ∈ Assoc.ins l k v) : x = (k, v) ∨ x ∈ l := by
  induction l with
  | nil => simpa [Assoc.ins] using h
  | cons y r ih =>
    by_cases hk : k < y.1
    · simpa [Assoc.ins, hk] using h
    · simp only [Assoc.ins, hk, if_false, List.mem_cons] at h
      rcases h with rfl | h
      · exact Or.inr (by simp)
      · rcases ih h with h | h
        · exact Or.inl h
        · exact Or.inr (by simp [h])

theorem Assoc.wf_ins [DecidableEq α] (dflt : Nat → α) (l : List (Nat × α)) (k : Nat) (v : α) (hv : v ≠ dflt k) (hk : ∀ x, x ∈ l → x.1 ≠ k)
    (h : Assoc.wf dflt l = true) : Assoc.wf dflt (Assoc.ins l k v) = true := by
  induction l with
  | nil => simp [Assoc.ins, Assoc.wf, Assoc.above, hv]
  | cons y r ih =>
    obtain ⟨k', v'⟩ := y
    have hne : k' ≠ k := hk (k', v') (by simp)
    have h' := (Assoc.wf_cons dflt k' v' r).mp h
    by_cases hlt : k < k'
    · simp only [Assoc.ins, if_pos hlt]
      rw [Assoc.wf_cons]
      refine ⟨hv, fun x hx => ?_, h⟩
      rcases List.mem_cons.mp hx with rfl | hx
      · exact hlt
      · have := h'.2.1 x hx; omega
    · simp only [Assoc.ins, if_neg hlt]
      rw [Assoc.wf_cons]
      refine ⟨h'.1, fun x hx => ?_, ih (fun x hx => hk x (by simp [hx])) h'.2.2⟩
      rcases Assoc.mem_ins r k v x hx with rfl | hx
      · show k' < k; omega
      · exact h'.2.1 x hx

/-- Storing at a key, with the key's own default, keeps the canonical form. -/
theorem Assoc.wf_put [DecidableEq α] (dflt : Nat → α) (l : List (Nat × α)) (k : Nat) (v : α) (h : Assoc.wf dflt l = true) :
    Assoc.wf dflt (Assoc.put l k v (dflt k)) = true := by
  by_cases hv : v = dflt k
  · simpa [Assoc.put, hv] using Assoc.wf_drop dflt l k h
  · simp only [Assoc.put, if_neg hv]
    exact Assoc.wf_ins dflt _ k v hv (fun x hx => Assoc.ne_drop l k x hx) (Assoc.wf_drop dflt l k h)

theorem Assoc.wf_below [DecidableEq α] (dflt : Nat → α) (l : List (Nat × α)) (k : Nat) (h : Assoc.wf dflt l = true) :
    Assoc.wf dflt (Assoc.below l k) = true := by
  have hm : ∀ l : List (Nat × α), ∀ x, x ∈ Assoc.below l k → x ∈ l := by
    intro l
    induction l with
    | nil => simp [Assoc.below]
    | cons y r ih =>
      intro x hx
      by_cases hk : y.1 < k
      · simp only [Assoc.below, hk, if_true, List.mem_cons] at hx
        rcases hx with rfl | hx
        · simp
        · exact List.mem_cons_of_mem _ (ih x hx)
      · simp only [Assoc.below, hk, if_false] at hx
        exact List.mem_cons_of_mem _ (ih x hx)
  induction l with
  | nil => rfl
  | cons x r ih =>
    obtain ⟨k', v⟩ := x
    rw [Assoc.wf_cons] at h
    by_cases hk : k' < k
    · simp only [Assoc.below, if_pos hk]
      rw [Assoc.wf_cons]
      exact ⟨h.1, fun x hx => h.2.1 x (hm r x hx), ih h.2.2⟩
    · simpa [Assoc.below, hk] using ih h.2.2

theorem Assoc.wf_atLeast [DecidableEq α] (dflt : Nat → α) (l : List (Nat × α)) (k : Nat) (h : Assoc.wf dflt l = true) :
    Assoc.wf dflt (Assoc.atLeast l k) = true := by
  have hm : ∀ l : List (Nat × α), ∀ x, x ∈ Assoc.atLeast l k → x ∈ l := by
    intro l
    induction l with
    | nil => simp [Assoc.atLeast]
    | cons y r ih =>
      intro x hx
      by_cases hk : y.1 < k
      · simp only [Assoc.atLeast, hk, if_true] at hx
        exact List.mem_cons_of_mem _ (ih x hx)
      · simp only [Assoc.atLeast, hk, if_false, List.mem_cons] at hx
        rcases hx with rfl | hx
        · simp
        · exact List.mem_cons_of_mem _ (ih x hx)
  induction l with
  | nil => rfl
  | cons x r ih =>
    obtain ⟨k', v⟩ := x
    rw [Assoc.wf_cons] at h
    by_cases hk : k' < k
    · simpa [Assoc.atLeast, hk] using ih h.2.2
    · simp only [Assoc.atLeast, if_neg hk]
      rw [Assoc.wf_cons]
      exact ⟨h.1, fun x hx => h.2.1 x (hm r x hx), ih h.2.2⟩

/-- Clearing a range of keys keeps the canonical form. -/
theorem Assoc.wf_clear [DecidableEq α] (dflt : Nat → α) (l : List (Nat × α)) (k n : Nat) (h : Assoc.wf dflt l = true) :
    Assoc.wf dflt (Assoc.clear l k n) = true :=
  Assoc.wf_append dflt _ _ (Assoc.wf_below dflt l k h) (Assoc.wf_atLeast dflt l _ h) (fun x hx y hy => by
    have h1 := Assoc.mem_below l k x hx
    have h2 := Assoc.mem_atLeast l (k + n) y hy
    omega)

theorem Assoc.wf_run [DecidableEq α] (d : α) (vs : List α) (k : Nat) (l : List (Nat × α)) (h : Assoc.wf (fun _ => d) l = true)
    (hl : ∀ x, x ∈ l → k + vs.length ≤ x.1) :
    Assoc.wf (fun _ => d) (Assoc.run k vs d l) = true ∧ ∀ x, x ∈ Assoc.run k vs d l → k ≤ x.1 := by
  induction vs generalizing k with
  | nil => exact ⟨h, fun x hx => by have := hl x hx; simpa using this⟩
  | cons v r ih =>
    have ih := ih (k + 1) (fun x hx => by have := hl x hx; simp only [List.length_cons] at this; omega)
    by_cases hv : v = d
    · simp only [Assoc.run, if_pos hv]
      exact ⟨ih.1, fun x hx => by have := ih.2 x hx; omega⟩
    · simp only [Assoc.run, if_neg hv]
      rw [Assoc.wf_cons]
      refine ⟨⟨hv, fun x hx => by have := ih.2 x hx; omega, ih.1⟩, fun x hx => ?_⟩
      rcases List.mem_cons.mp hx with rfl | hx
      · exact Nat.le_refl k
      · have := ih.2 x hx; omega

/-- Storing a row of values keeps the canonical form. -/
theorem Assoc.wf_splice [DecidableEq α] (d : α) (l : List (Nat × α)) (k : Nat) (vs : List α) (h : Assoc.wf (fun _ => d) l = true) :
    Assoc.wf (fun _ => d) (Assoc.splice l k vs d) = true := by
  have hr := Assoc.wf_run d vs k (Assoc.atLeast l (k + vs.length)) (Assoc.wf_atLeast _ l _ h) (Assoc.mem_atLeast l _)
  exact Assoc.wf_append _ _ _ (Assoc.wf_below _ l k h) hr.1 (fun x hx y hy => by
    have h1 := Assoc.mem_below l k x hx
    have h2 := hr.2 y hy
    omega)

/-! ### Sets -/

theorem NSet.wf_iff (l : List Nat) : NSet.wf l = true ↔ l.Pairwise (· < ·) := by
  induction l with
  | nil => simp [NSet.wf]
  | cons a r ih =>
    cases r with
    | nil => simp [NSet.wf]
    | cons b r =>
      simp only [NSet.wf, Bool.and_eq_true, decide_eq_true_eq, ih, List.pairwise_cons]
      constructor
      · rintro ⟨h1, h2, h3⟩
        refine ⟨fun x hx => ?_, h2, h3⟩
        rcases List.mem_cons.mp hx with rfl | hx
        · exact h1
        · have := h2 x hx; omega
      · rintro ⟨h1, h2, h3⟩
        exact ⟨h1 b (by simp), h2, h3⟩

theorem NSet.mem_iff (l : List Nat) (k : Nat) : NSet.mem l k = true ↔ k ∈ l := by
  induction l with
  | nil => simp [NSet.mem]
  | cons a r ih =>
    by_cases h : a = k
    · simp [NSet.mem, h]
    · have h' : ¬ k = a := fun e => h e.symm
      simp [NSet.mem, h, h', ih]

theorem NSet.erase_eq (l : List Nat) (k : Nat) : NSet.erase l k = l.filter (fun x => decide (x ≠ k)) := by
  induction l with
  | nil => rfl
  | cons a r ih => by_cases h : a = k <;> simp [NSet.erase, h, ih]

theorem NSet.mem_ins (l : List Nat) (k x : Nat) : x ∈ NSet.ins l k ↔ x = k ∨ x ∈ l := by
  induction l with
  | nil => simp [NSet.ins]
  | cons a r ih =>
    by_cases h : k < a
    · simp [NSet.ins, h]
    · simp only [NSet.ins, h, if_false, List.mem_cons, ih]
      constructor
      · rintro (h | h | h) <;> simp [h]
      · rintro (h | h | h) <;> simp [h]

theorem NSet.wf_erase (l : List Nat) (k : Nat) (h : NSet.wf l = true) : NSet.wf (NSet.erase l k) = true := by
  rw [NSet.wf_iff] at *
  rw [NSet.erase_eq]
  exact h.filter _

theorem NSet.wf_ins (l : List Nat) (k : Nat) (h : NSet.wf l = true) (hk : k ∉ l) : NSet.wf (NSet.ins l k) = true := by
  rw [NSet.wf_iff] at *
  induction l with
  | nil => simp [NSet.ins]
  | cons a r ih =>
    rw [List.pairwise_cons] at h
    have hne : k ≠ a := fun e => hk (by simp [e])
    by_cases hlt : k < a
    · simp only [NSet.ins, if_pos hlt]
      rw [List.pairwise_cons, List.pairwise_cons]
      refine ⟨fun x hx => ?_, h⟩
      rcases List.mem_cons.mp hx with rfl | hx
      · exact hlt
      · have := h.1 x hx; omega
    · simp only [NSet.ins, if_neg hlt]
      rw [List.pairwise_cons]
      refine ⟨fun x hx => ?_, ih h.2 (fun hx => hk (by simp [hx]))⟩
      rcases (NSet.mem_ins r k x).mp hx with rfl | hx
      · omega
      · exact h.1 x hx

/-- Inserting a number keeps a set's canonical form. -/
theorem NSet.wf_insert (l : List Nat) (k : Nat) (h : NSet.wf l = true) : NSet.wf (NSet.insert l k) = true :=
  NSet.wf_ins _ k (NSet.wf_erase l k h) (by simp [NSet.erase_eq])

theorem NSet.mem_insert (l : List Nat) (k x : Nat) : NSet.mem (NSet.insert l k) x = (decide (x = k) || NSet.mem l x) := by
  rw [Bool.eq_iff_iff]
  simp only [NSet.mem_iff, NSet.insert, NSet.mem_ins, NSet.erase_eq, List.mem_filter, Bool.or_eq_true, decide_eq_true_eq]
  constructor
  · rintro (h | h)
    · exact Or.inl h
    · exact Or.inr h.1
  · rintro (h | h)
    · exact Or.inl h
    · by_cases hx : x = k
      · exact Or.inl hx
      · exact Or.inr ⟨h, hx⟩

theorem NSet.wf_filter (l : List Nat) (p : Nat → Bool) (h : NSet.wf l = true) : NSet.wf (l.filter p) = true := by
  rw [NSet.wf_iff] at *
  exact h.filter _

theorem NSet.wf_clear (l : List Nat) (k n : Nat) (h : NSet.wf l = true) : NSet.wf (NSet.clear l k n) = true :=
  NSet.wf_filter l _ h

theorem NSet.wf_insertAll (l ks : List Nat) (h : NSet.wf l = true) : NSet.wf (NSet.insertAll l ks) = true := by
  unfold NSet.insertAll
  induction ks generalizing l with
  | nil => exact h
  | cons k r ih => exact ih _ (NSet.wf_insert l k h)

end Sys2Proof.Machine
end

