-- ==== Sys2Proof/Laws/Decode.lean ====
section
/-! SUPPORT. The 128-bit instruction word (R237): each field of a word that is put together reads back. -/

namespace Sys2Proof

/-- R237: which field a bit of the word is of. -/
theorem fieldsWord_getLsbD (op : BitVec 8) (w : IFields) (i : Nat) : (fieldsWord op w).getLsbD i =
    if i < 8 then op.getLsbD i else if i < 12 then w.fmt.getLsbD (i - 8) else if i < 16 then w.pred.getLsbD (i - 12)
    else if i < 24 then w.dst.getLsbD (i - 16) else if i < 32 then w.srca.getLsbD (i - 24) else if i < 40 then w.srcb.getLsbD (i - 32)
    else if i < 48 then w.srcc.getLsbD (i - 40) else if i < 64 then w.modw.getLsbD (i - 48) else w.imm.getLsbD (i - 64) := by
  rw [fieldsWord]
  repeat rw [BitVec.getLsbD_append]
  simp only [Nat.sub_sub]
  iterate 8 refine ite_congr (propext (by omega)) (fun _ => rfl) (fun _ => ?_)
  rfl

/-- The fields of a word read back. -/
theorem wordFields_fieldsWord (op : BitVec 8) (w : IFields) : wordFields (fieldsWord op w) = w := by
  cases w
  simp only [wordFields, IFields.mk.injEq]
  refine ⟨?_, ?_, ?_, ?_, ?_, ?_, ?_, ?_⟩ <;> apply BitVec.eq_of_getLsbD_eq <;> intro i hi <;>
    rw [BitVec.getLsbD_extractLsb', fieldsWord_getLsbD, decide_eq_true hi, Bool.true_and] <;>
    repeat' (first | rw [if_pos (by omega), Nat.add_sub_cancel_left] | rw [if_neg (by omega)])
  rw [Nat.add_sub_cancel_left]

/-- The opcode of a word reads back. -/
theorem op_fieldsWord (op : BitVec 8) (w : IFields) : (fieldsWord op w).extractLsb' 0 8 = op := by
  apply BitVec.eq_of_getLsbD_eq; intro i hi
  rw [BitVec.getLsbD_extractLsb', fieldsWord_getLsbD, decide_eq_true hi, Bool.true_and, Nat.zero_add, if_pos hi]

end Sys2Proof
end

