-- ==== Sys2Proof/Laws/State.lean ====
section
/-! SUPPORT. What each named update of the state leaves as it was: one lemma per field and update, and per reader of a record and
update. -/

namespace Sys2Proof.Machine

/-! ### setReg -/

@[simp] theorem State.setReg_pending (s : State) (k : Nat) (v : Word) : (s.setReg k v).pending = s.pending := rfl
@[simp] theorem State.setReg_staged (s : State) (k : Nat) (v : Word) : (s.setReg k v).staged = s.staged := rfl
@[simp] theorem State.setReg_arb (s : State) (k : Nat) (v : Word) : (s.setReg k v).arb = s.arb := rfl
@[simp] theorem State.setReg_pane (s : State) (k : Nat) (v : Word) : (s.setReg k v).pane = s.pane := rfl
@[simp] theorem State.setReg_scratch (s : State) (k : Nat) (v : Word) : (s.setReg k v).scratch = s.scratch := rfl
@[simp] theorem State.setReg_hbm (s : State) (k : Nat) (v : Word) : (s.setReg k v).hbm = s.hbm := rfl
@[simp] theorem State.setReg_clines (s : State) (k : Nat) (v : Word) : (s.setReg k v).clines = s.clines := rfl
@[simp] theorem State.setReg_cdirty (s : State) (k : Nat) (v : Word) : (s.setReg k v).cdirty = s.cdirty := rfl
@[simp] theorem State.setReg_cdata (s : State) (k : Nat) (v : Word) : (s.setReg k v).cdata = s.cdata := rfl
@[simp] theorem State.setReg_host (s : State) (k : Nat) (v : Word) : (s.setReg k v).host = s.host := rfl
@[simp] theorem State.setReg_hbad (s : State) (k : Nat) (v : Word) : (s.setReg k v).hbad = s.hbad := rfl
@[simp] theorem State.setReg_window (s : State) (k : Nat) (v : Word) : (s.setReg k v).window = s.window := rfl
@[simp] theorem State.setReg_cas (s : State) (k : Nat) (v : Word) : (s.setReg k v).cas = s.cas := rfl
@[simp] theorem State.setReg_lts (s : State) (k : Nat) (v : Word) : (s.setReg k v).lts = s.lts := rfl
@[simp] theorem State.setReg_heldPane (s : State) (k : Nat) (v : Word) : (s.setReg k v).heldPane = s.heldPane := rfl
@[simp] theorem State.setReg_tiles (s : State) (k : Nat) (v : Word) : (s.setReg k v).tiles = s.tiles := rfl
@[simp] theorem State.setReg_fns (s : State) (k : Nat) (v : Word) : (s.setReg k v).fns = s.fns := rfl
@[simp] theorem State.setReg_cfgs (s : State) (k : Nat) (v : Word) : (s.setReg k v).cfgs = s.cfgs := rfl
@[simp] theorem State.setReg_unlock (s : State) (k : Nat) (v : Word) : (s.setReg k v).unlock = s.unlock := rfl
@[simp] theorem State.setReg_ports (s : State) (k : Nat) (v : Word) : (s.setReg k v).ports = s.ports := rfl
@[simp] theorem State.setReg_fabs (s : State) (k : Nat) (v : Word) : (s.setReg k v).fabs = s.fabs := rfl
@[simp] theorem State.setReg_lays (s : State) (k : Nat) (v : Word) : (s.setReg k v).lays = s.lays := rfl
@[simp] theorem State.setReg_louvres (s : State) (k : Nat) (v : Word) : (s.setReg k v).louvres = s.louvres := rfl
@[simp] theorem State.setReg_hub (s : State) (k : Nat) (v : Word) : (s.setReg k v).hub = s.hub := rfl
@[simp] theorem State.setReg_tscrub (s : State) (k : Nat) (v : Word) : (s.setReg k v).tscrub = s.tscrub := rfl
@[simp] theorem State.setReg_hscrub (s : State) (k : Nat) (v : Word) : (s.setReg k v).hscrub = s.hscrub := rfl
@[simp] theorem State.setReg_mesh (s : State) (k : Nat) (v : Word) : (s.setReg k v).mesh = s.mesh := rfl
@[simp] theorem State.setReg_hcopy (s : State) (k : Nat) (v : Word) : (s.setReg k v).hcopy = s.hcopy := rfl
@[simp] theorem State.setReg_hpos (s : State) (k : Nat) (v : Word) : (s.setReg k v).hpos = s.hpos := rfl
@[simp] theorem State.setReg_wcopy (s : State) (k : Nat) (v : Word) : (s.setReg k v).wcopy = s.wcopy := rfl
@[simp] theorem State.setReg_spares (s : State) (k : Nat) (v : Word) : (s.setReg k v).spares = s.spares := rfl
@[simp] theorem State.setReg_shut (s : State) (k : Nat) (v : Word) : (s.setReg k v).shut = s.shut := rfl
@[simp] theorem State.setReg_fenced (s : State) (k : Nat) (v : Word) : (s.setReg k v).fenced = s.fenced := rfl
@[simp] theorem State.setReg_tests (s : State) (k : Nat) (v : Word) : (s.setReg k v).tests = s.tests := rfl
@[simp] theorem State.setReg_flash (s : State) (k : Nat) (v : Word) : (s.setReg k v).flash = s.flash := rfl
@[simp] theorem State.setReg_opts (s : State) (k : Nat) (v : Word) : (s.setReg k v).opts = s.opts := rfl
@[simp] theorem State.setReg_fuses (s : State) (k : Nat) (v : Word) : (s.setReg k v).fuses = s.fuses := rfl
@[simp] theorem State.setReg_jrn (s : State) (k : Nat) (v : Word) : (s.setReg k v).jrn = s.jrn := rfl
@[simp] theorem State.setReg_run (s : State) (k : Nat) (v : Word) : (s.setReg k v).run = s.run := rfl
@[simp] theorem State.setReg_boot (s : State) (k : Nat) (v : Word) : (s.setReg k v).boot = s.boot := rfl
@[simp] theorem State.setReg_sealing (s : State) (k : Nat) (v : Word) : (s.setReg k v).sealing = s.sealing := rfl
@[simp] theorem State.setReg_trnRep (s : State) (k : Nat) (v : Word) : (s.setReg k v).trnRep = s.trnRep := rfl
@[simp] theorem State.setReg_rseq (s : State) (k : Nat) (v : Word) : (s.setReg k v).rseq = s.rseq := rfl
@[simp] theorem State.setReg_pwr (s : State) (k : Nat) (v : Word) : (s.setReg k v).pwr = s.pwr := rfl
@[simp] theorem State.setReg_mgt (s : State) (k : Nat) (v : Word) : (s.setReg k v).mgt = s.mgt := rfl
@[simp] theorem State.setReg_free (s : State) (k : Nat) (v : Word) : (s.setReg k v).free = s.free := rfl
@[simp] theorem State.setReg_out (s : State) (k : Nat) (v : Word) : (s.setReg k v).out = s.out := rfl
@[simp] theorem State.setReg_arbN (s : State) (k : Nat) (v : Word) (j : Nat) : (s.setReg k v).arbN j = s.arbN j := rfl
@[simp] theorem State.setReg_casement (s : State) (k : Nat) (v : Word) (j : Nat) : (s.setReg k v).casement j = s.casement j := rfl
@[simp] theorem State.setReg_lt (s : State) (k : Nat) (v : Word) (j i : Nat) : (s.setReg k v).lt j i = s.lt j i := rfl
@[simp] theorem State.setReg_tile (s : State) (k : Nat) (v : Word) (j : Nat) : (s.setReg k v).tile j = s.tile j := rfl
@[simp] theorem State.setReg_fn (s : State) (k : Nat) (v : Word) (j : Nat) : (s.setReg k v).fn j = s.fn j := rfl
@[simp] theorem State.setReg_port (s : State) (k : Nat) (v : Word) (j : Nat) : (s.setReg k v).port j = s.port j := rfl
@[simp] theorem State.setReg_fab (s : State) (k : Nat) (v : Word) (j : Nat) : (s.setReg k v).fab j = s.fab j := rfl
@[simp] theorem State.setReg_lay (s : State) (k : Nat) (v : Word) (j : Nat) : (s.setReg k v).lay j = s.lay j := rfl

/-! ### setRf -/

@[simp] theorem State.setRf_pending (s : State) (k a b v : Nat) : (s.setRf k a b v).pending = s.pending := rfl
@[simp] theorem State.setRf_staged (s : State) (k a b v : Nat) : (s.setRf k a b v).staged = s.staged := rfl
@[simp] theorem State.setRf_arb (s : State) (k a b v : Nat) : (s.setRf k a b v).arb = s.arb := rfl
@[simp] theorem State.setRf_pane (s : State) (k a b v : Nat) : (s.setRf k a b v).pane = s.pane := rfl
@[simp] theorem State.setRf_scratch (s : State) (k a b v : Nat) : (s.setRf k a b v).scratch = s.scratch := rfl
@[simp] theorem State.setRf_hbm (s : State) (k a b v : Nat) : (s.setRf k a b v).hbm = s.hbm := rfl
@[simp] theorem State.setRf_clines (s : State) (k a b v : Nat) : (s.setRf k a b v).clines = s.clines := rfl
@[simp] theorem State.setRf_cdirty (s : State) (k a b v : Nat) : (s.setRf k a b v).cdirty = s.cdirty := rfl
@[simp] theorem State.setRf_cdata (s : State) (k a b v : Nat) : (s.setRf k a b v).cdata = s.cdata := rfl
@[simp] theorem State.setRf_host (s : State) (k a b v : Nat) : (s.setRf k a b v).host = s.host := rfl
@[simp] theorem State.setRf_hbad (s : State) (k a b v : Nat) : (s.setRf k a b v).hbad = s.hbad := rfl
@[simp] theorem State.setRf_window (s : State) (k a b v : Nat) : (s.setRf k a b v).window = s.window := rfl
@[simp] theorem State.setRf_cas (s : State) (k a b v : Nat) : (s.setRf k a b v).cas = s.cas := rfl
@[simp] theorem State.setRf_lts (s : State) (k a b v : Nat) : (s.setRf k a b v).lts = s.lts := rfl
@[simp] theorem State.setRf_heldPane (s : State) (k a b v : Nat) : (s.setRf k a b v).heldPane = s.heldPane := rfl
@[simp] theorem State.setRf_tiles (s : State) (k a b v : Nat) : (s.setRf k a b v).tiles = s.tiles := rfl
@[simp] theorem State.setRf_fns (s : State) (k a b v : Nat) : (s.setRf k a b v).fns = s.fns := rfl
@[simp] theorem State.setRf_cfgs (s : State) (k a b v : Nat) : (s.setRf k a b v).cfgs = s.cfgs := rfl
@[simp] theorem State.setRf_unlock (s : State) (k a b v : Nat) : (s.setRf k a b v).unlock = s.unlock := rfl
@[simp] theorem State.setRf_ports (s : State) (k a b v : Nat) : (s.setRf k a b v).ports = s.ports := rfl
@[simp] theorem State.setRf_fabs (s : State) (k a b v : Nat) : (s.setRf k a b v).fabs = s.fabs := rfl
@[simp] theorem State.setRf_lays (s : State) (k a b v : Nat) : (s.setRf k a b v).lays = s.lays := rfl
@[simp] theorem State.setRf_louvres (s : State) (k a b v : Nat) : (s.setRf k a b v).louvres = s.louvres := rfl
@[simp] theorem State.setRf_hub (s : State) (k a b v : Nat) : (s.setRf k a b v).hub = s.hub := rfl
@[simp] theorem State.setRf_tscrub (s : State) (k a b v : Nat) : (s.setRf k a b v).tscrub = s.tscrub := rfl
@[simp] theorem State.setRf_hscrub (s : State) (k a b v : Nat) : (s.setRf k a b v).hscrub = s.hscrub := rfl
@[simp] theorem State.setRf_mesh (s : State) (k a b v : Nat) : (s.setRf k a b v).mesh = s.mesh := rfl
@[simp] theorem State.setRf_hcopy (s : State) (k a b v : Nat) : (s.setRf k a b v).hcopy = s.hcopy := rfl
@[simp] theorem State.setRf_hpos (s : State) (k a b v : Nat) : (s.setRf k a b v).hpos = s.hpos := rfl
@[simp] theorem State.setRf_wcopy (s : State) (k a b v : Nat) : (s.setRf k a b v).wcopy = s.wcopy := rfl
@[simp] theorem State.setRf_spares (s : State) (k a b v : Nat) : (s.setRf k a b v).spares = s.spares := rfl
@[simp] theorem State.setRf_shut (s : State) (k a b v : Nat) : (s.setRf k a b v).shut = s.shut := rfl
@[simp] theorem State.setRf_fenced (s : State) (k a b v : Nat) : (s.setRf k a b v).fenced = s.fenced := rfl
@[simp] theorem State.setRf_tests (s : State) (k a b v : Nat) : (s.setRf k a b v).tests = s.tests := rfl
@[simp] theorem State.setRf_flash (s : State) (k a b v : Nat) : (s.setRf k a b v).flash = s.flash := rfl
@[simp] theorem State.setRf_opts (s : State) (k a b v : Nat) : (s.setRf k a b v).opts = s.opts := rfl
@[simp] theorem State.setRf_fuses (s : State) (k a b v : Nat) : (s.setRf k a b v).fuses = s.fuses := rfl
@[simp] theorem State.setRf_jrn (s : State) (k a b v : Nat) : (s.setRf k a b v).jrn = s.jrn := rfl
@[simp] theorem State.setRf_run (s : State) (k a b v : Nat) : (s.setRf k a b v).run = s.run := rfl
@[simp] theorem State.setRf_boot (s : State) (k a b v : Nat) : (s.setRf k a b v).boot = s.boot := rfl
@[simp] theorem State.setRf_sealing (s : State) (k a b v : Nat) : (s.setRf k a b v).sealing = s.sealing := rfl
@[simp] theorem State.setRf_trnRep (s : State) (k a b v : Nat) : (s.setRf k a b v).trnRep = s.trnRep := rfl
@[simp] theorem State.setRf_rseq (s : State) (k a b v : Nat) : (s.setRf k a b v).rseq = s.rseq := rfl
@[simp] theorem State.setRf_pwr (s : State) (k a b v : Nat) : (s.setRf k a b v).pwr = s.pwr := rfl
@[simp] theorem State.setRf_mgt (s : State) (k a b v : Nat) : (s.setRf k a b v).mgt = s.mgt := rfl
@[simp] theorem State.setRf_free (s : State) (k a b v : Nat) : (s.setRf k a b v).free = s.free := rfl
@[simp] theorem State.setRf_out (s : State) (k a b v : Nat) : (s.setRf k a b v).out = s.out := rfl
@[simp] theorem State.setRf_arbN (s : State) (k a b v : Nat) (j : Nat) : (s.setRf k a b v).arbN j = s.arbN j := rfl
@[simp] theorem State.setRf_casement (s : State) (k a b v : Nat) (j : Nat) : (s.setRf k a b v).casement j = s.casement j := rfl
@[simp] theorem State.setRf_lt (s : State) (k a b v : Nat) (j i : Nat) : (s.setRf k a b v).lt j i = s.lt j i := rfl
@[simp] theorem State.setRf_tile (s : State) (k a b v : Nat) (j : Nat) : (s.setRf k a b v).tile j = s.tile j := rfl
@[simp] theorem State.setRf_fn (s : State) (k a b v : Nat) (j : Nat) : (s.setRf k a b v).fn j = s.fn j := rfl
@[simp] theorem State.setRf_port (s : State) (k a b v : Nat) (j : Nat) : (s.setRf k a b v).port j = s.port j := rfl
@[simp] theorem State.setRf_fab (s : State) (k a b v : Nat) (j : Nat) : (s.setRf k a b v).fab j = s.fab j := rfl
@[simp] theorem State.setRf_lay (s : State) (k a b v : Nat) (j : Nat) : (s.setRf k a b v).lay j = s.lay j := rfl

/-! ### count -/

@[simp] theorem State.count_pending (s : State) (k a b v : Nat) : (s.count k a b v).pending = s.pending := rfl
@[simp] theorem State.count_staged (s : State) (k a b v : Nat) : (s.count k a b v).staged = s.staged := rfl
@[simp] theorem State.count_arb (s : State) (k a b v : Nat) : (s.count k a b v).arb = s.arb := rfl
@[simp] theorem State.count_pane (s : State) (k a b v : Nat) : (s.count k a b v).pane = s.pane := rfl
@[simp] theorem State.count_scratch (s : State) (k a b v : Nat) : (s.count k a b v).scratch = s.scratch := rfl
@[simp] theorem State.count_hbm (s : State) (k a b v : Nat) : (s.count k a b v).hbm = s.hbm := rfl
@[simp] theorem State.count_clines (s : State) (k a b v : Nat) : (s.count k a b v).clines = s.clines := rfl
@[simp] theorem State.count_cdirty (s : State) (k a b v : Nat) : (s.count k a b v).cdirty = s.cdirty := rfl
@[simp] theorem State.count_cdata (s : State) (k a b v : Nat) : (s.count k a b v).cdata = s.cdata := rfl
@[simp] theorem State.count_host (s : State) (k a b v : Nat) : (s.count k a b v).host = s.host := rfl
@[simp] theorem State.count_hbad (s : State) (k a b v : Nat) : (s.count k a b v).hbad = s.hbad := rfl
@[simp] theorem State.count_window (s : State) (k a b v : Nat) : (s.count k a b v).window = s.window := rfl
@[simp] theorem State.count_cas (s : State) (k a b v : Nat) : (s.count k a b v).cas = s.cas := rfl
@[simp] theorem State.count_lts (s : State) (k a b v : Nat) : (s.count k a b v).lts = s.lts := rfl
@[simp] theorem State.count_heldPane (s : State) (k a b v : Nat) : (s.count k a b v).heldPane = s.heldPane := rfl
@[simp] theorem State.count_tiles (s : State) (k a b v : Nat) : (s.count k a b v).tiles = s.tiles := rfl
@[simp] theorem State.count_fns (s : State) (k a b v : Nat) : (s.count k a b v).fns = s.fns := rfl
@[simp] theorem State.count_cfgs (s : State) (k a b v : Nat) : (s.count k a b v).cfgs = s.cfgs := rfl
@[simp] theorem State.count_unlock (s : State) (k a b v : Nat) : (s.count k a b v).unlock = s.unlock := rfl
@[simp] theorem State.count_ports (s : State) (k a b v : Nat) : (s.count k a b v).ports = s.ports := rfl
@[simp] theorem State.count_fabs (s : State) (k a b v : Nat) : (s.count k a b v).fabs = s.fabs := rfl
@[simp] theorem State.count_lays (s : State) (k a b v : Nat) : (s.count k a b v).lays = s.lays := rfl
@[simp] theorem State.count_louvres (s : State) (k a b v : Nat) : (s.count k a b v).louvres = s.louvres := rfl
@[simp] theorem State.count_hub (s : State) (k a b v : Nat) : (s.count k a b v).hub = s.hub := rfl
@[simp] theorem State.count_tscrub (s : State) (k a b v : Nat) : (s.count k a b v).tscrub = s.tscrub := rfl
@[simp] theorem State.count_hscrub (s : State) (k a b v : Nat) : (s.count k a b v).hscrub = s.hscrub := rfl
@[simp] theorem State.count_mesh (s : State) (k a b v : Nat) : (s.count k a b v).mesh = s.mesh := rfl
@[simp] theorem State.count_hcopy (s : State) (k a b v : Nat) : (s.count k a b v).hcopy = s.hcopy := rfl
@[simp] theorem State.count_hpos (s : State) (k a b v : Nat) : (s.count k a b v).hpos = s.hpos := rfl
@[simp] theorem State.count_wcopy (s : State) (k a b v : Nat) : (s.count k a b v).wcopy = s.wcopy := rfl
@[simp] theorem State.count_spares (s : State) (k a b v : Nat) : (s.count k a b v).spares = s.spares := rfl
@[simp] theorem State.count_shut (s : State) (k a b v : Nat) : (s.count k a b v).shut = s.shut := rfl
@[simp] theorem State.count_fenced (s : State) (k a b v : Nat) : (s.count k a b v).fenced = s.fenced := rfl
@[simp] theorem State.count_tests (s : State) (k a b v : Nat) : (s.count k a b v).tests = s.tests := rfl
@[simp] theorem State.count_flash (s : State) (k a b v : Nat) : (s.count k a b v).flash = s.flash := rfl
@[simp] theorem State.count_opts (s : State) (k a b v : Nat) : (s.count k a b v).opts = s.opts := rfl
@[simp] theorem State.count_fuses (s : State) (k a b v : Nat) : (s.count k a b v).fuses = s.fuses := rfl
@[simp] theorem State.count_jrn (s : State) (k a b v : Nat) : (s.count k a b v).jrn = s.jrn := rfl
@[simp] theorem State.count_run (s : State) (k a b v : Nat) : (s.count k a b v).run = s.run := rfl
@[simp] theorem State.count_boot (s : State) (k a b v : Nat) : (s.count k a b v).boot = s.boot := rfl
@[simp] theorem State.count_sealing (s : State) (k a b v : Nat) : (s.count k a b v).sealing = s.sealing := rfl
@[simp] theorem State.count_trnRep (s : State) (k a b v : Nat) : (s.count k a b v).trnRep = s.trnRep := rfl
@[simp] theorem State.count_rseq (s : State) (k a b v : Nat) : (s.count k a b v).rseq = s.rseq := rfl
@[simp] theorem State.count_pwr (s : State) (k a b v : Nat) : (s.count k a b v).pwr = s.pwr := rfl
@[simp] theorem State.count_mgt (s : State) (k a b v : Nat) : (s.count k a b v).mgt = s.mgt := rfl
@[simp] theorem State.count_free (s : State) (k a b v : Nat) : (s.count k a b v).free = s.free := rfl
@[simp] theorem State.count_out (s : State) (k a b v : Nat) : (s.count k a b v).out = s.out := rfl
@[simp] theorem State.count_arbN (s : State) (k a b v : Nat) (j : Nat) : (s.count k a b v).arbN j = s.arbN j := rfl
@[simp] theorem State.count_casement (s : State) (k a b v : Nat) (j : Nat) : (s.count k a b v).casement j = s.casement j := rfl
@[simp] theorem State.count_lt (s : State) (k a b v : Nat) (j i : Nat) : (s.count k a b v).lt j i = s.lt j i := rfl
@[simp] theorem State.count_tile (s : State) (k a b v : Nat) (j : Nat) : (s.count k a b v).tile j = s.tile j := rfl
@[simp] theorem State.count_fn (s : State) (k a b v : Nat) (j : Nat) : (s.count k a b v).fn j = s.fn j := rfl
@[simp] theorem State.count_port (s : State) (k a b v : Nat) (j : Nat) : (s.count k a b v).port j = s.port j := rfl
@[simp] theorem State.count_fab (s : State) (k a b v : Nat) (j : Nat) : (s.count k a b v).fab j = s.fab j := rfl
@[simp] theorem State.count_lay (s : State) (k a b v : Nat) (j : Nat) : (s.count k a b v).lay j = s.lay j := rfl

/-! ### raise -/

@[simp] theorem State.raise_pending (s : State) (k n : Nat) : (s.raise k n).pending = s.pending := rfl
@[simp] theorem State.raise_staged (s : State) (k n : Nat) : (s.raise k n).staged = s.staged := rfl
@[simp] theorem State.raise_arb (s : State) (k n : Nat) : (s.raise k n).arb = s.arb := rfl
@[simp] theorem State.raise_pane (s : State) (k n : Nat) : (s.raise k n).pane = s.pane := rfl
@[simp] theorem State.raise_scratch (s : State) (k n : Nat) : (s.raise k n).scratch = s.scratch := rfl
@[simp] theorem State.raise_hbm (s : State) (k n : Nat) : (s.raise k n).hbm = s.hbm := rfl
@[simp] theorem State.raise_clines (s : State) (k n : Nat) : (s.raise k n).clines = s.clines := rfl
@[simp] theorem State.raise_cdirty (s : State) (k n : Nat) : (s.raise k n).cdirty = s.cdirty := rfl
@[simp] theorem State.raise_cdata (s : State) (k n : Nat) : (s.raise k n).cdata = s.cdata := rfl
@[simp] theorem State.raise_host (s : State) (k n : Nat) : (s.raise k n).host = s.host := rfl
@[simp] theorem State.raise_hbad (s : State) (k n : Nat) : (s.raise k n).hbad = s.hbad := rfl
@[simp] theorem State.raise_window (s : State) (k n : Nat) : (s.raise k n).window = s.window := rfl
@[simp] theorem State.raise_cas (s : State) (k n : Nat) : (s.raise k n).cas = s.cas := rfl
@[simp] theorem State.raise_lts (s : State) (k n : Nat) : (s.raise k n).lts = s.lts := rfl
@[simp] theorem State.raise_heldPane (s : State) (k n : Nat) : (s.raise k n).heldPane = s.heldPane := rfl
@[simp] theorem State.raise_tiles (s : State) (k n : Nat) : (s.raise k n).tiles = s.tiles := rfl
@[simp] theorem State.raise_fns (s : State) (k n : Nat) : (s.raise k n).fns = s.fns := rfl
@[simp] theorem State.raise_cfgs (s : State) (k n : Nat) : (s.raise k n).cfgs = s.cfgs := rfl
@[simp] theorem State.raise_unlock (s : State) (k n : Nat) : (s.raise k n).unlock = s.unlock := rfl
@[simp] theorem State.raise_ports (s : State) (k n : Nat) : (s.raise k n).ports = s.ports := rfl
@[simp] theorem State.raise_fabs (s : State) (k n : Nat) : (s.raise k n).fabs = s.fabs := rfl
@[simp] theorem State.raise_lays (s : State) (k n : Nat) : (s.raise k n).lays = s.lays := rfl
@[simp] theorem State.raise_louvres (s : State) (k n : Nat) : (s.raise k n).louvres = s.louvres := rfl
@[simp] theorem State.raise_hub (s : State) (k n : Nat) : (s.raise k n).hub = s.hub := rfl
@[simp] theorem State.raise_tscrub (s : State) (k n : Nat) : (s.raise k n).tscrub = s.tscrub := rfl
@[simp] theorem State.raise_hscrub (s : State) (k n : Nat) : (s.raise k n).hscrub = s.hscrub := rfl
@[simp] theorem State.raise_mesh (s : State) (k n : Nat) : (s.raise k n).mesh = s.mesh := rfl
@[simp] theorem State.raise_hcopy (s : State) (k n : Nat) : (s.raise k n).hcopy = s.hcopy := rfl
@[simp] theorem State.raise_hpos (s : State) (k n : Nat) : (s.raise k n).hpos = s.hpos := rfl
@[simp] theorem State.raise_wcopy (s : State) (k n : Nat) : (s.raise k n).wcopy = s.wcopy := rfl
@[simp] theorem State.raise_spares (s : State) (k n : Nat) : (s.raise k n).spares = s.spares := rfl
@[simp] theorem State.raise_shut (s : State) (k n : Nat) : (s.raise k n).shut = s.shut := rfl
@[simp] theorem State.raise_fenced (s : State) (k n : Nat) : (s.raise k n).fenced = s.fenced := rfl
@[simp] theorem State.raise_tests (s : State) (k n : Nat) : (s.raise k n).tests = s.tests := rfl
@[simp] theorem State.raise_flash (s : State) (k n : Nat) : (s.raise k n).flash = s.flash := rfl
@[simp] theorem State.raise_opts (s : State) (k n : Nat) : (s.raise k n).opts = s.opts := rfl
@[simp] theorem State.raise_fuses (s : State) (k n : Nat) : (s.raise k n).fuses = s.fuses := rfl
@[simp] theorem State.raise_jrn (s : State) (k n : Nat) : (s.raise k n).jrn = s.jrn := rfl
@[simp] theorem State.raise_run (s : State) (k n : Nat) : (s.raise k n).run = s.run := rfl
@[simp] theorem State.raise_boot (s : State) (k n : Nat) : (s.raise k n).boot = s.boot := rfl
@[simp] theorem State.raise_sealing (s : State) (k n : Nat) : (s.raise k n).sealing = s.sealing := rfl
@[simp] theorem State.raise_trnRep (s : State) (k n : Nat) : (s.raise k n).trnRep = s.trnRep := rfl
@[simp] theorem State.raise_rseq (s : State) (k n : Nat) : (s.raise k n).rseq = s.rseq := rfl
@[simp] theorem State.raise_pwr (s : State) (k n : Nat) : (s.raise k n).pwr = s.pwr := rfl
@[simp] theorem State.raise_mgt (s : State) (k n : Nat) : (s.raise k n).mgt = s.mgt := rfl
@[simp] theorem State.raise_free (s : State) (k n : Nat) : (s.raise k n).free = s.free := rfl
@[simp] theorem State.raise_out (s : State) (k n : Nat) : (s.raise k n).out = s.out := rfl
@[simp] theorem State.raise_arbN (s : State) (k n : Nat) (j : Nat) : (s.raise k n).arbN j = s.arbN j := rfl
@[simp] theorem State.raise_casement (s : State) (k n : Nat) (j : Nat) : (s.raise k n).casement j = s.casement j := rfl
@[simp] theorem State.raise_lt (s : State) (k n : Nat) (j i : Nat) : (s.raise k n).lt j i = s.lt j i := rfl
@[simp] theorem State.raise_tile (s : State) (k n : Nat) (j : Nat) : (s.raise k n).tile j = s.tile j := rfl
@[simp] theorem State.raise_fn (s : State) (k n : Nat) (j : Nat) : (s.raise k n).fn j = s.fn j := rfl
@[simp] theorem State.raise_port (s : State) (k n : Nat) (j : Nat) : (s.raise k n).port j = s.port j := rfl
@[simp] theorem State.raise_fab (s : State) (k n : Nat) (j : Nat) : (s.raise k n).fab j = s.fab j := rfl
@[simp] theorem State.raise_lay (s : State) (k n : Nat) (j : Nat) : (s.raise k n).lay j = s.lay j := rfl

/-! ### resetRegs -/

@[simp] theorem State.resetRegs_pending (s : State) (a n : Nat) : (s.resetRegs a n).pending = s.pending := rfl
@[simp] theorem State.resetRegs_arb (s : State) (a n : Nat) : (s.resetRegs a n).arb = s.arb := rfl
@[simp] theorem State.resetRegs_pane (s : State) (a n : Nat) : (s.resetRegs a n).pane = s.pane := rfl
@[simp] theorem State.resetRegs_scratch (s : State) (a n : Nat) : (s.resetRegs a n).scratch = s.scratch := rfl
@[simp] theorem State.resetRegs_hbm (s : State) (a n : Nat) : (s.resetRegs a n).hbm = s.hbm := rfl
@[simp] theorem State.resetRegs_clines (s : State) (a n : Nat) : (s.resetRegs a n).clines = s.clines := rfl
@[simp] theorem State.resetRegs_cdirty (s : State) (a n : Nat) : (s.resetRegs a n).cdirty = s.cdirty := rfl
@[simp] theorem State.resetRegs_cdata (s : State) (a n : Nat) : (s.resetRegs a n).cdata = s.cdata := rfl
@[simp] theorem State.resetRegs_host (s : State) (a n : Nat) : (s.resetRegs a n).host = s.host := rfl
@[simp] theorem State.resetRegs_hbad (s : State) (a n : Nat) : (s.resetRegs a n).hbad = s.hbad := rfl
@[simp] theorem State.resetRegs_window (s : State) (a n : Nat) : (s.resetRegs a n).window = s.window := rfl
@[simp] theorem State.resetRegs_cas (s : State) (a n : Nat) : (s.resetRegs a n).cas = s.cas := rfl
@[simp] theorem State.resetRegs_lts (s : State) (a n : Nat) : (s.resetRegs a n).lts = s.lts := rfl
@[simp] theorem State.resetRegs_heldPane (s : State) (a n : Nat) : (s.resetRegs a n).heldPane = s.heldPane := rfl
@[simp] theorem State.resetRegs_tiles (s : State) (a n : Nat) : (s.resetRegs a n).tiles = s.tiles := rfl
@[simp] theorem State.resetRegs_fns (s : State) (a n : Nat) : (s.resetRegs a n).fns = s.fns := rfl
@[simp] theorem State.resetRegs_cfgs (s : State) (a n : Nat) : (s.resetRegs a n).cfgs = s.cfgs := rfl
@[simp] theorem State.resetRegs_unlock (s : State) (a n : Nat) : (s.resetRegs a n).unlock = s.unlock := rfl
@[simp] theorem State.resetRegs_ports (s : State) (a n : Nat) : (s.resetRegs a n).ports = s.ports := rfl
@[simp] theorem State.resetRegs_fabs (s : State) (a n : Nat) : (s.resetRegs a n).fabs = s.fabs := rfl
@[simp] theorem State.resetRegs_lays (s : State) (a n : Nat) : (s.resetRegs a n).lays = s.lays := rfl
@[simp] theorem State.resetRegs_louvres (s : State) (a n : Nat) : (s.resetRegs a n).louvres = s.louvres := rfl
@[simp] theorem State.resetRegs_hub (s : State) (a n : Nat) : (s.resetRegs a n).hub = s.hub := rfl
@[simp] theorem State.resetRegs_tscrub (s : State) (a n : Nat) : (s.resetRegs a n).tscrub = s.tscrub := rfl
@[simp] theorem State.resetRegs_hscrub (s : State) (a n : Nat) : (s.resetRegs a n).hscrub = s.hscrub := rfl
@[simp] theorem State.resetRegs_mesh (s : State) (a n : Nat) : (s.resetRegs a n).mesh = s.mesh := rfl
@[simp] theorem State.resetRegs_hcopy (s : State) (a n : Nat) : (s.resetRegs a n).hcopy = s.hcopy := rfl
@[simp] theorem State.resetRegs_hpos (s : State) (a n : Nat) : (s.resetRegs a n).hpos = s.hpos := rfl
@[simp] theorem State.resetRegs_wcopy (s : State) (a n : Nat) : (s.resetRegs a n).wcopy = s.wcopy := rfl
@[simp] theorem State.resetRegs_spares (s : State) (a n : Nat) : (s.resetRegs a n).spares = s.spares := rfl
@[simp] theorem State.resetRegs_shut (s : State) (a n : Nat) : (s.resetRegs a n).shut = s.shut := rfl
@[simp] theorem State.resetRegs_fenced (s : State) (a n : Nat) : (s.resetRegs a n).fenced = s.fenced := rfl
@[simp] theorem State.resetRegs_tests (s : State) (a n : Nat) : (s.resetRegs a n).tests = s.tests := rfl
@[simp] theorem State.resetRegs_flash (s : State) (a n : Nat) : (s.resetRegs a n).flash = s.flash := rfl
@[simp] theorem State.resetRegs_opts (s : State) (a n : Nat) : (s.resetRegs a n).opts = s.opts := rfl
@[simp] theorem State.resetRegs_fuses (s : State) (a n : Nat) : (s.resetRegs a n).fuses = s.fuses := rfl
@[simp] theorem State.resetRegs_jrn (s : State) (a n : Nat) : (s.resetRegs a n).jrn = s.jrn := rfl
@[simp] theorem State.resetRegs_run (s : State) (a n : Nat) : (s.resetRegs a n).run = s.run := rfl
@[simp] theorem State.resetRegs_boot (s : State) (a n : Nat) : (s.resetRegs a n).boot = s.boot := rfl
@[simp] theorem State.resetRegs_sealing (s : State) (a n : Nat) : (s.resetRegs a n).sealing = s.sealing := rfl
@[simp] theorem State.resetRegs_trnRep (s : State) (a n : Nat) : (s.resetRegs a n).trnRep = s.trnRep := rfl
@[simp] theorem State.resetRegs_rseq (s : State) (a n : Nat) : (s.resetRegs a n).rseq = s.rseq := rfl
@[simp] theorem State.resetRegs_pwr (s : State) (a n : Nat) : (s.resetRegs a n).pwr = s.pwr := rfl
@[simp] theorem State.resetRegs_mgt (s : State) (a n : Nat) : (s.resetRegs a n).mgt = s.mgt := rfl
@[simp] theorem State.resetRegs_free (s : State) (a n : Nat) : (s.resetRegs a n).free = s.free := rfl
@[simp] theorem State.resetRegs_out (s : State) (a n : Nat) : (s.resetRegs a n).out = s.out := rfl
@[simp] theorem State.resetRegs_arbN (s : State) (a n : Nat) (j : Nat) : (s.resetRegs a n).arbN j = s.arbN j := rfl
@[simp] theorem State.resetRegs_casement (s : State) (a n : Nat) (j : Nat) : (s.resetRegs a n).casement j = s.casement j := rfl
@[simp] theorem State.resetRegs_lt (s : State) (a n : Nat) (j i : Nat) : (s.resetRegs a n).lt j i = s.lt j i := rfl
@[simp] theorem State.resetRegs_tile (s : State) (a n : Nat) (j : Nat) : (s.resetRegs a n).tile j = s.tile j := rfl
@[simp] theorem State.resetRegs_fn (s : State) (a n : Nat) (j : Nat) : (s.resetRegs a n).fn j = s.fn j := rfl
@[simp] theorem State.resetRegs_port (s : State) (a n : Nat) (j : Nat) : (s.resetRegs a n).port j = s.port j := rfl
@[simp] theorem State.resetRegs_fab (s : State) (a n : Nat) (j : Nat) : (s.resetRegs a n).fab j = s.fab j := rfl
@[simp] theorem State.resetRegs_lay (s : State) (a n : Nat) (j : Nat) : (s.resetRegs a n).lay j = s.lay j := rfl

/-! ### stage -/

@[simp] theorem State.stage_pending (s : State) (k : Nat) (v : Word) : (s.stage k v).pending = s.pending := rfl
@[simp] theorem State.stage_regs (s : State) (k : Nat) (v : Word) : (s.stage k v).regs = s.regs := rfl
@[simp] theorem State.stage_arb (s : State) (k : Nat) (v : Word) : (s.stage k v).arb = s.arb := rfl
@[simp] theorem State.stage_pane (s : State) (k : Nat) (v : Word) : (s.stage k v).pane = s.pane := rfl
@[simp] theorem State.stage_scratch (s : State) (k : Nat) (v : Word) : (s.stage k v).scratch = s.scratch := rfl
@[simp] theorem State.stage_hbm (s : State) (k : Nat) (v : Word) : (s.stage k v).hbm = s.hbm := rfl
@[simp] theorem State.stage_clines (s : State) (k : Nat) (v : Word) : (s.stage k v).clines = s.clines := rfl
@[simp] theorem State.stage_cdirty (s : State) (k : Nat) (v : Word) : (s.stage k v).cdirty = s.cdirty := rfl
@[simp] theorem State.stage_cdata (s : State) (k : Nat) (v : Word) : (s.stage k v).cdata = s.cdata := rfl
@[simp] theorem State.stage_host (s : State) (k : Nat) (v : Word) : (s.stage k v).host = s.host := rfl
@[simp] theorem State.stage_hbad (s : State) (k : Nat) (v : Word) : (s.stage k v).hbad = s.hbad := rfl
@[simp] theorem State.stage_window (s : State) (k : Nat) (v : Word) : (s.stage k v).window = s.window := rfl
@[simp] theorem State.stage_cas (s : State) (k : Nat) (v : Word) : (s.stage k v).cas = s.cas := rfl
@[simp] theorem State.stage_lts (s : State) (k : Nat) (v : Word) : (s.stage k v).lts = s.lts := rfl
@[simp] theorem State.stage_heldPane (s : State) (k : Nat) (v : Word) : (s.stage k v).heldPane = s.heldPane := rfl
@[simp] theorem State.stage_tiles (s : State) (k : Nat) (v : Word) : (s.stage k v).tiles = s.tiles := rfl
@[simp] theorem State.stage_fns (s : State) (k : Nat) (v : Word) : (s.stage k v).fns = s.fns := rfl
@[simp] theorem State.stage_cfgs (s : State) (k : Nat) (v : Word) : (s.stage k v).cfgs = s.cfgs := rfl
@[simp] theorem State.stage_unlock (s : State) (k : Nat) (v : Word) : (s.stage k v).unlock = s.unlock := rfl
@[simp] theorem State.stage_ports (s : State) (k : Nat) (v : Word) : (s.stage k v).ports = s.ports := rfl
@[simp] theorem State.stage_fabs (s : State) (k : Nat) (v : Word) : (s.stage k v).fabs = s.fabs := rfl
@[simp] theorem State.stage_lays (s : State) (k : Nat) (v : Word) : (s.stage k v).lays = s.lays := rfl
@[simp] theorem State.stage_louvres (s : State) (k : Nat) (v : Word) : (s.stage k v).louvres = s.louvres := rfl
@[simp] theorem State.stage_hub (s : State) (k : Nat) (v : Word) : (s.stage k v).hub = s.hub := rfl
@[simp] theorem State.stage_tscrub (s : State) (k : Nat) (v : Word) : (s.stage k v).tscrub = s.tscrub := rfl
@[simp] theorem State.stage_hscrub (s : State) (k : Nat) (v : Word) : (s.stage k v).hscrub = s.hscrub := rfl
@[simp] theorem State.stage_mesh (s : State) (k : Nat) (v : Word) : (s.stage k v).mesh = s.mesh := rfl
@[simp] theorem State.stage_hcopy (s : State) (k : Nat) (v : Word) : (s.stage k v).hcopy = s.hcopy := rfl
@[simp] theorem State.stage_hpos (s : State) (k : Nat) (v : Word) : (s.stage k v).hpos = s.hpos := rfl
@[simp] theorem State.stage_wcopy (s : State) (k : Nat) (v : Word) : (s.stage k v).wcopy = s.wcopy := rfl
@[simp] theorem State.stage_spares (s : State) (k : Nat) (v : Word) : (s.stage k v).spares = s.spares := rfl
@[simp] theorem State.stage_shut (s : State) (k : Nat) (v : Word) : (s.stage k v).shut = s.shut := rfl
@[simp] theorem State.stage_fenced (s : State) (k : Nat) (v : Word) : (s.stage k v).fenced = s.fenced := rfl
@[simp] theorem State.stage_tests (s : State) (k : Nat) (v : Word) : (s.stage k v).tests = s.tests := rfl
@[simp] theorem State.stage_flash (s : State) (k : Nat) (v : Word) : (s.stage k v).flash = s.flash := rfl
@[simp] theorem State.stage_opts (s : State) (k : Nat) (v : Word) : (s.stage k v).opts = s.opts := rfl
@[simp] theorem State.stage_fuses (s : State) (k : Nat) (v : Word) : (s.stage k v).fuses = s.fuses := rfl
@[simp] theorem State.stage_jrn (s : State) (k : Nat) (v : Word) : (s.stage k v).jrn = s.jrn := rfl
@[simp] theorem State.stage_run (s : State) (k : Nat) (v : Word) : (s.stage k v).run = s.run := rfl
@[simp] theorem State.stage_boot (s : State) (k : Nat) (v : Word) : (s.stage k v).boot = s.boot := rfl
@[simp] theorem State.stage_sealing (s : State) (k : Nat) (v : Word) : (s.stage k v).sealing = s.sealing := rfl
@[simp] theorem State.stage_trnRep (s : State) (k : Nat) (v : Word) : (s.stage k v).trnRep = s.trnRep := rfl
@[simp] theorem State.stage_rseq (s : State) (k : Nat) (v : Word) : (s.stage k v).rseq = s.rseq := rfl
@[simp] theorem State.stage_pwr (s : State) (k : Nat) (v : Word) : (s.stage k v).pwr = s.pwr := rfl
@[simp] theorem State.stage_mgt (s : State) (k : Nat) (v : Word) : (s.stage k v).mgt = s.mgt := rfl
@[simp] theorem State.stage_free (s : State) (k : Nat) (v : Word) : (s.stage k v).free = s.free := rfl
@[simp] theorem State.stage_out (s : State) (k : Nat) (v : Word) : (s.stage k v).out = s.out := rfl
@[simp] theorem State.stage_reg (s : State) (k : Nat) (v : Word) (j : Nat) : (s.stage k v).reg j = s.reg j := rfl
@[simp] theorem State.stage_rf (s : State) (k : Nat) (v : Word) (j h l : Nat) : (s.stage k v).rf j h l = s.rf j h l := rfl
@[simp] theorem State.stage_arbN (s : State) (k : Nat) (v : Word) (j : Nat) : (s.stage k v).arbN j = s.arbN j := rfl
@[simp] theorem State.stage_casement (s : State) (k : Nat) (v : Word) (j : Nat) : (s.stage k v).casement j = s.casement j := rfl
@[simp] theorem State.stage_lt (s : State) (k : Nat) (v : Word) (j i : Nat) : (s.stage k v).lt j i = s.lt j i := rfl
@[simp] theorem State.stage_tile (s : State) (k : Nat) (v : Word) (j : Nat) : (s.stage k v).tile j = s.tile j := rfl
@[simp] theorem State.stage_fn (s : State) (k : Nat) (v : Word) (j : Nat) : (s.stage k v).fn j = s.fn j := rfl
@[simp] theorem State.stage_port (s : State) (k : Nat) (v : Word) (j : Nat) : (s.stage k v).port j = s.port j := rfl
@[simp] theorem State.stage_fab (s : State) (k : Nat) (v : Word) (j : Nat) : (s.stage k v).fab j = s.fab j := rfl
@[simp] theorem State.stage_lay (s : State) (k : Nat) (v : Word) (j : Nat) : (s.stage k v).lay j = s.lay j := rfl

/-! ### grant -/

@[simp] theorem State.grant_pending (s : State) (k : Nat) : (s.grant k).pending = s.pending := rfl
@[simp] theorem State.grant_regs (s : State) (k : Nat) : (s.grant k).regs = s.regs := rfl
@[simp] theorem State.grant_staged (s : State) (k : Nat) : (s.grant k).staged = s.staged := rfl
@[simp] theorem State.grant_pane (s : State) (k : Nat) : (s.grant k).pane = s.pane := rfl
@[simp] theorem State.grant_scratch (s : State) (k : Nat) : (s.grant k).scratch = s.scratch := rfl
@[simp] theorem State.grant_hbm (s : State) (k : Nat) : (s.grant k).hbm = s.hbm := rfl
@[simp] theorem State.grant_clines (s : State) (k : Nat) : (s.grant k).clines = s.clines := rfl
@[simp] theorem State.grant_cdirty (s : State) (k : Nat) : (s.grant k).cdirty = s.cdirty := rfl
@[simp] theorem State.grant_cdata (s : State) (k : Nat) : (s.grant k).cdata = s.cdata := rfl
@[simp] theorem State.grant_host (s : State) (k : Nat) : (s.grant k).host = s.host := rfl
@[simp] theorem State.grant_hbad (s : State) (k : Nat) : (s.grant k).hbad = s.hbad := rfl
@[simp] theorem State.grant_window (s : State) (k : Nat) : (s.grant k).window = s.window := rfl
@[simp] theorem State.grant_cas (s : State) (k : Nat) : (s.grant k).cas = s.cas := rfl
@[simp] theorem State.grant_lts (s : State) (k : Nat) : (s.grant k).lts = s.lts := rfl
@[simp] theorem State.grant_heldPane (s : State) (k : Nat) : (s.grant k).heldPane = s.heldPane := rfl
@[simp] theorem State.grant_tiles (s : State) (k : Nat) : (s.grant k).tiles = s.tiles := rfl
@[simp] theorem State.grant_fns (s : State) (k : Nat) : (s.grant k).fns = s.fns := rfl
@[simp] theorem State.grant_cfgs (s : State) (k : Nat) : (s.grant k).cfgs = s.cfgs := rfl
@[simp] theorem State.grant_unlock (s : State) (k : Nat) : (s.grant k).unlock = s.unlock := rfl
@[simp] theorem State.grant_ports (s : State) (k : Nat) : (s.grant k).ports = s.ports := rfl
@[simp] theorem State.grant_fabs (s : State) (k : Nat) : (s.grant k).fabs = s.fabs := rfl
@[simp] theorem State.grant_lays (s : State) (k : Nat) : (s.grant k).lays = s.lays := rfl
@[simp] theorem State.grant_louvres (s : State) (k : Nat) : (s.grant k).louvres = s.louvres := rfl
@[simp] theorem State.grant_hub (s : State) (k : Nat) : (s.grant k).hub = s.hub := rfl
@[simp] theorem State.grant_tscrub (s : State) (k : Nat) : (s.grant k).tscrub = s.tscrub := rfl
@[simp] theorem State.grant_hscrub (s : State) (k : Nat) : (s.grant k).hscrub = s.hscrub := rfl
@[simp] theorem State.grant_mesh (s : State) (k : Nat) : (s.grant k).mesh = s.mesh := rfl
@[simp] theorem State.grant_hcopy (s : State) (k : Nat) : (s.grant k).hcopy = s.hcopy := rfl
@[simp] theorem State.grant_hpos (s : State) (k : Nat) : (s.grant k).hpos = s.hpos := rfl
@[simp] theorem State.grant_wcopy (s : State) (k : Nat) : (s.grant k).wcopy = s.wcopy := rfl
@[simp] theorem State.grant_spares (s : State) (k : Nat) : (s.grant k).spares = s.spares := rfl
@[simp] theorem State.grant_shut (s : State) (k : Nat) : (s.grant k).shut = s.shut := rfl
@[simp] theorem State.grant_fenced (s : State) (k : Nat) : (s.grant k).fenced = s.fenced := rfl
@[simp] theorem State.grant_tests (s : State) (k : Nat) : (s.grant k).tests = s.tests := rfl
@[simp] theorem State.grant_flash (s : State) (k : Nat) : (s.grant k).flash = s.flash := rfl
@[simp] theorem State.grant_opts (s : State) (k : Nat) : (s.grant k).opts = s.opts := rfl
@[simp] theorem State.grant_fuses (s : State) (k : Nat) : (s.grant k).fuses = s.fuses := rfl
@[simp] theorem State.grant_jrn (s : State) (k : Nat) : (s.grant k).jrn = s.jrn := rfl
@[simp] theorem State.grant_run (s : State) (k : Nat) : (s.grant k).run = s.run := rfl
@[simp] theorem State.grant_boot (s : State) (k : Nat) : (s.grant k).boot = s.boot := rfl
@[simp] theorem State.grant_sealing (s : State) (k : Nat) : (s.grant k).sealing = s.sealing := rfl
@[simp] theorem State.grant_trnRep (s : State) (k : Nat) : (s.grant k).trnRep = s.trnRep := rfl
@[simp] theorem State.grant_rseq (s : State) (k : Nat) : (s.grant k).rseq = s.rseq := rfl
@[simp] theorem State.grant_pwr (s : State) (k : Nat) : (s.grant k).pwr = s.pwr := rfl
@[simp] theorem State.grant_mgt (s : State) (k : Nat) : (s.grant k).mgt = s.mgt := rfl
@[simp] theorem State.grant_free (s : State) (k : Nat) : (s.grant k).free = s.free := rfl
@[simp] theorem State.grant_out (s : State) (k : Nat) : (s.grant k).out = s.out := rfl
@[simp] theorem State.grant_reg (s : State) (k : Nat) (j : Nat) : (s.grant k).reg j = s.reg j := rfl
@[simp] theorem State.grant_rf (s : State) (k : Nat) (j h l : Nat) : (s.grant k).rf j h l = s.rf j h l := rfl
@[simp] theorem State.grant_casement (s : State) (k : Nat) (j : Nat) : (s.grant k).casement j = s.casement j := rfl
@[simp] theorem State.grant_lt (s : State) (k : Nat) (j i : Nat) : (s.grant k).lt j i = s.lt j i := rfl
@[simp] theorem State.grant_tile (s : State) (k : Nat) (j : Nat) : (s.grant k).tile j = s.tile j := rfl
@[simp] theorem State.grant_fn (s : State) (k : Nat) (j : Nat) : (s.grant k).fn j = s.fn j := rfl
@[simp] theorem State.grant_port (s : State) (k : Nat) (j : Nat) : (s.grant k).port j = s.port j := rfl
@[simp] theorem State.grant_fab (s : State) (k : Nat) (j : Nat) : (s.grant k).fab j = s.fab j := rfl
@[simp] theorem State.grant_lay (s : State) (k : Nat) (j : Nat) : (s.grant k).lay j = s.lay j := rfl

/-! ### setCas -/

@[simp] theorem State.setCas_pending (s : State) (k : Nat) (x : Cas) : (s.setCas k x).pending = s.pending := rfl
@[simp] theorem State.setCas_regs (s : State) (k : Nat) (x : Cas) : (s.setCas k x).regs = s.regs := rfl
@[simp] theorem State.setCas_staged (s : State) (k : Nat) (x : Cas) : (s.setCas k x).staged = s.staged := rfl
@[simp] theorem State.setCas_arb (s : State) (k : Nat) (x : Cas) : (s.setCas k x).arb = s.arb := rfl
@[simp] theorem State.setCas_pane (s : State) (k : Nat) (x : Cas) : (s.setCas k x).pane = s.pane := rfl
@[simp] theorem State.setCas_scratch (s : State) (k : Nat) (x : Cas) : (s.setCas k x).scratch = s.scratch := rfl
@[simp] theorem State.setCas_hbm (s : State) (k : Nat) (x : Cas) : (s.setCas k x).hbm = s.hbm := rfl
@[simp] theorem State.setCas_clines (s : State) (k : Nat) (x : Cas) : (s.setCas k x).clines = s.clines := rfl
@[simp] theorem State.setCas_cdirty (s : State) (k : Nat) (x : Cas) : (s.setCas k x).cdirty = s.cdirty := rfl
@[simp] theorem State.setCas_cdata (s : State) (k : Nat) (x : Cas) : (s.setCas k x).cdata = s.cdata := rfl
@[simp] theorem State.setCas_host (s : State) (k : Nat) (x : Cas) : (s.setCas k x).host = s.host := rfl
@[simp] theorem State.setCas_hbad (s : State) (k : Nat) (x : Cas) : (s.setCas k x).hbad = s.hbad := rfl
@[simp] theorem State.setCas_window (s : State) (k : Nat) (x : Cas) : (s.setCas k x).window = s.window := rfl
@[simp] theorem State.setCas_lts (s : State) (k : Nat) (x : Cas) : (s.setCas k x).lts = s.lts := rfl
@[simp] theorem State.setCas_heldPane (s : State) (k : Nat) (x : Cas) : (s.setCas k x).heldPane = s.heldPane := rfl
@[simp] theorem State.setCas_tiles (s : State) (k : Nat) (x : Cas) : (s.setCas k x).tiles = s.tiles := rfl
@[simp] theorem State.setCas_fns (s : State) (k : Nat) (x : Cas) : (s.setCas k x).fns = s.fns := rfl
@[simp] theorem State.setCas_cfgs (s : State) (k : Nat) (x : Cas) : (s.setCas k x).cfgs = s.cfgs := rfl
@[simp] theorem State.setCas_unlock (s : State) (k : Nat) (x : Cas) : (s.setCas k x).unlock = s.unlock := rfl
@[simp] theorem State.setCas_ports (s : State) (k : Nat) (x : Cas) : (s.setCas k x).ports = s.ports := rfl
@[simp] theorem State.setCas_fabs (s : State) (k : Nat) (x : Cas) : (s.setCas k x).fabs = s.fabs := rfl
@[simp] theorem State.setCas_lays (s : State) (k : Nat) (x : Cas) : (s.setCas k x).lays = s.lays := rfl
@[simp] theorem State.setCas_louvres (s : State) (k : Nat) (x : Cas) : (s.setCas k x).louvres = s.louvres := rfl
@[simp] theorem State.setCas_hub (s : State) (k : Nat) (x : Cas) : (s.setCas k x).hub = s.hub := rfl
@[simp] theorem State.setCas_tscrub (s : State) (k : Nat) (x : Cas) : (s.setCas k x).tscrub = s.tscrub := rfl
@[simp] theorem State.setCas_hscrub (s : State) (k : Nat) (x : Cas) : (s.setCas k x).hscrub = s.hscrub := rfl
@[simp] theorem State.setCas_mesh (s : State) (k : Nat) (x : Cas) : (s.setCas k x).mesh = s.mesh := rfl
@[simp] theorem State.setCas_hcopy (s : State) (k : Nat) (x : Cas) : (s.setCas k x).hcopy = s.hcopy := rfl
@[simp] theorem State.setCas_hpos (s : State) (k : Nat) (x : Cas) : (s.setCas k x).hpos = s.hpos := rfl
@[simp] theorem State.setCas_wcopy (s : State) (k : Nat) (x : Cas) : (s.setCas k x).wcopy = s.wcopy := rfl
@[simp] theorem State.setCas_spares (s : State) (k : Nat) (x : Cas) : (s.setCas k x).spares = s.spares := rfl
@[simp] theorem State.setCas_shut (s : State) (k : Nat) (x : Cas) : (s.setCas k x).shut = s.shut := rfl
@[simp] theorem State.setCas_fenced (s : State) (k : Nat) (x : Cas) : (s.setCas k x).fenced = s.fenced := rfl
@[simp] theorem State.setCas_tests (s : State) (k : Nat) (x : Cas) : (s.setCas k x).tests = s.tests := rfl
@[simp] theorem State.setCas_flash (s : State) (k : Nat) (x : Cas) : (s.setCas k x).flash = s.flash := rfl
@[simp] theorem State.setCas_opts (s : State) (k : Nat) (x : Cas) : (s.setCas k x).opts = s.opts := rfl
@[simp] theorem State.setCas_fuses (s : State) (k : Nat) (x : Cas) : (s.setCas k x).fuses = s.fuses := rfl
@[simp] theorem State.setCas_jrn (s : State) (k : Nat) (x : Cas) : (s.setCas k x).jrn = s.jrn := rfl
@[simp] theorem State.setCas_run (s : State) (k : Nat) (x : Cas) : (s.setCas k x).run = s.run := rfl
@[simp] theorem State.setCas_boot (s : State) (k : Nat) (x : Cas) : (s.setCas k x).boot = s.boot := rfl
@[simp] theorem State.setCas_sealing (s : State) (k : Nat) (x : Cas) : (s.setCas k x).sealing = s.sealing := rfl
@[simp] theorem State.setCas_trnRep (s : State) (k : Nat) (x : Cas) : (s.setCas k x).trnRep = s.trnRep := rfl
@[simp] theorem State.setCas_rseq (s : State) (k : Nat) (x : Cas) : (s.setCas k x).rseq = s.rseq := rfl
@[simp] theorem State.setCas_pwr (s : State) (k : Nat) (x : Cas) : (s.setCas k x).pwr = s.pwr := rfl
@[simp] theorem State.setCas_mgt (s : State) (k : Nat) (x : Cas) : (s.setCas k x).mgt = s.mgt := rfl
@[simp] theorem State.setCas_free (s : State) (k : Nat) (x : Cas) : (s.setCas k x).free = s.free := rfl
@[simp] theorem State.setCas_out (s : State) (k : Nat) (x : Cas) : (s.setCas k x).out = s.out := rfl
@[simp] theorem State.setCas_reg (s : State) (k : Nat) (x : Cas) (j : Nat) : (s.setCas k x).reg j = s.reg j := rfl
@[simp] theorem State.setCas_rf (s : State) (k : Nat) (x : Cas) (j h l : Nat) : (s.setCas k x).rf j h l = s.rf j h l := rfl
@[simp] theorem State.setCas_arbN (s : State) (k : Nat) (x : Cas) (j : Nat) : (s.setCas k x).arbN j = s.arbN j := rfl
@[simp] theorem State.setCas_lt (s : State) (k : Nat) (x : Cas) (j i : Nat) : (s.setCas k x).lt j i = s.lt j i := rfl
@[simp] theorem State.setCas_tile (s : State) (k : Nat) (x : Cas) (j : Nat) : (s.setCas k x).tile j = s.tile j := rfl
@[simp] theorem State.setCas_fn (s : State) (k : Nat) (x : Cas) (j : Nat) : (s.setCas k x).fn j = s.fn j := rfl
@[simp] theorem State.setCas_port (s : State) (k : Nat) (x : Cas) (j : Nat) : (s.setCas k x).port j = s.port j := rfl
@[simp] theorem State.setCas_fab (s : State) (k : Nat) (x : Cas) (j : Nat) : (s.setCas k x).fab j = s.fab j := rfl
@[simp] theorem State.setCas_lay (s : State) (k : Nat) (x : Cas) (j : Nat) : (s.setCas k x).lay j = s.lay j := rfl

/-! ### setLt -/

@[simp] theorem State.setLt_pending (s : State) (k n : Nat) (x : LTile) : (s.setLt k n x).pending = s.pending := rfl
@[simp] theorem State.setLt_regs (s : State) (k n : Nat) (x : LTile) : (s.setLt k n x).regs = s.regs := rfl
@[simp] theorem State.setLt_staged (s : State) (k n : Nat) (x : LTile) : (s.setLt k n x).staged = s.staged := rfl
@[simp] theorem State.setLt_arb (s : State) (k n : Nat) (x : LTile) : (s.setLt k n x).arb = s.arb := rfl
@[simp] theorem State.setLt_pane (s : State) (k n : Nat) (x : LTile) : (s.setLt k n x).pane = s.pane := rfl
@[simp] theorem State.setLt_scratch (s : State) (k n : Nat) (x : LTile) : (s.setLt k n x).scratch = s.scratch := rfl
@[simp] theorem State.setLt_hbm (s : State) (k n : Nat) (x : LTile) : (s.setLt k n x).hbm = s.hbm := rfl
@[simp] theorem State.setLt_clines (s : State) (k n : Nat) (x : LTile) : (s.setLt k n x).clines = s.clines := rfl
@[simp] theorem State.setLt_cdirty (s : State) (k n : Nat) (x : LTile) : (s.setLt k n x).cdirty = s.cdirty := rfl
@[simp] theorem State.setLt_cdata (s : State) (k n : Nat) (x : LTile) : (s.setLt k n x).cdata = s.cdata := rfl
@[simp] theorem State.setLt_host (s : State) (k n : Nat) (x : LTile) : (s.setLt k n x).host = s.host := rfl
@[simp] theorem State.setLt_hbad (s : State) (k n : Nat) (x : LTile) : (s.setLt k n x).hbad = s.hbad := rfl
@[simp] theorem State.setLt_window (s : State) (k n : Nat) (x : LTile) : (s.setLt k n x).window = s.window := rfl
@[simp] theorem State.setLt_cas (s : State) (k n : Nat) (x : LTile) : (s.setLt k n x).cas = s.cas := rfl
@[simp] theorem State.setLt_heldPane (s : State) (k n : Nat) (x : LTile) : (s.setLt k n x).heldPane = s.heldPane := rfl
@[simp] theorem State.setLt_tiles (s : State) (k n : Nat) (x : LTile) : (s.setLt k n x).tiles = s.tiles := rfl
@[simp] theorem State.setLt_fns (s : State) (k n : Nat) (x : LTile) : (s.setLt k n x).fns = s.fns := rfl
@[simp] theorem State.setLt_cfgs (s : State) (k n : Nat) (x : LTile) : (s.setLt k n x).cfgs = s.cfgs := rfl
@[simp] theorem State.setLt_unlock (s : State) (k n : Nat) (x : LTile) : (s.setLt k n x).unlock = s.unlock := rfl
@[simp] theorem State.setLt_ports (s : State) (k n : Nat) (x : LTile) : (s.setLt k n x).ports = s.ports := rfl
@[simp] theorem State.setLt_fabs (s : State) (k n : Nat) (x : LTile) : (s.setLt k n x).fabs = s.fabs := rfl
@[simp] theorem State.setLt_lays (s : State) (k n : Nat) (x : LTile) : (s.setLt k n x).lays = s.lays := rfl
@[simp] theorem State.setLt_louvres (s : State) (k n : Nat) (x : LTile) : (s.setLt k n x).louvres = s.louvres := rfl
@[simp] theorem State.setLt_hub (s : State) (k n : Nat) (x : LTile) : (s.setLt k n x).hub = s.hub := rfl
@[simp] theorem State.setLt_tscrub (s : State) (k n : Nat) (x : LTile) : (s.setLt k n x).tscrub = s.tscrub := rfl
@[simp] theorem State.setLt_hscrub (s : State) (k n : Nat) (x : LTile) : (s.setLt k n x).hscrub = s.hscrub := rfl
@[simp] theorem State.setLt_mesh (s : State) (k n : Nat) (x : LTile) : (s.setLt k n x).mesh = s.mesh := rfl
@[simp] theorem State.setLt_hcopy (s : State) (k n : Nat) (x : LTile) : (s.setLt k n x).hcopy = s.hcopy := rfl
@[simp] theorem State.setLt_hpos (s : State) (k n : Nat) (x : LTile) : (s.setLt k n x).hpos = s.hpos := rfl
@[simp] theorem State.setLt_wcopy (s : State) (k n : Nat) (x : LTile) : (s.setLt k n x).wcopy = s.wcopy := rfl
@[simp] theorem State.setLt_spares (s : State) (k n : Nat) (x : LTile) : (s.setLt k n x).spares = s.spares := rfl
@[simp] theorem State.setLt_shut (s : State) (k n : Nat) (x : LTile) : (s.setLt k n x).shut = s.shut := rfl
@[simp] theorem State.setLt_fenced (s : State) (k n : Nat) (x : LTile) : (s.setLt k n x).fenced = s.fenced := rfl
@[simp] theorem State.setLt_tests (s : State) (k n : Nat) (x : LTile) : (s.setLt k n x).tests = s.tests := rfl
@[simp] theorem State.setLt_flash (s : State) (k n : Nat) (x : LTile) : (s.setLt k n x).flash = s.flash := rfl
@[simp] theorem State.setLt_opts (s : State) (k n : Nat) (x : LTile) : (s.setLt k n x).opts = s.opts := rfl
@[simp] theorem State.setLt_fuses (s : State) (k n : Nat) (x : LTile) : (s.setLt k n x).fuses = s.fuses := rfl
@[simp] theorem State.setLt_jrn (s : State) (k n : Nat) (x : LTile) : (s.setLt k n x).jrn = s.jrn := rfl
@[simp] theorem State.setLt_run (s : State) (k n : Nat) (x : LTile) : (s.setLt k n x).run = s.run := rfl
@[simp] theorem State.setLt_boot (s : State) (k n : Nat) (x : LTile) : (s.setLt k n x).boot = s.boot := rfl
@[simp] theorem State.setLt_sealing (s : State) (k n : Nat) (x : LTile) : (s.setLt k n x).sealing = s.sealing := rfl
@[simp] theorem State.setLt_trnRep (s : State) (k n : Nat) (x : LTile) : (s.setLt k n x).trnRep = s.trnRep := rfl
@[simp] theorem State.setLt_rseq (s : State) (k n : Nat) (x : LTile) : (s.setLt k n x).rseq = s.rseq := rfl
@[simp] theorem State.setLt_pwr (s : State) (k n : Nat) (x : LTile) : (s.setLt k n x).pwr = s.pwr := rfl
@[simp] theorem State.setLt_mgt (s : State) (k n : Nat) (x : LTile) : (s.setLt k n x).mgt = s.mgt := rfl
@[simp] theorem State.setLt_free (s : State) (k n : Nat) (x : LTile) : (s.setLt k n x).free = s.free := rfl
@[simp] theorem State.setLt_out (s : State) (k n : Nat) (x : LTile) : (s.setLt k n x).out = s.out := rfl
@[simp] theorem State.setLt_reg (s : State) (k n : Nat) (x : LTile) (j : Nat) : (s.setLt k n x).reg j = s.reg j := rfl
@[simp] theorem State.setLt_rf (s : State) (k n : Nat) (x : LTile) (j h l : Nat) : (s.setLt k n x).rf j h l = s.rf j h l := rfl
@[simp] theorem State.setLt_arbN (s : State) (k n : Nat) (x : LTile) (j : Nat) : (s.setLt k n x).arbN j = s.arbN j := rfl
@[simp] theorem State.setLt_casement (s : State) (k n : Nat) (x : LTile) (j : Nat) : (s.setLt k n x).casement j = s.casement j := rfl
@[simp] theorem State.setLt_tile (s : State) (k n : Nat) (x : LTile) (j : Nat) : (s.setLt k n x).tile j = s.tile j := rfl
@[simp] theorem State.setLt_fn (s : State) (k n : Nat) (x : LTile) (j : Nat) : (s.setLt k n x).fn j = s.fn j := rfl
@[simp] theorem State.setLt_port (s : State) (k n : Nat) (x : LTile) (j : Nat) : (s.setLt k n x).port j = s.port j := rfl
@[simp] theorem State.setLt_fab (s : State) (k n : Nat) (x : LTile) (j : Nat) : (s.setLt k n x).fab j = s.fab j := rfl
@[simp] theorem State.setLt_lay (s : State) (k n : Nat) (x : LTile) (j : Nat) : (s.setLt k n x).lay j = s.lay j := rfl

/-! ### setTile -/

@[simp] theorem State.setTile_pending (s : State) (k : Nat) (x : PTile) : (s.setTile k x).pending = s.pending := rfl
@[simp] theorem State.setTile_regs (s : State) (k : Nat) (x : PTile) : (s.setTile k x).regs = s.regs := rfl
@[simp] theorem State.setTile_staged (s : State) (k : Nat) (x : PTile) : (s.setTile k x).staged = s.staged := rfl
@[simp] theorem State.setTile_arb (s : State) (k : Nat) (x : PTile) : (s.setTile k x).arb = s.arb := rfl
@[simp] theorem State.setTile_pane (s : State) (k : Nat) (x : PTile) : (s.setTile k x).pane = s.pane := rfl
@[simp] theorem State.setTile_scratch (s : State) (k : Nat) (x : PTile) : (s.setTile k x).scratch = s.scratch := rfl
@[simp] theorem State.setTile_hbm (s : State) (k : Nat) (x : PTile) : (s.setTile k x).hbm = s.hbm := rfl
@[simp] theorem State.setTile_clines (s : State) (k : Nat) (x : PTile) : (s.setTile k x).clines = s.clines := rfl
@[simp] theorem State.setTile_cdirty (s : State) (k : Nat) (x : PTile) : (s.setTile k x).cdirty = s.cdirty := rfl
@[simp] theorem State.setTile_cdata (s : State) (k : Nat) (x : PTile) : (s.setTile k x).cdata = s.cdata := rfl
@[simp] theorem State.setTile_host (s : State) (k : Nat) (x : PTile) : (s.setTile k x).host = s.host := rfl
@[simp] theorem State.setTile_hbad (s : State) (k : Nat) (x : PTile) : (s.setTile k x).hbad = s.hbad := rfl
@[simp] theorem State.setTile_window (s : State) (k : Nat) (x : PTile) : (s.setTile k x).window = s.window := rfl
@[simp] theorem State.setTile_cas (s : State) (k : Nat) (x : PTile) : (s.setTile k x).cas = s.cas := rfl
@[simp] theorem State.setTile_lts (s : State) (k : Nat) (x : PTile) : (s.setTile k x).lts = s.lts := rfl
@[simp] theorem State.setTile_heldPane (s : State) (k : Nat) (x : PTile) : (s.setTile k x).heldPane = s.heldPane := rfl
@[simp] theorem State.setTile_fns (s : State) (k : Nat) (x : PTile) : (s.setTile k x).fns = s.fns := rfl
@[simp] theorem State.setTile_cfgs (s : State) (k : Nat) (x : PTile) : (s.setTile k x).cfgs = s.cfgs := rfl
@[simp] theorem State.setTile_unlock (s : State) (k : Nat) (x : PTile) : (s.setTile k x).unlock = s.unlock := rfl
@[simp] theorem State.setTile_ports (s : State) (k : Nat) (x : PTile) : (s.setTile k x).ports = s.ports := rfl
@[simp] theorem State.setTile_fabs (s : State) (k : Nat) (x : PTile) : (s.setTile k x).fabs = s.fabs := rfl
@[simp] theorem State.setTile_lays (s : State) (k : Nat) (x : PTile) : (s.setTile k x).lays = s.lays := rfl
@[simp] theorem State.setTile_louvres (s : State) (k : Nat) (x : PTile) : (s.setTile k x).louvres = s.louvres := rfl
@[simp] theorem State.setTile_hub (s : State) (k : Nat) (x : PTile) : (s.setTile k x).hub = s.hub := rfl
@[simp] theorem State.setTile_tscrub (s : State) (k : Nat) (x : PTile) : (s.setTile k x).tscrub = s.tscrub := rfl
@[simp] theorem State.setTile_hscrub (s : State) (k : Nat) (x : PTile) : (s.setTile k x).hscrub = s.hscrub := rfl
@[simp] theorem State.setTile_mesh (s : State) (k : Nat) (x : PTile) : (s.setTile k x).mesh = s.mesh := rfl
@[simp] theorem State.setTile_hcopy (s : State) (k : Nat) (x : PTile) : (s.setTile k x).hcopy = s.hcopy := rfl
@[simp] theorem State.setTile_hpos (s : State) (k : Nat) (x : PTile) : (s.setTile k x).hpos = s.hpos := rfl
@[simp] theorem State.setTile_wcopy (s : State) (k : Nat) (x : PTile) : (s.setTile k x).wcopy = s.wcopy := rfl
@[simp] theorem State.setTile_spares (s : State) (k : Nat) (x : PTile) : (s.setTile k x).spares = s.spares := rfl
@[simp] theorem State.setTile_shut (s : State) (k : Nat) (x : PTile) : (s.setTile k x).shut = s.shut := rfl
@[simp] theorem State.setTile_fenced (s : State) (k : Nat) (x : PTile) : (s.setTile k x).fenced = s.fenced := rfl
@[simp] theorem State.setTile_tests (s : State) (k : Nat) (x : PTile) : (s.setTile k x).tests = s.tests := rfl
@[simp] theorem State.setTile_flash (s : State) (k : Nat) (x : PTile) : (s.setTile k x).flash = s.flash := rfl
@[simp] theorem State.setTile_opts (s : State) (k : Nat) (x : PTile) : (s.setTile k x).opts = s.opts := rfl
@[simp] theorem State.setTile_fuses (s : State) (k : Nat) (x : PTile) : (s.setTile k x).fuses = s.fuses := rfl
@[simp] theorem State.setTile_jrn (s : State) (k : Nat) (x : PTile) : (s.setTile k x).jrn = s.jrn := rfl
@[simp] theorem State.setTile_run (s : State) (k : Nat) (x : PTile) : (s.setTile k x).run = s.run := rfl
@[simp] theorem State.setTile_boot (s : State) (k : Nat) (x : PTile) : (s.setTile k x).boot = s.boot := rfl
@[simp] theorem State.setTile_sealing (s : State) (k : Nat) (x : PTile) : (s.setTile k x).sealing = s.sealing := rfl
@[simp] theorem State.setTile_trnRep (s : State) (k : Nat) (x : PTile) : (s.setTile k x).trnRep = s.trnRep := rfl
@[simp] theorem State.setTile_rseq (s : State) (k : Nat) (x : PTile) : (s.setTile k x).rseq = s.rseq := rfl
@[simp] theorem State.setTile_pwr (s : State) (k : Nat) (x : PTile) : (s.setTile k x).pwr = s.pwr := rfl
@[simp] theorem State.setTile_mgt (s : State) (k : Nat) (x : PTile) : (s.setTile k x).mgt = s.mgt := rfl
@[simp] theorem State.setTile_free (s : State) (k : Nat) (x : PTile) : (s.setTile k x).free = s.free := rfl
@[simp] theorem State.setTile_out (s : State) (k : Nat) (x : PTile) : (s.setTile k x).out = s.out := rfl
@[simp] theorem State.setTile_reg (s : State) (k : Nat) (x : PTile) (j : Nat) : (s.setTile k x).reg j = s.reg j := rfl
@[simp] theorem State.setTile_rf (s : State) (k : Nat) (x : PTile) (j h l : Nat) : (s.setTile k x).rf j h l = s.rf j h l := rfl
@[simp] theorem State.setTile_arbN (s : State) (k : Nat) (x : PTile) (j : Nat) : (s.setTile k x).arbN j = s.arbN j := rfl
@[simp] theorem State.setTile_casement (s : State) (k : Nat) (x : PTile) (j : Nat) : (s.setTile k x).casement j = s.casement j := rfl
@[simp] theorem State.setTile_lt (s : State) (k : Nat) (x : PTile) (j i : Nat) : (s.setTile k x).lt j i = s.lt j i := rfl
@[simp] theorem State.setTile_fn (s : State) (k : Nat) (x : PTile) (j : Nat) : (s.setTile k x).fn j = s.fn j := rfl
@[simp] theorem State.setTile_port (s : State) (k : Nat) (x : PTile) (j : Nat) : (s.setTile k x).port j = s.port j := rfl
@[simp] theorem State.setTile_fab (s : State) (k : Nat) (x : PTile) (j : Nat) : (s.setTile k x).fab j = s.fab j := rfl
@[simp] theorem State.setTile_lay (s : State) (k : Nat) (x : PTile) (j : Nat) : (s.setTile k x).lay j = s.lay j := rfl

/-! ### setFn -/

@[simp] theorem State.setFn_pending (s : State) (k : Nat) (x : FnSt) : (s.setFn k x).pending = s.pending := rfl
@[simp] theorem State.setFn_regs (s : State) (k : Nat) (x : FnSt) : (s.setFn k x).regs = s.regs := rfl
@[simp] theorem State.setFn_staged (s : State) (k : Nat) (x : FnSt) : (s.setFn k x).staged = s.staged := rfl
@[simp] theorem State.setFn_arb (s : State) (k : Nat) (x : FnSt) : (s.setFn k x).arb = s.arb := rfl
@[simp] theorem State.setFn_pane (s : State) (k : Nat) (x : FnSt) : (s.setFn k x).pane = s.pane := rfl
@[simp] theorem State.setFn_scratch (s : State) (k : Nat) (x : FnSt) : (s.setFn k x).scratch = s.scratch := rfl
@[simp] theorem State.setFn_hbm (s : State) (k : Nat) (x : FnSt) : (s.setFn k x).hbm = s.hbm := rfl
@[simp] theorem State.setFn_clines (s : State) (k : Nat) (x : FnSt) : (s.setFn k x).clines = s.clines := rfl
@[simp] theorem State.setFn_cdirty (s : State) (k : Nat) (x : FnSt) : (s.setFn k x).cdirty = s.cdirty := rfl
@[simp] theorem State.setFn_cdata (s : State) (k : Nat) (x : FnSt) : (s.setFn k x).cdata = s.cdata := rfl
@[simp] theorem State.setFn_host (s : State) (k : Nat) (x : FnSt) : (s.setFn k x).host = s.host := rfl
@[simp] theorem State.setFn_hbad (s : State) (k : Nat) (x : FnSt) : (s.setFn k x).hbad = s.hbad := rfl
@[simp] theorem State.setFn_window (s : State) (k : Nat) (x : FnSt) : (s.setFn k x).window = s.window := rfl
@[simp] theorem State.setFn_cas (s : State) (k : Nat) (x : FnSt) : (s.setFn k x).cas = s.cas := rfl
@[simp] theorem State.setFn_lts (s : State) (k : Nat) (x : FnSt) : (s.setFn k x).lts = s.lts := rfl
@[simp] theorem State.setFn_heldPane (s : State) (k : Nat) (x : FnSt) : (s.setFn k x).heldPane = s.heldPane := rfl
@[simp] theorem State.setFn_tiles (s : State) (k : Nat) (x : FnSt) : (s.setFn k x).tiles = s.tiles := rfl
@[simp] theorem State.setFn_cfgs (s : State) (k : Nat) (x : FnSt) : (s.setFn k x).cfgs = s.cfgs := rfl
@[simp] theorem State.setFn_unlock (s : State) (k : Nat) (x : FnSt) : (s.setFn k x).unlock = s.unlock := rfl
@[simp] theorem State.setFn_ports (s : State) (k : Nat) (x : FnSt) : (s.setFn k x).ports = s.ports := rfl
@[simp] theorem State.setFn_fabs (s : State) (k : Nat) (x : FnSt) : (s.setFn k x).fabs = s.fabs := rfl
@[simp] theorem State.setFn_lays (s : State) (k : Nat) (x : FnSt) : (s.setFn k x).lays = s.lays := rfl
@[simp] theorem State.setFn_louvres (s : State) (k : Nat) (x : FnSt) : (s.setFn k x).louvres = s.louvres := rfl
@[simp] theorem State.setFn_hub (s : State) (k : Nat) (x : FnSt) : (s.setFn k x).hub = s.hub := rfl
@[simp] theorem State.setFn_tscrub (s : State) (k : Nat) (x : FnSt) : (s.setFn k x).tscrub = s.tscrub := rfl
@[simp] theorem State.setFn_hscrub (s : State) (k : Nat) (x : FnSt) : (s.setFn k x).hscrub = s.hscrub := rfl
@[simp] theorem State.setFn_mesh (s : State) (k : Nat) (x : FnSt) : (s.setFn k x).mesh = s.mesh := rfl
@[simp] theorem State.setFn_hcopy (s : State) (k : Nat) (x : FnSt) : (s.setFn k x).hcopy = s.hcopy := rfl
@[simp] theorem State.setFn_hpos (s : State) (k : Nat) (x : FnSt) : (s.setFn k x).hpos = s.hpos := rfl
@[simp] theorem State.setFn_wcopy (s : State) (k : Nat) (x : FnSt) : (s.setFn k x).wcopy = s.wcopy := rfl
@[simp] theorem State.setFn_spares (s : State) (k : Nat) (x : FnSt) : (s.setFn k x).spares = s.spares := rfl
@[simp] theorem State.setFn_shut (s : State) (k : Nat) (x : FnSt) : (s.setFn k x).shut = s.shut := rfl
@[simp] theorem State.setFn_fenced (s : State) (k : Nat) (x : FnSt) : (s.setFn k x).fenced = s.fenced := rfl
@[simp] theorem State.setFn_tests (s : State) (k : Nat) (x : FnSt) : (s.setFn k x).tests = s.tests := rfl
@[simp] theorem State.setFn_flash (s : State) (k : Nat) (x : FnSt) : (s.setFn k x).flash = s.flash := rfl
@[simp] theorem State.setFn_opts (s : State) (k : Nat) (x : FnSt) : (s.setFn k x).opts = s.opts := rfl
@[simp] theorem State.setFn_fuses (s : State) (k : Nat) (x : FnSt) : (s.setFn k x).fuses = s.fuses := rfl
@[simp] theorem State.setFn_jrn (s : State) (k : Nat) (x : FnSt) : (s.setFn k x).jrn = s.jrn := rfl
@[simp] theorem State.setFn_run (s : State) (k : Nat) (x : FnSt) : (s.setFn k x).run = s.run := rfl
@[simp] theorem State.setFn_boot (s : State) (k : Nat) (x : FnSt) : (s.setFn k x).boot = s.boot := rfl
@[simp] theorem State.setFn_sealing (s : State) (k : Nat) (x : FnSt) : (s.setFn k x).sealing = s.sealing := rfl
@[simp] theorem State.setFn_trnRep (s : State) (k : Nat) (x : FnSt) : (s.setFn k x).trnRep = s.trnRep := rfl
@[simp] theorem State.setFn_rseq (s : State) (k : Nat) (x : FnSt) : (s.setFn k x).rseq = s.rseq := rfl
@[simp] theorem State.setFn_pwr (s : State) (k : Nat) (x : FnSt) : (s.setFn k x).pwr = s.pwr := rfl
@[simp] theorem State.setFn_mgt (s : State) (k : Nat) (x : FnSt) : (s.setFn k x).mgt = s.mgt := rfl
@[simp] theorem State.setFn_free (s : State) (k : Nat) (x : FnSt) : (s.setFn k x).free = s.free := rfl
@[simp] theorem State.setFn_out (s : State) (k : Nat) (x : FnSt) : (s.setFn k x).out = s.out := rfl
@[simp] theorem State.setFn_reg (s : State) (k : Nat) (x : FnSt) (j : Nat) : (s.setFn k x).reg j = s.reg j := rfl
@[simp] theorem State.setFn_rf (s : State) (k : Nat) (x : FnSt) (j h l : Nat) : (s.setFn k x).rf j h l = s.rf j h l := rfl
@[simp] theorem State.setFn_arbN (s : State) (k : Nat) (x : FnSt) (j : Nat) : (s.setFn k x).arbN j = s.arbN j := rfl
@[simp] theorem State.setFn_casement (s : State) (k : Nat) (x : FnSt) (j : Nat) : (s.setFn k x).casement j = s.casement j := rfl
@[simp] theorem State.setFn_lt (s : State) (k : Nat) (x : FnSt) (j i : Nat) : (s.setFn k x).lt j i = s.lt j i := rfl
@[simp] theorem State.setFn_tile (s : State) (k : Nat) (x : FnSt) (j : Nat) : (s.setFn k x).tile j = s.tile j := rfl
@[simp] theorem State.setFn_port (s : State) (k : Nat) (x : FnSt) (j : Nat) : (s.setFn k x).port j = s.port j := rfl
@[simp] theorem State.setFn_fab (s : State) (k : Nat) (x : FnSt) (j : Nat) : (s.setFn k x).fab j = s.fab j := rfl
@[simp] theorem State.setFn_lay (s : State) (k : Nat) (x : FnSt) (j : Nat) : (s.setFn k x).lay j = s.lay j := rfl

/-! ### setPort -/

@[simp] theorem State.setPort_pending (s : State) (k : Nat) (x : Port) : (s.setPort k x).pending = s.pending := rfl
@[simp] theorem State.setPort_regs (s : State) (k : Nat) (x : Port) : (s.setPort k x).regs = s.regs := rfl
@[simp] theorem State.setPort_staged (s : State) (k : Nat) (x : Port) : (s.setPort k x).staged = s.staged := rfl
@[simp] theorem State.setPort_arb (s : State) (k : Nat) (x : Port) : (s.setPort k x).arb = s.arb := rfl
@[simp] theorem State.setPort_pane (s : State) (k : Nat) (x : Port) : (s.setPort k x).pane = s.pane := rfl
@[simp] theorem State.setPort_scratch (s : State) (k : Nat) (x : Port) : (s.setPort k x).scratch = s.scratch := rfl
@[simp] theorem State.setPort_hbm (s : State) (k : Nat) (x : Port) : (s.setPort k x).hbm = s.hbm := rfl
@[simp] theorem State.setPort_clines (s : State) (k : Nat) (x : Port) : (s.setPort k x).clines = s.clines := rfl
@[simp] theorem State.setPort_cdirty (s : State) (k : Nat) (x : Port) : (s.setPort k x).cdirty = s.cdirty := rfl
@[simp] theorem State.setPort_cdata (s : State) (k : Nat) (x : Port) : (s.setPort k x).cdata = s.cdata := rfl
@[simp] theorem State.setPort_host (s : State) (k : Nat) (x : Port) : (s.setPort k x).host = s.host := rfl
@[simp] theorem State.setPort_hbad (s : State) (k : Nat) (x : Port) : (s.setPort k x).hbad = s.hbad := rfl
@[simp] theorem State.setPort_window (s : State) (k : Nat) (x : Port) : (s.setPort k x).window = s.window := rfl
@[simp] theorem State.setPort_cas (s : State) (k : Nat) (x : Port) : (s.setPort k x).cas = s.cas := rfl
@[simp] theorem State.setPort_lts (s : State) (k : Nat) (x : Port) : (s.setPort k x).lts = s.lts := rfl
@[simp] theorem State.setPort_heldPane (s : State) (k : Nat) (x : Port) : (s.setPort k x).heldPane = s.heldPane := rfl
@[simp] theorem State.setPort_tiles (s : State) (k : Nat) (x : Port) : (s.setPort k x).tiles = s.tiles := rfl
@[simp] theorem State.setPort_fns (s : State) (k : Nat) (x : Port) : (s.setPort k x).fns = s.fns := rfl
@[simp] theorem State.setPort_cfgs (s : State) (k : Nat) (x : Port) : (s.setPort k x).cfgs = s.cfgs := rfl
@[simp] theorem State.setPort_unlock (s : State) (k : Nat) (x : Port) : (s.setPort k x).unlock = s.unlock := rfl
@[simp] theorem State.setPort_fabs (s : State) (k : Nat) (x : Port) : (s.setPort k x).fabs = s.fabs := rfl
@[simp] theorem State.setPort_lays (s : State) (k : Nat) (x : Port) : (s.setPort k x).lays = s.lays := rfl
@[simp] theorem State.setPort_louvres (s : State) (k : Nat) (x : Port) : (s.setPort k x).louvres = s.louvres := rfl
@[simp] theorem State.setPort_hub (s : State) (k : Nat) (x : Port) : (s.setPort k x).hub = s.hub := rfl
@[simp] theorem State.setPort_tscrub (s : State) (k : Nat) (x : Port) : (s.setPort k x).tscrub = s.tscrub := rfl
@[simp] theorem State.setPort_hscrub (s : State) (k : Nat) (x : Port) : (s.setPort k x).hscrub = s.hscrub := rfl
@[simp] theorem State.setPort_mesh (s : State) (k : Nat) (x : Port) : (s.setPort k x).mesh = s.mesh := rfl
@[simp] theorem State.setPort_hcopy (s : State) (k : Nat) (x : Port) : (s.setPort k x).hcopy = s.hcopy := rfl
@[simp] theorem State.setPort_hpos (s : State) (k : Nat) (x : Port) : (s.setPort k x).hpos = s.hpos := rfl
@[simp] theorem State.setPort_wcopy (s : State) (k : Nat) (x : Port) : (s.setPort k x).wcopy = s.wcopy := rfl
@[simp] theorem State.setPort_spares (s : State) (k : Nat) (x : Port) : (s.setPort k x).spares = s.spares := rfl
@[simp] theorem State.setPort_shut (s : State) (k : Nat) (x : Port) : (s.setPort k x).shut = s.shut := rfl
@[simp] theorem State.setPort_fenced (s : State) (k : Nat) (x : Port) : (s.setPort k x).fenced = s.fenced := rfl
@[simp] theorem State.setPort_tests (s : State) (k : Nat) (x : Port) : (s.setPort k x).tests = s.tests := rfl
@[simp] theorem State.setPort_flash (s : State) (k : Nat) (x : Port) : (s.setPort k x).flash = s.flash := rfl
@[simp] theorem State.setPort_opts (s : State) (k : Nat) (x : Port) : (s.setPort k x).opts = s.opts := rfl
@[simp] theorem State.setPort_fuses (s : State) (k : Nat) (x : Port) : (s.setPort k x).fuses = s.fuses := rfl
@[simp] theorem State.setPort_jrn (s : State) (k : Nat) (x : Port) : (s.setPort k x).jrn = s.jrn := rfl
@[simp] theorem State.setPort_run (s : State) (k : Nat) (x : Port) : (s.setPort k x).run = s.run := rfl
@[simp] theorem State.setPort_boot (s : State) (k : Nat) (x : Port) : (s.setPort k x).boot = s.boot := rfl
@[simp] theorem State.setPort_sealing (s : State) (k : Nat) (x : Port) : (s.setPort k x).sealing = s.sealing := rfl
@[simp] theorem State.setPort_trnRep (s : State) (k : Nat) (x : Port) : (s.setPort k x).trnRep = s.trnRep := rfl
@[simp] theorem State.setPort_rseq (s : State) (k : Nat) (x : Port) : (s.setPort k x).rseq = s.rseq := rfl
@[simp] theorem State.setPort_pwr (s : State) (k : Nat) (x : Port) : (s.setPort k x).pwr = s.pwr := rfl
@[simp] theorem State.setPort_mgt (s : State) (k : Nat) (x : Port) : (s.setPort k x).mgt = s.mgt := rfl
@[simp] theorem State.setPort_free (s : State) (k : Nat) (x : Port) : (s.setPort k x).free = s.free := rfl
@[simp] theorem State.setPort_out (s : State) (k : Nat) (x : Port) : (s.setPort k x).out = s.out := rfl
@[simp] theorem State.setPort_reg (s : State) (k : Nat) (x : Port) (j : Nat) : (s.setPort k x).reg j = s.reg j := rfl
@[simp] theorem State.setPort_rf (s : State) (k : Nat) (x : Port) (j h l : Nat) : (s.setPort k x).rf j h l = s.rf j h l := rfl
@[simp] theorem State.setPort_arbN (s : State) (k : Nat) (x : Port) (j : Nat) : (s.setPort k x).arbN j = s.arbN j := rfl
@[simp] theorem State.setPort_casement (s : State) (k : Nat) (x : Port) (j : Nat) : (s.setPort k x).casement j = s.casement j := rfl
@[simp] theorem State.setPort_lt (s : State) (k : Nat) (x : Port) (j i : Nat) : (s.setPort k x).lt j i = s.lt j i := rfl
@[simp] theorem State.setPort_tile (s : State) (k : Nat) (x : Port) (j : Nat) : (s.setPort k x).tile j = s.tile j := rfl
@[simp] theorem State.setPort_fn (s : State) (k : Nat) (x : Port) (j : Nat) : (s.setPort k x).fn j = s.fn j := rfl
@[simp] theorem State.setPort_fab (s : State) (k : Nat) (x : Port) (j : Nat) : (s.setPort k x).fab j = s.fab j := rfl
@[simp] theorem State.setPort_lay (s : State) (k : Nat) (x : Port) (j : Nat) : (s.setPort k x).lay j = s.lay j := rfl

/-! ### setFab -/

@[simp] theorem State.setFab_pending (s : State) (k : Nat) (x : Fab) : (s.setFab k x).pending = s.pending := rfl
@[simp] theorem State.setFab_regs (s : State) (k : Nat) (x : Fab) : (s.setFab k x).regs = s.regs := rfl
@[simp] theorem State.setFab_staged (s : State) (k : Nat) (x : Fab) : (s.setFab k x).staged = s.staged := rfl
@[simp] theorem State.setFab_arb (s : State) (k : Nat) (x : Fab) : (s.setFab k x).arb = s.arb := rfl
@[simp] theorem State.setFab_pane (s : State) (k : Nat) (x : Fab) : (s.setFab k x).pane = s.pane := rfl
@[simp] theorem State.setFab_scratch (s : State) (k : Nat) (x : Fab) : (s.setFab k x).scratch = s.scratch := rfl
@[simp] theorem State.setFab_hbm (s : State) (k : Nat) (x : Fab) : (s.setFab k x).hbm = s.hbm := rfl
@[simp] theorem State.setFab_clines (s : State) (k : Nat) (x : Fab) : (s.setFab k x).clines = s.clines := rfl
@[simp] theorem State.setFab_cdirty (s : State) (k : Nat) (x : Fab) : (s.setFab k x).cdirty = s.cdirty := rfl
@[simp] theorem State.setFab_cdata (s : State) (k : Nat) (x : Fab) : (s.setFab k x).cdata = s.cdata := rfl
@[simp] theorem State.setFab_host (s : State) (k : Nat) (x : Fab) : (s.setFab k x).host = s.host := rfl
@[simp] theorem State.setFab_hbad (s : State) (k : Nat) (x : Fab) : (s.setFab k x).hbad = s.hbad := rfl
@[simp] theorem State.setFab_window (s : State) (k : Nat) (x : Fab) : (s.setFab k x).window = s.window := rfl
@[simp] theorem State.setFab_cas (s : State) (k : Nat) (x : Fab) : (s.setFab k x).cas = s.cas := rfl
@[simp] theorem State.setFab_lts (s : State) (k : Nat) (x : Fab) : (s.setFab k x).lts = s.lts := rfl
@[simp] theorem State.setFab_heldPane (s : State) (k : Nat) (x : Fab) : (s.setFab k x).heldPane = s.heldPane := rfl
@[simp] theorem State.setFab_tiles (s : State) (k : Nat) (x : Fab) : (s.setFab k x).tiles = s.tiles := rfl
@[simp] theorem State.setFab_fns (s : State) (k : Nat) (x : Fab) : (s.setFab k x).fns = s.fns := rfl
@[simp] theorem State.setFab_cfgs (s : State) (k : Nat) (x : Fab) : (s.setFab k x).cfgs = s.cfgs := rfl
@[simp] theorem State.setFab_unlock (s : State) (k : Nat) (x : Fab) : (s.setFab k x).unlock = s.unlock := rfl
@[simp] theorem State.setFab_ports (s : State) (k : Nat) (x : Fab) : (s.setFab k x).ports = s.ports := rfl
@[simp] theorem State.setFab_lays (s : State) (k : Nat) (x : Fab) : (s.setFab k x).lays = s.lays := rfl
@[simp] theorem State.setFab_louvres (s : State) (k : Nat) (x : Fab) : (s.setFab k x).louvres = s.louvres := rfl
@[simp] theorem State.setFab_hub (s : State) (k : Nat) (x : Fab) : (s.setFab k x).hub = s.hub := rfl
@[simp] theorem State.setFab_tscrub (s : State) (k : Nat) (x : Fab) : (s.setFab k x).tscrub = s.tscrub := rfl
@[simp] theorem State.setFab_hscrub (s : State) (k : Nat) (x : Fab) : (s.setFab k x).hscrub = s.hscrub := rfl
@[simp] theorem State.setFab_mesh (s : State) (k : Nat) (x : Fab) : (s.setFab k x).mesh = s.mesh := rfl
@[simp] theorem State.setFab_hcopy (s : State) (k : Nat) (x : Fab) : (s.setFab k x).hcopy = s.hcopy := rfl
@[simp] theorem State.setFab_hpos (s : State) (k : Nat) (x : Fab) : (s.setFab k x).hpos = s.hpos := rfl
@[simp] theorem State.setFab_wcopy (s : State) (k : Nat) (x : Fab) : (s.setFab k x).wcopy = s.wcopy := rfl
@[simp] theorem State.setFab_spares (s : State) (k : Nat) (x : Fab) : (s.setFab k x).spares = s.spares := rfl
@[simp] theorem State.setFab_shut (s : State) (k : Nat) (x : Fab) : (s.setFab k x).shut = s.shut := rfl
@[simp] theorem State.setFab_fenced (s : State) (k : Nat) (x : Fab) : (s.setFab k x).fenced = s.fenced := rfl
@[simp] theorem State.setFab_tests (s : State) (k : Nat) (x : Fab) : (s.setFab k x).tests = s.tests := rfl
@[simp] theorem State.setFab_flash (s : State) (k : Nat) (x : Fab) : (s.setFab k x).flash = s.flash := rfl
@[simp] theorem State.setFab_opts (s : State) (k : Nat) (x : Fab) : (s.setFab k x).opts = s.opts := rfl
@[simp] theorem State.setFab_fuses (s : State) (k : Nat) (x : Fab) : (s.setFab k x).fuses = s.fuses := rfl
@[simp] theorem State.setFab_jrn (s : State) (k : Nat) (x : Fab) : (s.setFab k x).jrn = s.jrn := rfl
@[simp] theorem State.setFab_run (s : State) (k : Nat) (x : Fab) : (s.setFab k x).run = s.run := rfl
@[simp] theorem State.setFab_boot (s : State) (k : Nat) (x : Fab) : (s.setFab k x).boot = s.boot := rfl
@[simp] theorem State.setFab_sealing (s : State) (k : Nat) (x : Fab) : (s.setFab k x).sealing = s.sealing := rfl
@[simp] theorem State.setFab_trnRep (s : State) (k : Nat) (x : Fab) : (s.setFab k x).trnRep = s.trnRep := rfl
@[simp] theorem State.setFab_rseq (s : State) (k : Nat) (x : Fab) : (s.setFab k x).rseq = s.rseq := rfl
@[simp] theorem State.setFab_pwr (s : State) (k : Nat) (x : Fab) : (s.setFab k x).pwr = s.pwr := rfl
@[simp] theorem State.setFab_mgt (s : State) (k : Nat) (x : Fab) : (s.setFab k x).mgt = s.mgt := rfl
@[simp] theorem State.setFab_free (s : State) (k : Nat) (x : Fab) : (s.setFab k x).free = s.free := rfl
@[simp] theorem State.setFab_out (s : State) (k : Nat) (x : Fab) : (s.setFab k x).out = s.out := rfl
@[simp] theorem State.setFab_reg (s : State) (k : Nat) (x : Fab) (j : Nat) : (s.setFab k x).reg j = s.reg j := rfl
@[simp] theorem State.setFab_rf (s : State) (k : Nat) (x : Fab) (j h l : Nat) : (s.setFab k x).rf j h l = s.rf j h l := rfl
@[simp] theorem State.setFab_arbN (s : State) (k : Nat) (x : Fab) (j : Nat) : (s.setFab k x).arbN j = s.arbN j := rfl
@[simp] theorem State.setFab_casement (s : State) (k : Nat) (x : Fab) (j : Nat) : (s.setFab k x).casement j = s.casement j := rfl
@[simp] theorem State.setFab_lt (s : State) (k : Nat) (x : Fab) (j i : Nat) : (s.setFab k x).lt j i = s.lt j i := rfl
@[simp] theorem State.setFab_tile (s : State) (k : Nat) (x : Fab) (j : Nat) : (s.setFab k x).tile j = s.tile j := rfl
@[simp] theorem State.setFab_fn (s : State) (k : Nat) (x : Fab) (j : Nat) : (s.setFab k x).fn j = s.fn j := rfl
@[simp] theorem State.setFab_port (s : State) (k : Nat) (x : Fab) (j : Nat) : (s.setFab k x).port j = s.port j := rfl
@[simp] theorem State.setFab_lay (s : State) (k : Nat) (x : Fab) (j : Nat) : (s.setFab k x).lay j = s.lay j := rfl

/-! ### setLay -/

@[simp] theorem State.setLay_pending (s : State) (k : Nat) (x : Lay) : (s.setLay k x).pending = s.pending := rfl
@[simp] theorem State.setLay_regs (s : State) (k : Nat) (x : Lay) : (s.setLay k x).regs = s.regs := rfl
@[simp] theorem State.setLay_staged (s : State) (k : Nat) (x : Lay) : (s.setLay k x).staged = s.staged := rfl
@[simp] theorem State.setLay_arb (s : State) (k : Nat) (x : Lay) : (s.setLay k x).arb = s.arb := rfl
@[simp] theorem State.setLay_pane (s : State) (k : Nat) (x : Lay) : (s.setLay k x).pane = s.pane := rfl
@[simp] theorem State.setLay_scratch (s : State) (k : Nat) (x : Lay) : (s.setLay k x).scratch = s.scratch := rfl
@[simp] theorem State.setLay_hbm (s : State) (k : Nat) (x : Lay) : (s.setLay k x).hbm = s.hbm := rfl
@[simp] theorem State.setLay_clines (s : State) (k : Nat) (x : Lay) : (s.setLay k x).clines = s.clines := rfl
@[simp] theorem State.setLay_cdirty (s : State) (k : Nat) (x : Lay) : (s.setLay k x).cdirty = s.cdirty := rfl
@[simp] theorem State.setLay_cdata (s : State) (k : Nat) (x : Lay) : (s.setLay k x).cdata = s.cdata := rfl
@[simp] theorem State.setLay_host (s : State) (k : Nat) (x : Lay) : (s.setLay k x).host = s.host := rfl
@[simp] theorem State.setLay_hbad (s : State) (k : Nat) (x : Lay) : (s.setLay k x).hbad = s.hbad := rfl
@[simp] theorem State.setLay_window (s : State) (k : Nat) (x : Lay) : (s.setLay k x).window = s.window := rfl
@[simp] theorem State.setLay_cas (s : State) (k : Nat) (x : Lay) : (s.setLay k x).cas = s.cas := rfl
@[simp] theorem State.setLay_lts (s : State) (k : Nat) (x : Lay) : (s.setLay k x).lts = s.lts := rfl
@[simp] theorem State.setLay_heldPane (s : State) (k : Nat) (x : Lay) : (s.setLay k x).heldPane = s.heldPane := rfl
@[simp] theorem State.setLay_tiles (s : State) (k : Nat) (x : Lay) : (s.setLay k x).tiles = s.tiles := rfl
@[simp] theorem State.setLay_fns (s : State) (k : Nat) (x : Lay) : (s.setLay k x).fns = s.fns := rfl
@[simp] theorem State.setLay_cfgs (s : State) (k : Nat) (x : Lay) : (s.setLay k x).cfgs = s.cfgs := rfl
@[simp] theorem State.setLay_unlock (s : State) (k : Nat) (x : Lay) : (s.setLay k x).unlock = s.unlock := rfl
@[simp] theorem State.setLay_ports (s : State) (k : Nat) (x : Lay) : (s.setLay k x).ports = s.ports := rfl
@[simp] theorem State.setLay_fabs (s : State) (k : Nat) (x : Lay) : (s.setLay k x).fabs = s.fabs := rfl
@[simp] theorem State.setLay_louvres (s : State) (k : Nat) (x : Lay) : (s.setLay k x).louvres = s.louvres := rfl
@[simp] theorem State.setLay_hub (s : State) (k : Nat) (x : Lay) : (s.setLay k x).hub = s.hub := rfl
@[simp] theorem State.setLay_tscrub (s : State) (k : Nat) (x : Lay) : (s.setLay k x).tscrub = s.tscrub := rfl
@[simp] theorem State.setLay_hscrub (s : State) (k : Nat) (x : Lay) : (s.setLay k x).hscrub = s.hscrub := rfl
@[simp] theorem State.setLay_mesh (s : State) (k : Nat) (x : Lay) : (s.setLay k x).mesh = s.mesh := rfl
@[simp] theorem State.setLay_hcopy (s : State) (k : Nat) (x : Lay) : (s.setLay k x).hcopy = s.hcopy := rfl
@[simp] theorem State.setLay_hpos (s : State) (k : Nat) (x : Lay) : (s.setLay k x).hpos = s.hpos := rfl
@[simp] theorem State.setLay_wcopy (s : State) (k : Nat) (x : Lay) : (s.setLay k x).wcopy = s.wcopy := rfl
@[simp] theorem State.setLay_spares (s : State) (k : Nat) (x : Lay) : (s.setLay k x).spares = s.spares := rfl
@[simp] theorem State.setLay_shut (s : State) (k : Nat) (x : Lay) : (s.setLay k x).shut = s.shut := rfl
@[simp] theorem State.setLay_fenced (s : State) (k : Nat) (x : Lay) : (s.setLay k x).fenced = s.fenced := rfl
@[simp] theorem State.setLay_tests (s : State) (k : Nat) (x : Lay) : (s.setLay k x).tests = s.tests := rfl
@[simp] theorem State.setLay_flash (s : State) (k : Nat) (x : Lay) : (s.setLay k x).flash = s.flash := rfl
@[simp] theorem State.setLay_opts (s : State) (k : Nat) (x : Lay) : (s.setLay k x).opts = s.opts := rfl
@[simp] theorem State.setLay_fuses (s : State) (k : Nat) (x : Lay) : (s.setLay k x).fuses = s.fuses := rfl
@[simp] theorem State.setLay_jrn (s : State) (k : Nat) (x : Lay) : (s.setLay k x).jrn = s.jrn := rfl
@[simp] theorem State.setLay_run (s : State) (k : Nat) (x : Lay) : (s.setLay k x).run = s.run := rfl
@[simp] theorem State.setLay_boot (s : State) (k : Nat) (x : Lay) : (s.setLay k x).boot = s.boot := rfl
@[simp] theorem State.setLay_sealing (s : State) (k : Nat) (x : Lay) : (s.setLay k x).sealing = s.sealing := rfl
@[simp] theorem State.setLay_trnRep (s : State) (k : Nat) (x : Lay) : (s.setLay k x).trnRep = s.trnRep := rfl
@[simp] theorem State.setLay_rseq (s : State) (k : Nat) (x : Lay) : (s.setLay k x).rseq = s.rseq := rfl
@[simp] theorem State.setLay_pwr (s : State) (k : Nat) (x : Lay) : (s.setLay k x).pwr = s.pwr := rfl
@[simp] theorem State.setLay_mgt (s : State) (k : Nat) (x : Lay) : (s.setLay k x).mgt = s.mgt := rfl
@[simp] theorem State.setLay_free (s : State) (k : Nat) (x : Lay) : (s.setLay k x).free = s.free := rfl
@[simp] theorem State.setLay_out (s : State) (k : Nat) (x : Lay) : (s.setLay k x).out = s.out := rfl
@[simp] theorem State.setLay_reg (s : State) (k : Nat) (x : Lay) (j : Nat) : (s.setLay k x).reg j = s.reg j := rfl
@[simp] theorem State.setLay_rf (s : State) (k : Nat) (x : Lay) (j h l : Nat) : (s.setLay k x).rf j h l = s.rf j h l := rfl
@[simp] theorem State.setLay_arbN (s : State) (k : Nat) (x : Lay) (j : Nat) : (s.setLay k x).arbN j = s.arbN j := rfl
@[simp] theorem State.setLay_casement (s : State) (k : Nat) (x : Lay) (j : Nat) : (s.setLay k x).casement j = s.casement j := rfl
@[simp] theorem State.setLay_lt (s : State) (k : Nat) (x : Lay) (j i : Nat) : (s.setLay k x).lt j i = s.lt j i := rfl
@[simp] theorem State.setLay_tile (s : State) (k : Nat) (x : Lay) (j : Nat) : (s.setLay k x).tile j = s.tile j := rfl
@[simp] theorem State.setLay_fn (s : State) (k : Nat) (x : Lay) (j : Nat) : (s.setLay k x).fn j = s.fn j := rfl
@[simp] theorem State.setLay_port (s : State) (k : Nat) (x : Lay) (j : Nat) : (s.setLay k x).port j = s.port j := rfl
@[simp] theorem State.setLay_fab (s : State) (k : Nat) (x : Lay) (j : Nat) : (s.setLay k x).fab j = s.fab j := rfl

/-! ### emit -/

@[simp] theorem State.emit_pending (s : State) (o : Out) : (s.emit o).pending = s.pending := rfl
@[simp] theorem State.emit_regs (s : State) (o : Out) : (s.emit o).regs = s.regs := rfl
@[simp] theorem State.emit_staged (s : State) (o : Out) : (s.emit o).staged = s.staged := rfl
@[simp] theorem State.emit_arb (s : State) (o : Out) : (s.emit o).arb = s.arb := rfl
@[simp] theorem State.emit_pane (s : State) (o : Out) : (s.emit o).pane = s.pane := rfl
@[simp] theorem State.emit_scratch (s : State) (o : Out) : (s.emit o).scratch = s.scratch := rfl
@[simp] theorem State.emit_hbm (s : State) (o : Out) : (s.emit o).hbm = s.hbm := rfl
@[simp] theorem State.emit_clines (s : State) (o : Out) : (s.emit o).clines = s.clines := rfl
@[simp] theorem State.emit_cdirty (s : State) (o : Out) : (s.emit o).cdirty = s.cdirty := rfl
@[simp] theorem State.emit_cdata (s : State) (o : Out) : (s.emit o).cdata = s.cdata := rfl
@[simp] theorem State.emit_host (s : State) (o : Out) : (s.emit o).host = s.host := rfl
@[simp] theorem State.emit_hbad (s : State) (o : Out) : (s.emit o).hbad = s.hbad := rfl
@[simp] theorem State.emit_window (s : State) (o : Out) : (s.emit o).window = s.window := rfl
@[simp] theorem State.emit_cas (s : State) (o : Out) : (s.emit o).cas = s.cas := rfl
@[simp] theorem State.emit_lts (s : State) (o : Out) : (s.emit o).lts = s.lts := rfl
@[simp] theorem State.emit_heldPane (s : State) (o : Out) : (s.emit o).heldPane = s.heldPane := rfl
@[simp] theorem State.emit_tiles (s : State) (o : Out) : (s.emit o).tiles = s.tiles := rfl
@[simp] theorem State.emit_fns (s : State) (o : Out) : (s.emit o).fns = s.fns := rfl
@[simp] theorem State.emit_cfgs (s : State) (o : Out) : (s.emit o).cfgs = s.cfgs := rfl
@[simp] theorem State.emit_unlock (s : State) (o : Out) : (s.emit o).unlock = s.unlock := rfl
@[simp] theorem State.emit_ports (s : State) (o : Out) : (s.emit o).ports = s.ports := rfl
@[simp] theorem State.emit_fabs (s : State) (o : Out) : (s.emit o).fabs = s.fabs := rfl
@[simp] theorem State.emit_lays (s : State) (o : Out) : (s.emit o).lays = s.lays := rfl
@[simp] theorem State.emit_louvres (s : State) (o : Out) : (s.emit o).louvres = s.louvres := rfl
@[simp] theorem State.emit_hub (s : State) (o : Out) : (s.emit o).hub = s.hub := rfl
@[simp] theorem State.emit_tscrub (s : State) (o : Out) : (s.emit o).tscrub = s.tscrub := rfl
@[simp] theorem State.emit_hscrub (s : State) (o : Out) : (s.emit o).hscrub = s.hscrub := rfl
@[simp] theorem State.emit_mesh (s : State) (o : Out) : (s.emit o).mesh = s.mesh := rfl
@[simp] theorem State.emit_hcopy (s : State) (o : Out) : (s.emit o).hcopy = s.hcopy := rfl
@[simp] theorem State.emit_hpos (s : State) (o : Out) : (s.emit o).hpos = s.hpos := rfl
@[simp] theorem State.emit_wcopy (s : State) (o : Out) : (s.emit o).wcopy = s.wcopy := rfl
@[simp] theorem State.emit_spares (s : State) (o : Out) : (s.emit o).spares = s.spares := rfl
@[simp] theorem State.emit_shut (s : State) (o : Out) : (s.emit o).shut = s.shut := rfl
@[simp] theorem State.emit_fenced (s : State) (o : Out) : (s.emit o).fenced = s.fenced := rfl
@[simp] theorem State.emit_tests (s : State) (o : Out) : (s.emit o).tests = s.tests := rfl
@[simp] theorem State.emit_flash (s : State) (o : Out) : (s.emit o).flash = s.flash := rfl
@[simp] theorem State.emit_opts (s : State) (o : Out) : (s.emit o).opts = s.opts := rfl
@[simp] theorem State.emit_fuses (s : State) (o : Out) : (s.emit o).fuses = s.fuses := rfl
@[simp] theorem State.emit_jrn (s : State) (o : Out) : (s.emit o).jrn = s.jrn := rfl
@[simp] theorem State.emit_run (s : State) (o : Out) : (s.emit o).run = s.run := rfl
@[simp] theorem State.emit_boot (s : State) (o : Out) : (s.emit o).boot = s.boot := rfl
@[simp] theorem State.emit_sealing (s : State) (o : Out) : (s.emit o).sealing = s.sealing := rfl
@[simp] theorem State.emit_trnRep (s : State) (o : Out) : (s.emit o).trnRep = s.trnRep := rfl
@[simp] theorem State.emit_rseq (s : State) (o : Out) : (s.emit o).rseq = s.rseq := rfl
@[simp] theorem State.emit_pwr (s : State) (o : Out) : (s.emit o).pwr = s.pwr := rfl
@[simp] theorem State.emit_mgt (s : State) (o : Out) : (s.emit o).mgt = s.mgt := rfl
@[simp] theorem State.emit_free (s : State) (o : Out) : (s.emit o).free = s.free := rfl
@[simp] theorem State.emit_reg (s : State) (o : Out) (j : Nat) : (s.emit o).reg j = s.reg j := rfl
@[simp] theorem State.emit_rf (s : State) (o : Out) (j h l : Nat) : (s.emit o).rf j h l = s.rf j h l := rfl
@[simp] theorem State.emit_arbN (s : State) (o : Out) (j : Nat) : (s.emit o).arbN j = s.arbN j := rfl
@[simp] theorem State.emit_casement (s : State) (o : Out) (j : Nat) : (s.emit o).casement j = s.casement j := rfl
@[simp] theorem State.emit_lt (s : State) (o : Out) (j i : Nat) : (s.emit o).lt j i = s.lt j i := rfl
@[simp] theorem State.emit_tile (s : State) (o : Out) (j : Nat) : (s.emit o).tile j = s.tile j := rfl
@[simp] theorem State.emit_fn (s : State) (o : Out) (j : Nat) : (s.emit o).fn j = s.fn j := rfl
@[simp] theorem State.emit_port (s : State) (o : Out) (j : Nat) : (s.emit o).port j = s.port j := rfl
@[simp] theorem State.emit_fab (s : State) (o : Out) (j : Nat) : (s.emit o).fab j = s.fab j := rfl
@[simp] theorem State.emit_lay (s : State) (o : Out) (j : Nat) : (s.emit o).lay j = s.lay j := rfl

/-! ### draw -/

@[simp] theorem State.draw_pending (s : State) : (s.draw).pending = s.pending := rfl
@[simp] theorem State.draw_regs (s : State) : (s.draw).regs = s.regs := rfl
@[simp] theorem State.draw_staged (s : State) : (s.draw).staged = s.staged := rfl
@[simp] theorem State.draw_arb (s : State) : (s.draw).arb = s.arb := rfl
@[simp] theorem State.draw_pane (s : State) : (s.draw).pane = s.pane := rfl
@[simp] theorem State.draw_scratch (s : State) : (s.draw).scratch = s.scratch := rfl
@[simp] theorem State.draw_hbm (s : State) : (s.draw).hbm = s.hbm := rfl
@[simp] theorem State.draw_clines (s : State) : (s.draw).clines = s.clines := rfl
@[simp] theorem State.draw_cdirty (s : State) : (s.draw).cdirty = s.cdirty := rfl
@[simp] theorem State.draw_cdata (s : State) : (s.draw).cdata = s.cdata := rfl
@[simp] theorem State.draw_host (s : State) : (s.draw).host = s.host := rfl
@[simp] theorem State.draw_hbad (s : State) : (s.draw).hbad = s.hbad := rfl
@[simp] theorem State.draw_window (s : State) : (s.draw).window = s.window := rfl
@[simp] theorem State.draw_cas (s : State) : (s.draw).cas = s.cas := rfl
@[simp] theorem State.draw_lts (s : State) : (s.draw).lts = s.lts := rfl
@[simp] theorem State.draw_heldPane (s : State) : (s.draw).heldPane = s.heldPane := rfl
@[simp] theorem State.draw_tiles (s : State) : (s.draw).tiles = s.tiles := rfl
@[simp] theorem State.draw_fns (s : State) : (s.draw).fns = s.fns := rfl
@[simp] theorem State.draw_cfgs (s : State) : (s.draw).cfgs = s.cfgs := rfl
@[simp] theorem State.draw_unlock (s : State) : (s.draw).unlock = s.unlock := rfl
@[simp] theorem State.draw_ports (s : State) : (s.draw).ports = s.ports := rfl
@[simp] theorem State.draw_fabs (s : State) : (s.draw).fabs = s.fabs := rfl
@[simp] theorem State.draw_lays (s : State) : (s.draw).lays = s.lays := rfl
@[simp] theorem State.draw_louvres (s : State) : (s.draw).louvres = s.louvres := rfl
@[simp] theorem State.draw_hub (s : State) : (s.draw).hub = s.hub := rfl
@[simp] theorem State.draw_tscrub (s : State) : (s.draw).tscrub = s.tscrub := rfl
@[simp] theorem State.draw_hscrub (s : State) : (s.draw).hscrub = s.hscrub := rfl
@[simp] theorem State.draw_mesh (s : State) : (s.draw).mesh = s.mesh := rfl
@[simp] theorem State.draw_hcopy (s : State) : (s.draw).hcopy = s.hcopy := rfl
@[simp] theorem State.draw_hpos (s : State) : (s.draw).hpos = s.hpos := rfl
@[simp] theorem State.draw_wcopy (s : State) : (s.draw).wcopy = s.wcopy := rfl
@[simp] theorem State.draw_spares (s : State) : (s.draw).spares = s.spares := rfl
@[simp] theorem State.draw_shut (s : State) : (s.draw).shut = s.shut := rfl
@[simp] theorem State.draw_fenced (s : State) : (s.draw).fenced = s.fenced := rfl
@[simp] theorem State.draw_tests (s : State) : (s.draw).tests = s.tests := rfl
@[simp] theorem State.draw_flash (s : State) : (s.draw).flash = s.flash := rfl
@[simp] theorem State.draw_opts (s : State) : (s.draw).opts = s.opts := rfl
@[simp] theorem State.draw_fuses (s : State) : (s.draw).fuses = s.fuses := rfl
@[simp] theorem State.draw_jrn (s : State) : (s.draw).jrn = s.jrn := rfl
@[simp] theorem State.draw_run (s : State) : (s.draw).run = s.run := rfl
@[simp] theorem State.draw_boot (s : State) : (s.draw).boot = s.boot := rfl
@[simp] theorem State.draw_sealing (s : State) : (s.draw).sealing = s.sealing := rfl
@[simp] theorem State.draw_trnRep (s : State) : (s.draw).trnRep = s.trnRep := rfl
@[simp] theorem State.draw_rseq (s : State) : (s.draw).rseq = s.rseq := rfl
@[simp] theorem State.draw_pwr (s : State) : (s.draw).pwr = s.pwr := rfl
@[simp] theorem State.draw_mgt (s : State) : (s.draw).mgt = s.mgt := rfl
@[simp] theorem State.draw_out (s : State) : (s.draw).out = s.out := rfl
@[simp] theorem State.draw_reg (s : State) (j : Nat) : (s.draw).reg j = s.reg j := rfl
@[simp] theorem State.draw_rf (s : State) (j h l : Nat) : (s.draw).rf j h l = s.rf j h l := rfl
@[simp] theorem State.draw_arbN (s : State) (j : Nat) : (s.draw).arbN j = s.arbN j := rfl
@[simp] theorem State.draw_casement (s : State) (j : Nat) : (s.draw).casement j = s.casement j := rfl
@[simp] theorem State.draw_lt (s : State) (j i : Nat) : (s.draw).lt j i = s.lt j i := rfl
@[simp] theorem State.draw_tile (s : State) (j : Nat) : (s.draw).tile j = s.tile j := rfl
@[simp] theorem State.draw_fn (s : State) (j : Nat) : (s.draw).fn j = s.fn j := rfl
@[simp] theorem State.draw_port (s : State) (j : Nat) : (s.draw).port j = s.port j := rfl
@[simp] theorem State.draw_fab (s : State) (j : Nat) : (s.draw).fab j = s.fab j := rfl
@[simp] theorem State.draw_lay (s : State) (j : Nat) : (s.draw).lay j = s.lay j := rfl

end Sys2Proof.Machine
end

