-- ==== Sys2Proof/Laws/Regs.lean ====
section
/-! SUPPORT. Bit fields, registers and records: what a write leaves to be read. -/

namespace Sys2Proof.Machine

/-! ### Bit fields -/

theorem testBit_fld (x hi lo i : Nat) : (fld x hi lo).testBit i = (decide (i < hi + 1 - lo) && x.testBit (lo + i)) := by
  simp [fld, Nat.testBit_mod_two_pow, Nat.testBit_shiftRight]

theorem fld_lt (x hi lo : Nat) : fld x hi lo < 2 ^ (hi + 1 - lo) := Nat.mod_lt _ (Nat.two_pow_pos _)

theorem bit_eq (x n : Nat) : bit x n = x.testBit n := by
  have h : n + 1 - n = 1 := by omega
  simp only [bit, fld, h, Nat.pow_one, Nat.testBit, Nat.one_and_eq_mod_two]
  rcases Nat.mod_two_eq_zero_or_one (x >>> n) with h | h <;> simp [h]

/-- A field replaced: its bits are the value's, every other bit stays. -/
theorem testBit_setFld (x hi lo v i : Nat) (h : lo ≤ hi + 1) :
    (setFld x hi lo v).testBit i = if lo ≤ i ∧ i ≤ hi then v.testBit (i - lo) else x.testBit i := by
  have hn : ∃ n, hi + 1 - lo = n := ⟨_, rfl⟩
  obtain ⟨n, hn⟩ := hn
  unfold setFld fld
  rw [hn, Nat.shiftRight_eq_div_pow]
  have e1 : x = x % 2 ^ lo + 2 ^ lo * (x / 2 ^ lo % 2 ^ n + 2 ^ n * (x / 2 ^ lo / 2 ^ n)) := by
    rw [Nat.mod_add_div, Nat.mod_add_div]
  have e2 : x - x / 2 ^ lo % 2 ^ n * 2 ^ lo + v % 2 ^ n * 2 ^ lo =
      2 ^ lo * (2 ^ n * (x / 2 ^ lo / 2 ^ n) + v % 2 ^ n) + x % 2 ^ lo := by
    generalize x / 2 ^ lo / 2 ^ n = b at *
    generalize x / 2 ^ lo % 2 ^ n = a at *
    generalize x % 2 ^ lo = c at *
    generalize v % 2 ^ n = y
    subst e1
    have : c + 2 ^ lo * (a + 2 ^ n * b) - a * 2 ^ lo = c + 2 ^ lo * (2 ^ n * b) := by
      rw [Nat.mul_add, Nat.mul_comm a]; omega
    rw [this, Nat.mul_add, Nat.mul_comm y]; omega
  rw [e2, Nat.testBit_two_pow_mul_add _ (Nat.mod_lt _ (Nat.two_pow_pos _)), Nat.testBit_two_pow_mul_add _ (Nat.mod_lt _ (Nat.two_pow_pos _))]
  by_cases h1 : i < lo
  · have : ¬ lo ≤ i := by omega
    simp [h1, this, Nat.testBit_mod_two_pow]
  · by_cases h2 : i - lo < n
    · have : lo ≤ i ∧ i ≤ hi := by omega
      simp [h1, h2, this, Nat.testBit_mod_two_pow]
    · have : ¬ (lo ≤ i ∧ i ≤ hi) := by omega
      rw [if_neg h1, if_neg h2, if_neg this, Nat.testBit_div_two_pow, Nat.testBit_div_two_pow]
      congr 1; omega

theorem fld_setFld_self (x v : Nat) {hi lo : Nat} (h : lo ≤ hi + 1) : fld (setFld x hi lo v) hi lo = v % 2 ^ (hi + 1 - lo) := by
  refine Nat.eq_of_testBit_eq fun i => ?_
  rw [testBit_fld, testBit_setFld _ _ _ _ _ h, Nat.testBit_mod_two_pow]
  by_cases h1 : i < hi + 1 - lo
  · have h2 : lo ≤ lo + i ∧ lo + i ≤ hi := by omega
    simp [h1, h2]
  · simp [h1]

theorem fld_setFld_ne (x v : Nat) {hi lo hi' lo' : Nat} (h : lo ≤ hi + 1) (hd : hi' < lo ∨ hi < lo') :
    fld (setFld x hi lo v) hi' lo' = fld x hi' lo' := by
  refine Nat.eq_of_testBit_eq fun i => ?_
  rw [testBit_fld, testBit_setFld _ _ _ _ _ h, testBit_fld]
  by_cases h1 : i < hi' + 1 - lo'
  · have h2 : ¬ (lo ≤ lo' + i ∧ lo' + i ≤ hi) := by omega
    simp [h2]
  · simp [h1]

theorem setFld_lt {x hi lo : Nat} (v : Nat) {n : Nat} (h : lo ≤ hi + 1) (hx : x < 2 ^ n) (hh : hi < n) : setFld x hi lo v < 2 ^ n := by
  refine Nat.lt_pow_two_of_testBit _ fun i hi' => ?_
  rw [testBit_setFld _ _ _ _ _ h, if_neg (by omega)]
  exact Nat.testBit_lt_two_pow (Nat.lt_of_lt_of_le hx (Nat.pow_le_pow_right (by decide) hi'))

theorem rset_toNat (w : Word) (v : Nat) {hi lo : Nat} (h : lo ≤ hi + 1) (hh : hi < 32) :
    (rset w hi lo v).toNat = setFld w.toNat hi lo v := by
  rw [rset, BitVec.toNat_ofNat, Nat.mod_eq_of_lt (setFld_lt v h w.isLt hh)]

theorem rfld_rset_self (w : Word) (v : Nat) {hi lo : Nat} (h : lo ≤ hi + 1) (hh : hi < 32) :
    rfld (rset w hi lo v) hi lo = v % 2 ^ (hi + 1 - lo) := by
  rw [rfld, rset_toNat w v h hh, fld_setFld_self _ _ h]

theorem rfld_rset_ne (w : Word) (v : Nat) {hi lo hi' lo' : Nat} (h : lo ≤ hi + 1) (hh : hi < 32) (hd : hi' < lo ∨ hi < lo') :
    rfld (rset w hi lo v) hi' lo' = rfld w hi' lo' := by
  rw [rfld, rset_toNat w v h hh, fld_setFld_ne _ _ h hd, rfld]

/-! ### Registers -/

@[simp] theorem State.reg_setReg_self (s : State) (k : Nat) (v : Word) : (s.setReg k v).reg k = v := by
  simp [State.reg, State.setReg]

theorem State.reg_setReg_ne (s : State) {k j : Nat} (v : Word) (h : j ≠ k) : (s.setReg k v).reg j = s.reg j := by
  simp [State.reg, State.setReg, Assoc.get_put_ne _ _ _ _ h]

theorem State.reg_setRf_ne (s : State) {k j : Nat} (hi lo v : Nat) (h : j ≠ k) : (s.setRf k hi lo v).reg j = s.reg j :=
  State.reg_setReg_ne s _ h

theorem State.rf_setReg_self (s : State) (k : Nat) (v : Word) (hi lo : Nat) : (s.setReg k v).rf k hi lo = rfld v hi lo := by
  simp [State.rf]

theorem State.rf_setReg_ne (s : State) {k j : Nat} (v : Word) (hi lo : Nat) (h : j ≠ k) : (s.setReg k v).rf j hi lo = s.rf j hi lo := by
  simp [State.rf, State.reg_setReg_ne s v h]

theorem State.rf_setRf_self (s : State) (k v : Nat) {hi lo : Nat} (h : lo ≤ hi + 1) (hh : hi < 32) :
    (s.setRf k hi lo v).rf k hi lo = v % 2 ^ (hi + 1 - lo) := by
  simp [State.rf, State.setRf, rfld_rset_self _ _ h hh]

theorem State.rf_setRf_other (s : State) (k v : Nat) {hi lo hi' lo' : Nat} (h : lo ≤ hi + 1) (hh : hi < 32) (hd : hi' < lo ∨ hi < lo') :
    (s.setRf k hi lo v).rf k hi' lo' = s.rf k hi' lo' := by
  simp [State.rf, State.setRf, rfld_rset_ne _ _ h hh hd]

theorem State.rf_setRf_ne (s : State) {k j : Nat} (v hi lo hi' lo' : Nat) (h : j ≠ k) :
    (s.setRf k hi lo v).rf j hi' lo' = s.rf j hi' lo' := State.rf_setReg_ne s _ _ _ h

theorem State.reg_count_ne (s : State) {k j : Nat} (hi lo n : Nat) (h : j ≠ k) : (s.count k hi lo n).reg j = s.reg j :=
  State.reg_setReg_ne s _ h

/-- R8, R13: registers of a range take their reset values, the others stay. -/
theorem State.reg_resetRegs (s : State) (a n k : Nat) :
    (s.resetRegs a n).reg k = if a ≤ k ∧ k < a + n then regReset k else s.reg k := by
  simp [State.reg, State.resetRegs, Assoc.get_clear]

/-! ### Arbiters and records -/

theorem State.arbN_grant_self (s : State) (a : Nat) : (s.grant a).arbN a = (s.arbN a + 1) % 2 ^ 48 := by
  simp [State.arbN, State.grant]

theorem State.arbN_grant_ne (s : State) {a b : Nat} (h : b ≠ a) : (s.grant a).arbN b = s.arbN b := by
  simp [State.arbN, State.grant, Assoc.get_put_ne _ _ _ _ h]

@[simp] theorem State.casement_setCas_self (s : State) (d : Nat) (c : Cas) : (s.setCas d c).casement d = c := by
  simp [State.casement, State.setCas]

theorem State.casement_setCas_ne (s : State) {d e : Nat} (c : Cas) (h : e ≠ d) : (s.setCas d c).casement e = s.casement e := by
  simp [State.casement, State.setCas, Assoc.get_put_ne _ _ _ _ h]

@[simp] theorem State.lt_setLt_self (s : State) (d t : Nat) (x : LTile) : (s.setLt d t x).lt d t = x := by
  simp [State.lt, State.setLt]

theorem State.lt_setLt_ne (s : State) {d t e u : Nat} (x : LTile) (h : ltKey e u ≠ ltKey d t) : (s.setLt d t x).lt e u = s.lt e u := by
  simp [State.lt, State.setLt, Assoc.get_put_ne _ _ _ _ h]

@[simp] theorem State.tile_setTile_self (s : State) (p : Nat) (x : PTile) : (s.setTile p x).tile p = x := by
  simp [State.tile, State.setTile]

theorem State.tile_setTile_ne (s : State) {p q : Nat} (x : PTile) (h : q ≠ p) : (s.setTile p x).tile q = s.tile q := by
  simp [State.tile, State.setTile, Assoc.get_put_ne _ _ _ _ h]

@[simp] theorem State.fn_setFn_self (s : State) (f : Nat) (x : FnSt) : (s.setFn f x).fn f = x := by
  simp [State.fn, State.setFn]

theorem State.fn_setFn_ne (s : State) {f g : Nat} (x : FnSt) (h : g ≠ f) : (s.setFn f x).fn g = s.fn g := by
  simp [State.fn, State.setFn, Assoc.get_put_ne _ _ _ _ h]

@[simp] theorem State.port_setPort_self (s : State) (p : Nat) (x : Port) : (s.setPort p x).port p = x := by
  simp [State.port, State.setPort]

theorem State.port_setPort_ne (s : State) {p q : Nat} (x : Port) (h : q ≠ p) : (s.setPort p x).port q = s.port q := by
  simp [State.port, State.setPort, Assoc.get_put_ne _ _ _ _ h]

@[simp] theorem State.fab_setFab_self (s : State) (d : Nat) (x : Fab) : (s.setFab d x).fab d = x := by
  simp [State.fab, State.setFab]

theorem State.fab_setFab_ne (s : State) {d e : Nat} (x : Fab) (h : e ≠ d) : (s.setFab d x).fab e = s.fab e := by
  simp [State.fab, State.setFab, Assoc.get_put_ne _ _ _ _ h]

@[simp] theorem State.lay_setLay_self (s : State) (n : Nat) (x : Lay) : (s.setLay n x).lay n = x := by
  simp [State.lay, State.setLay]

theorem State.lay_setLay_ne (s : State) {n m : Nat} (x : Lay) (h : m ≠ n) : (s.setLay n x).lay m = s.lay m := by
  simp [State.lay, State.setLay, Assoc.get_put_ne _ _ _ _ h]

/-! A record written twice holds the second value. -/

theorem Assoc.put_put {α : Type} [DecidableEq α] (l : List (Nat × α)) (k : Nat) (v w d : α) :
    Assoc.put (Assoc.put l k v d) k w d = Assoc.put l k w d := by
  have hd : ∀ l : List (Nat × α), Assoc.drop (Assoc.drop l k) k = Assoc.drop l k := by
    intro l
    induction l with
    | nil => rfl
    | cons y r ih => by_cases h : y.1 = k <;> simp [Assoc.drop, h, ih]
  have hi : ∀ l : List (Nat × α), Assoc.drop (Assoc.ins l k v) k = Assoc.drop l k := by
    intro l
    induction l with
    | nil => simp [Assoc.ins, Assoc.drop]
    | cons y r ih =>
      by_cases h : k < y.1
      · simp [Assoc.ins, Assoc.drop, h]
      · by_cases h2 : y.1 = k <;> simp [Assoc.ins, Assoc.drop, h, h2, ih]
  have h : Assoc.drop (Assoc.put l k v d) k = Assoc.drop l k := by
    by_cases hv : v = d <;> simp [Assoc.put, hv, hd, hi]
  show (if w = d then Assoc.drop (Assoc.put l k v d) k else Assoc.ins (Assoc.drop (Assoc.put l k v d) k) k w) = _
  rw [h]; rfl

@[simp] theorem State.setLt_setLt (s : State) (d t : Nat) (x y : LTile) : (s.setLt d t x).setLt d t y = s.setLt d t y := by
  simp [State.setLt, Assoc.put_put]

@[simp] theorem State.setCas_setCas (s : State) (d : Nat) (x y : Cas) : (s.setCas d x).setCas d y = s.setCas d y := by
  simp [State.setCas, Assoc.put_put]

@[simp] theorem State.setPort_setPort (s : State) (p : Nat) (x y : Port) : (s.setPort p x).setPort p y = s.setPort p y := by
  simp [State.setPort, Assoc.put_put]

@[simp] theorem State.setReg_setReg (s : State) (k : Nat) (v w : Word) : (s.setReg k v).setReg k w = s.setReg k w := by
  simp [State.setReg, Assoc.put_put]

end Sys2Proof.Machine
end

