-- ==== Sys2Proof/Laws/Issue.lean ====
section
/-! SUPPORT. The course of a tile instruction, once for all of them: what issue answers when the tile takes the instruction, when its
predicate is false, when its encoding is bad, when it must wait; and what the shared checks before an effect come to. -/

namespace Sys2Proof.Machine

theorem hazard_nil (inc : List Inc) (regs : List Nat) (h : hazard inc [] [] regs = false) : hazard inc [] [] [] = false := by
  induction inc with
  | nil => rfl
  | cons i r ih =>
    simp only [hazard, List.any_cons, Bool.or_eq_false_iff] at h ⊢
    refine ⟨⟨h.1.1, ?_⟩, ih h.2⟩
    induction i.wreg with
    | nil => rfl
    | cons _ _ ih => simp [List.any_cons]

/-- What the tile makes of an instruction that it takes (R207, R242, R244). -/
theorem issue_takes (d : Fin 4) (t : Fin 4096) (op : Nat) (w : IFields) (ups : List Upset) (body : State → TC → TRes) (s : State)
    (h : s.takes d t op w = true) :
    issue d t op w ups body s =
      match body s (s.tc d t ⟨op, w, ups⟩) with
      | .wait => s.hold d t ⟨op, w, ups⟩
      | .fault u f => u.raiseFault d t f (s.lt d t).pc (instrLow op w)
      | .ok r => if hazard (s.lt d t).inc r.rd r.wr [] then s.hold d t ⟨op, w, ups⟩ else r.s.issued d t r := by
  simp only [State.takes, State.looks, Bool.and_eq_true, Bool.not_eq_true', decide_eq_true_eq, Option.isNone_iff_eq_none] at h
  obtain ⟨⟨⟨⟨⟨h1, h2⟩, h3⟩, h4⟩, h5⟩, h6⟩ := h
  have h3' : ¬ maxInc ≤ (s.lt d t).inc.length := by omega
  have h6' : ((s.lt d t).pred (fld w.pred.toNat 2 0) == bit w.pred.toNat 3) = false := by
    simpa [LTile.executes] using h6
  simp only [issue, h1, h2, if_true, tryIssue, if_neg h3', h4, h5, h6', Bool.false_eq_true, if_false]
  cases hb : body s (s.tc d t ⟨op, w, ups⟩) with
  | wait => rfl
  | fault u f => rfl
  | ok r => by_cases hz : hazard (s.lt d t).inc r.rd r.wr [] = true <;> simp [hz]

/-- A tile takes an instruction only with no register awaited, so that with no range to wait for it issues. -/
theorem takes_hazard (s : State) (d t op : Nat) (w : IFields) (h : s.takes d t op w = true) :
    hazard (s.lt d t).inc [] [] [] = false := by
  simp only [State.takes, Bool.and_eq_true, Bool.not_eq_true'] at h
  exact hazard_nil _ _ h.1.2

/-- An instruction that completes at its issue. -/
theorem issue_quick (d : Fin 4) (t : Fin 4096) (op : Nat) (w : IFields) (ups : List Upset) (body : State → TC → TRes) (s u : State)
    (h : s.takes d t op w = true) (hb : body s (s.tc d t ⟨op, w, ups⟩) = quickly u) :
    issue d t op w ups body s = u.passed d t := by
  rw [issue_takes d t op w ups body s h, hb]
  simp [quickly, takes_hazard s d t op w h, State.issued, State.passed, State.issuedAs, instrBytes]

/-- An instruction whose checks find a fault. -/
theorem issue_fault (d : Fin 4) (t : Fin 4096) (op : Nat) (w : IFields) (ups : List Upset) (body : State → TC → TRes) (s u : State)
    (f : TFault) (h : s.takes d t op w = true) (hb : body s (s.tc d t ⟨op, w, ups⟩) = .fault u f) :
    issue d t op w ups body s = u.raiseFault d t f (s.lt d t).pc (instrLow op w) := by
  rw [issue_takes d t op w ups body s h, hb]

/-- An instruction that must wait joins the buffer. -/
theorem issue_wait (d : Fin 4) (t : Fin 4096) (op : Nat) (w : IFields) (ups : List Upset) (body : State → TC → TRes) (s : State)
    (h : s.takes d t op w = true) (hb : body s (s.tc d t ⟨op, w, ups⟩) = .wait) :
    issue d t op w ups body s = s.hold d t ⟨op, w, ups⟩ := by
  rw [issue_takes d t op w ups body s h, hb]

/-- An instruction whose effect stands and whose ranges meet no incomplete instruction joins the incomplete ones. -/
theorem issue_started (d : Fin 4) (t : Fin 4096) (op : Nat) (w : IFields) (ups : List Upset) (body : State → TC → TRes) (s u : State)
    (rds wrs : List (Nat × Nat)) (regs : List Nat) (kind : IKind) (h : s.takes d t op w = true)
    (hb : body s (s.tc d t ⟨op, w, ups⟩) = .ok ⟨u, rds, wrs, regs, kind, false, none⟩)
    (hz : hazard (s.lt d t).inc rds wrs [] = false) :
    issue d t op w ups body s = u.started d t rds wrs regs kind := by
  rw [issue_takes d t op w ups body s h, hb]
  simp [hz, State.issued, State.started, State.issuedAs, instrBytes]

/-- R242: an instruction whose predicate is false only lets the pc pass. -/
theorem issue_skipped (d : Fin 4) (t : Fin 4096) (op : Nat) (w : IFields) (ups : List Upset) (body : State → TC → TRes) (s : State)
    (h1 : s.looks d t = true) (h2 : encCheck op w = none) (h3 : hazard (s.lt d t).inc [] [] (instrRegs op w) = false)
    (h4 : (s.lt d t).executes w = false) : issue d t op w ups body s = s.passed d t := by
  simp only [State.looks, Bool.and_eq_true, decide_eq_true_eq] at h1
  have h5 : ¬ maxInc ≤ (s.lt d t).inc.length := by omega
  have h6 : ((s.lt d t).pred (fld w.pred.toNat 2 0) == bit w.pred.toNat 3) = true := by
    simpa [LTile.executes] using h4
  simp [issue, h1.1.1, h1.1.2, tryIssue, h5, h2, h3, h6, State.issued, State.passed, State.issuedAs, instrBytes]

/-- R242: an instruction that breaks its encoding faults, whatever its predicate. -/
theorem issue_badEncoding (d : Fin 4) (t : Fin 4096) (op : Nat) (w : IFields) (ups : List Upset) (body : State → TC → TRes) (s : State)
    (f : TFault) (h1 : s.looks d t = true) (h2 : encCheck op w = some f) :
    issue d t op w ups body s = s.raiseFault d t f (s.lt d t).pc (instrLow op w) := by
  simp only [State.looks, Bool.and_eq_true, decide_eq_true_eq] at h1
  have h5 : ¬ maxInc ≤ (s.lt d t).inc.length := by omega
  simp [issue, h1.1.1, h1.1.2, tryIssue, h5, h2]

/-- R207: an instruction behind another, with 16 incomplete, or with a register awaited joins the buffer. -/
theorem issue_queued (d : Fin 4) (t : Fin 4096) (op : Nat) (w : IFields) (ups : List Upset) (body : State → TC → TRes) (s : State)
    (h1 : s.canIssue d t = true)
    (h2 : (s.lt d t).ibuf ≠ [] ∨ 16 ≤ (s.lt d t).inc.length ∨
      (encCheck op w = none ∧ hazard (s.lt d t).inc [] [] (instrRegs op w) = true)) :
    issue d t op w ups body s = s.hold d t ⟨op, w, ups⟩ := by
  by_cases h3 : (s.lt d t).ibuf = []
  · simp only [issue, h1, if_true, h3, List.isEmpty_nil, tryIssue, maxInc]
    by_cases h4 : 16 ≤ (s.lt d t).inc.length
    · simp [h4]
    · have h5 : encCheck op w = none ∧ hazard (s.lt d t).inc [] [] (instrRegs op w) = true := by
        rcases h2 with h | h | h
        · exact absurd h3 h
        · exact absurd h h4
        · exact h
      simp [h4, h5.1, h5.2]
  · simp [issue, h1, h3]

/-- Log 2: a tile that is not inside a block of a running program takes none. -/
theorem issue_idle (d : Fin 4) (t : Fin 4096) (op : Nat) (w : IFields) (ups : List Upset) (body : State → TC → TRes) (s : State)
    (h : s.canIssue d t = false) : issue d t op w ups body s = s := by
  simp [issue, h]

/-! ### The checks before an effect -/

/-- When nothing stands against an instruction, withRanges comes to its effect. -/
theorem withRanges_clear (s : State) (k : TC) (own : List (Option TFault)) (rds wrs eaten : List Rng) (go : State → TRes)
    (h : s.clear k own rds wrs eaten = true) : withRanges s k own rds wrs eaten go = go (s.visited k rds wrs) := by
  simp only [State.clear, Bool.and_eq_true, Bool.not_eq_true', Option.isNone_iff_eq_none] at h
  simp [withRanges, h.1.1.1, h.1.1.2, h.1.2, h.2]

theorem clear_hazard (s : State) (k : TC) (own : List (Option TFault)) (rds wrs eaten : List Rng)
    (h : s.clear k own rds wrs eaten = true) : hazard (s.lt k.d k.t).inc (paneOf rds) (paneOf wrs) [] = false := by
  simp only [State.clear, Bool.and_eq_true, Bool.not_eq_true', State.rngHazard] at h
  exact h.2

theorem clear_own (s : State) (k : TC) (own : List (Option TFault)) (rds wrs eaten : List Rng)
    (h : s.clear k own rds wrs eaten = true) : s.rngFault k own rds wrs = none := by
  simp only [State.clear, Bool.and_eq_true, Option.isNone_iff_eq_none] at h
  exact h.1.1.1

/-- As withRanges_clear, with the checks of what memory holds. -/
theorem withStored_clear (s : State) (k : TC) (own : List (Option TFault)) (ts : List Tens) (recs : List Rng)
    (more : State → Option TFault) (rds wrs eaten : List Rng) (go : State → TRes) (h : s.clearStored k own ts recs more rds wrs eaten = true) :
    withStored s k own ts recs more rds wrs eaten go = go (s.visited k rds wrs) := by
  simp only [State.clearStored, State.clear, Bool.and_eq_true, Bool.not_eq_true', Option.isNone_iff_eq_none] at h
  obtain ⟨⟨⟨⟨h1, h2⟩, h3⟩, h4⟩, h5⟩ := h
  simp [withStored, h1, h2, h3, h4, h5]

theorem clearStored_hazard (s : State) (k : TC) (own : List (Option TFault)) (ts : List Tens) (recs : List Rng)
    (more : State → Option TFault) (rds wrs eaten : List Rng) (h : s.clearStored k own ts recs more rds wrs eaten = true) :
    hazard (s.lt k.d k.t).inc (paneOf rds) (paneOf wrs) [] = false := by
  simp only [State.clearStored, Bool.and_eq_true] at h
  exact clear_hazard s k own rds wrs eaten h.1

/-- A TWIN comparison that agrees in the end comes to the effect. -/
theorem twinned_agrees (s : State) (k : TC) (go : State → TRes) (h : (s.twinCheck k).2 = true) :
    twinned s k go = go (s.twinCheck k).1 := by
  unfold twinned
  split
  · rename_i u hu; rw [hu]
  · rename_i u hu; rw [hu] at h; simp at h

/-- No fault is the lowest only of a list without faults. -/
theorem lowest_none (l : List (Option TFault)) (h : lowest l = none) : ∀ x, x ∈ l → x = none := by
  induction l with
  | nil => simp
  | cons y r ih =>
    cases y with
    | none =>
      intro x hx
      rcases List.mem_cons.mp hx with rfl | hx
      · rfl
      · exact ih h x hx
    | some f =>
      exfalso
      simp only [lowest] at h
      split at h
      · split at h <;> simp at h
      · simp at h

/-! ### Instructions whose effect stands -/

/-- An instruction over withRanges that finds nothing against it: its effect, and it joins the incomplete ones. -/
theorem issue_ranges {d : Fin 4} {t : Fin 4096} {op : Nat} {w : IFields} {ups : List Upset} {s : State} {own : List (Option TFault)}
    {rds wrs eaten : List Rng} (body : State → TC → TRes) (go : State → TRes) (u : State) (regs : List Nat) (kind : IKind)
    (h : s.takes d t op w = true) (hc : s.clear (s.tc d t ⟨op, w, ups⟩) own rds wrs eaten = true)
    (hb : body s (s.tc d t ⟨op, w, ups⟩) = withRanges s (s.tc d t ⟨op, w, ups⟩) own rds wrs eaten go)
    (hg : go (s.visited (s.tc d t ⟨op, w, ups⟩) rds wrs) = .ok ⟨u, paneOf rds, paneOf wrs, regs, kind, false, none⟩) :
    issue d t op w ups body s = u.started d t (paneOf rds) (paneOf wrs) regs kind := by
  have e := withRanges_clear s _ own rds wrs eaten go hc
  have z := clear_hazard s _ own rds wrs eaten hc
  exact issue_started d t op w ups body s u _ _ regs kind h (by rw [hb, e, hg]) z

/-- The same over withStored. -/
theorem issue_stored {d : Fin 4} {t : Fin 4096} {op : Nat} {w : IFields} {ups : List Upset} {s : State} {own : List (Option TFault)}
    {ts : List Tens} {recs : List Rng} {more : State → Option TFault} {rds wrs eaten : List Rng} (body : State → TC → TRes) (go : State → TRes) (u : State)
    (regs : List Nat) (kind : IKind)
    (h : s.takes d t op w = true) (hc : s.clearStored (s.tc d t ⟨op, w, ups⟩) own ts recs more rds wrs eaten = true)
    (hb : body s (s.tc d t ⟨op, w, ups⟩) = withStored s (s.tc d t ⟨op, w, ups⟩) own ts recs more rds wrs eaten go)
    (hg : go (s.visited (s.tc d t ⟨op, w, ups⟩) rds wrs) = .ok ⟨u, paneOf rds, paneOf wrs, regs, kind, false, none⟩) :
    issue d t op w ups body s = u.started d t (paneOf rds) (paneOf wrs) regs kind := by
  have e := withStored_clear s _ own ts recs more rds wrs eaten go hc
  have z := clearStored_hazard s _ own ts recs more rds wrs eaten hc
  exact issue_started d t op w ups body s u _ _ regs kind h (by rw [hb, e, hg]) z

end Sys2Proof.Machine
end

