-- ==== Sys2Proof/Laws/Mem.lean ====
section
/-! SUPPORT. Every operation on a memory keeps its canonical form (Mem.wf, State.tidy), and a byte written is the byte read. -/

namespace Sys2Proof.Machine

/-! ### One memory -/

theorem Assoc.wf_filter {α : Type} [DecidableEq α] (dflt : Nat → α) (l : List (Nat × α)) (p : Nat × α → Bool) (h : Assoc.wf dflt l = true) :
    Assoc.wf dflt (l.filter p) = true := by
  induction l with
  | nil => rfl
  | cons x r ih =>
    obtain ⟨k, v⟩ := x
    rw [Assoc.wf_cons] at h
    by_cases hp : p (k, v) = true
    · rw [List.filter_cons_of_pos hp, Assoc.wf_cons]
      exact ⟨h.1, fun x hx => h.2.1 x (List.mem_filter.mp hx).1, ih h.2.2⟩
    · rw [List.filter_cons_of_neg hp]; exact ih h.2.2

theorem Mem.wf_iff (m : Mem) : m.wf = true ↔
    Assoc.wf (fun _ => 0#8) m.cells = true ∧ NSet.wf m.psn = true ∧ Assoc.wf (fun _ => 0) m.err = true := by
  simp [Mem.wf, and_assoc]

theorem Mem.wf_empty : Mem.empty.wf = true := rfl

theorem Mem.wf_clearErr {m : Mem} (k : Nat) (h : m.wf = true) : (m.clearErr k).wf = true := by
  rw [Mem.wf_iff] at *
  exact ⟨h.1, h.2.1, Assoc.wf_clear _ _ _ _ h.2.2⟩

theorem Mem.wf_setPsn {m : Mem} (k : Nat) (b : Bool) (h : m.wf = true) : (m.setPsn k b).wf = true := by
  rw [Mem.wf_iff] at *
  refine ⟨h.1, ?_, h.2.2⟩
  cases b
  · exact NSet.wf_erase _ _ h.2.1
  · exact NSet.wf_insert _ _ h.2.1

/-- A fold of steps that keep the form keeps it. -/
theorem Mem.wf_foldl {β : Type} (f : Mem → β → Mem) (hf : ∀ m x, m.wf = true → (f m x).wf = true) (l : List β) {m : Mem} (h : m.wf = true) :
    (l.foldl f m).wf = true := by
  induction l generalizing m with
  | nil => exact h
  | cons x r ih => exact ih (hf m x h)

theorem Mem.wf_cells {m : Mem} (k : Nat) (bs : List Byte) (h : m.wf = true) : { m with cells := Assoc.splice m.cells k bs 0 }.wf = true := by
  rw [Mem.wf_iff] at *
  exact ⟨Assoc.wf_splice _ _ _ _ h.1, h.2⟩

theorem Mem.wf_writeP {m : Mem} (u a : Nat) (bs : List PByte) (h : m.wf = true) : (m.writeP u a bs).wf = true :=
  Mem.wf_foldl _ (fun _ x hm => Mem.wf_setPsn x.1 _ (Mem.wf_clearErr x.1 hm)) _ (Mem.wf_cells a _ h)

theorem Mem.wf_zero {m : Mem} (u a n : Nat) (h : m.wf = true) : (m.zero u a n).wf = true := by
  rw [Mem.wf_iff] at *
  exact ⟨Assoc.wf_clear _ _ _ _ h.1, NSet.wf_clear _ _ _ h.2.1, Assoc.wf_clear _ _ _ _ h.2.2⟩

theorem Mem.wf_stale {m : Mem} (u n : Nat) (out : Nat → Bool) (h : m.wf = true) : (m.stale u n out).wf = true := by
  rw [Mem.wf_iff] at *
  exact ⟨Assoc.wf_filter _ _ _ h.1, NSet.wf_filter _ _ h.2.1, h.2.2⟩

theorem Mem.wf_invert {m : Mem} (k pos : Nat) (h : m.wf = true) : (m.invert k pos).wf = true := by
  unfold Mem.invert
  split
  · rw [Mem.wf_iff] at *
    exact ⟨Assoc.wf_put (fun _ => 0#8) _ _ _ h.1, h.2⟩
  · exact h

theorem Mem.wf_upset {m : Mem} (k pos v : Nat) (h : m.wf = true) : (m.upset k pos v).wf = true := by
  have h1 := (Mem.wf_iff _).mp (Mem.wf_invert k (pos % 72) h)
  have h2 := (Mem.wf_iff _).mp h
  exact (Mem.wf_iff _).mpr ⟨h1.1, h1.2.1, Assoc.wf_put (fun _ => 0) _ _ _ h2.2.2⟩

theorem Mem.wf_upsets {m : Mem} (k : Nat) (l : List Nat) (h : m.wf = true) : (m.upsets k l).wf = true :=
  Mem.wf_foldl _ (fun _ x hm => Mem.wf_upset k x 1 hm) l h

theorem Mem.wf_secded {m : Mem} (k : Nat) (h : m.wf = true) : (m.secded k).1.wf = true := by
  unfold Mem.secded
  split
  · exact h
  · exact Mem.wf_clearErr k (Mem.wf_invert k _ h)
  · exact Mem.wf_setPsn k true h

theorem Mem.wf_symErr {m : Mem} (k lane x : Nat) (inj : Bool) (h : m.wf = true) : (m.symErr k lane x inj).wf = true := by
  have h2 := (Mem.wf_iff _).mp h
  unfold Mem.symErr
  simp only
  rw [Mem.wf_iff]
  refine ⟨?_, h2.2.1, Assoc.wf_put (fun _ => 0) _ _ _ h2.2.2⟩
  simp only
  split
  · exact Assoc.wf_put (fun _ => 0#8) _ _ _ h2.1
  · exact h2.1

theorem Mem.wf_symErrs {m : Mem} (k : Nat) (l : List (Nat × Nat)) (h : m.wf = true) : (m.symErrs k l).wf = true :=
  Mem.wf_foldl _ (fun _ x hm => Mem.wf_symErr k x.1 x.2 false hm) l h

theorem Mem.wf_rsVisit {m : Mem} (k : Nat) (h : m.wf = true) : (m.rsVisit k).1.wf = true := by
  unfold Mem.rsVisit
  simp only
  split <;> exact Mem.wf_setPsn k _ (Mem.wf_clearErr k (Mem.wf_cells _ _ h))

/-- What was written is what is read, at every byte (R202, R292). -/
theorem Mem.get_writeP (m : Mem) (u a : Nat) (bs : List PByte) (j : Nat) :
    Assoc.get (m.writeP u a bs).cells j 0#8 =
      if a ≤ j ∧ j < a + bs.length then ((pvals bs).map (BitVec.ofNat 8)).getD (j - a) 0#8 else Assoc.get m.cells j 0#8 := by
  have hc : ∀ (l : List (Nat × Bool × Bool)) (m : Mem),
      (l.foldl (fun m x => (m.clearErr x.1).setPsn x.1 (x.2.2 || (!x.2.1 && NSet.mem m.psn x.1))) m).cells = m.cells := by
    intro l
    induction l with
    | nil => intro m; rfl
    | cons x r ih => intro m; rw [List.foldl_cons, ih]; rfl
  unfold Mem.writeP
  simp only [hc]
  have h := Assoc.get_splice m.cells a ((pvals bs).map (BitVec.ofNat 8)) j 0#8
  rw [List.length_map, pvals, List.length_map] at h
  exact h

/-- A byte outside the cleared range keeps its value, one inside reads zero (R303). -/
theorem Mem.get_zero (m : Mem) (u a n j : Nat) :
    Assoc.get (m.zero u a n).cells j 0#8 = if a ≤ j ∧ j < a + n then 0#8 else Assoc.get m.cells j 0#8 := by
  unfold Mem.zero
  simp only [Assoc.get_clear]

/-! ### The memories of the package -/

theorem State.tidy_iff (s : State) : s.tidy = true ↔
    s.pane.wf = true ∧ s.scratch.wf = true ∧ s.hbm.wf = true ∧ s.cdata.wf = true ∧ s.host.wf = true ∧ s.heldPane.wf = true ∧
      Assoc.wf (fun _ => 0#8) s.window = true ∧ Assoc.wf (fun _ => 0xFF#8) s.flash = true ∧ NSet.wf s.cdirty = true := by
  simp [State.tidy, and_assoc]

/-- The canonical form at reset. -/
theorem State.tidy_reset : State.reset.tidy = true := rfl

theorem State.tidy_foldl {β : Type} (f : State → β → State) (hf : ∀ s x, s.tidy = true → (f s x).tidy = true) (l : List β) {s : State}
    (h : s.tidy = true) : (l.foldl f s).tidy = true := by
  induction l generalizing s with
  | nil => exact h
  | cons x r ih => exact ih (hf s x h)

/-! Operations that touch no memory. -/

@[simp] theorem State.tidy_setReg (s : State) (k : Nat) (v : Word) : (s.setReg k v).tidy = s.tidy := rfl
@[simp] theorem State.tidy_setRf (s : State) (k hi lo v : Nat) : (s.setRf k hi lo v).tidy = s.tidy := State.tidy_setReg s k _
@[simp] theorem State.tidy_count (s : State) (k hi lo n : Nat) : (s.count k hi lo n).tidy = s.tidy := State.tidy_setRf s k hi lo _
@[simp] theorem State.tidy_raise (s : State) (k n : Nat) : (s.raise k n).tidy = s.tidy := State.tidy_setRf s k n n 1
@[simp] theorem State.tidy_resetRegs (s : State) (a n : Nat) : (s.resetRegs a n).tidy = s.tidy := rfl
@[simp] theorem State.tidy_grant (s : State) (a : Nat) : (s.grant a).tidy = s.tidy := rfl
@[simp] theorem State.tidy_emit (s : State) (o : Out) : (s.emit o).tidy = s.tidy := rfl
@[simp] theorem State.tidy_draw (s : State) : s.draw.tidy = s.tidy := rfl
@[simp] theorem State.tidy_refuse (s : State) : s.refuse.tidy = s.tidy := by
  unfold State.refuse
  simp only [State.tidy_draw, State.tidy_count]
@[simp] theorem State.tidy_setFn (s : State) (f : Nat) (x : FnSt) : (s.setFn f x).tidy = s.tidy := rfl
@[simp] theorem State.tidy_setCas (s : State) (d : Nat) (x : Cas) : (s.setCas d x).tidy = s.tidy := rfl
@[simp] theorem State.tidy_setLt (s : State) (d t : Nat) (x : LTile) : (s.setLt d t x).tidy = s.tidy := rfl
@[simp] theorem State.tidy_setTile (s : State) (p : Nat) (x : PTile) : (s.setTile p x).tidy = s.tidy := rfl
@[simp] theorem State.tidy_setPort (s : State) (p : Nat) (x : Port) : (s.setPort p x).tidy = s.tidy := rfl
@[simp] theorem State.tidy_setFab (s : State) (d : Nat) (x : Fab) : (s.setFab d x).tidy = s.tidy := rfl
@[simp] theorem State.tidy_setLay (s : State) (n : Nat) (x : Lay) : (s.setLay n x).tidy = s.tidy := rfl
@[simp] theorem State.tidy_injFire (s : State) : s.injFire.tidy = s.tidy := by
  unfold State.injFire
  simp only [State.tidy_setRf, State.tidy_raise]

/-! A memory replaced by one in its form. -/

theorem State.tidy_pane {s : State} {m : Mem} (h : s.tidy = true) (hm : m.wf = true) : ({ s with pane := m } : State).tidy = true := by
  rw [State.tidy_iff] at *
  exact ⟨hm, h.2⟩

theorem State.tidy_scratch {s : State} {m : Mem} (h : s.tidy = true) (hm : m.wf = true) : ({ s with scratch := m } : State).tidy = true := by
  rw [State.tidy_iff] at *
  exact ⟨h.1, hm, h.2.2⟩

theorem State.tidy_hbm {s : State} {m : Mem} (h : s.tidy = true) (hm : m.wf = true) : ({ s with hbm := m } : State).tidy = true := by
  rw [State.tidy_iff] at *
  exact ⟨h.1, h.2.1, hm, h.2.2.2⟩

theorem State.tidy_cdata {s : State} {m : Mem} (h : s.tidy = true) (hm : m.wf = true) : ({ s with cdata := m } : State).tidy = true := by
  rw [State.tidy_iff] at *
  exact ⟨h.1, h.2.1, h.2.2.1, hm, h.2.2.2.2⟩

theorem State.tidy_cdirty {s : State} {l : List Nat} (h : s.tidy = true) (hl : NSet.wf l = true) : ({ s with cdirty := l } : State).tidy = true := by
  rw [State.tidy_iff] at *
  exact ⟨h.1, h.2.1, h.2.2.1, h.2.2.2.1, h.2.2.2.2.1, h.2.2.2.2.2.1, h.2.2.2.2.2.2.1, h.2.2.2.2.2.2.2.1, hl⟩

theorem State.tidy_heldPane {s : State} {m : Mem} (h : s.tidy = true) (hm : m.wf = true) : ({ s with heldPane := m } : State).tidy = true := by
  rw [State.tidy_iff] at *
  exact ⟨h.1, h.2.1, h.2.2.1, h.2.2.2.1, h.2.2.2.2.1, hm, h.2.2.2.2.2.2⟩

theorem State.pane_wf {s : State} (h : s.tidy = true) : s.pane.wf = true := ((State.tidy_iff s).mp h).1
theorem State.scratch_wf {s : State} (h : s.tidy = true) : s.scratch.wf = true := ((State.tidy_iff s).mp h).2.1
theorem State.hbm_wf {s : State} (h : s.tidy = true) : s.hbm.wf = true := ((State.tidy_iff s).mp h).2.2.1
theorem State.cdata_wf {s : State} (h : s.tidy = true) : s.cdata.wf = true := ((State.tidy_iff s).mp h).2.2.2.1
theorem State.cdirty_wf {s : State} (h : s.tidy = true) : NSet.wf s.cdirty = true := ((State.tidy_iff s).mp h).2.2.2.2.2.2.2.2

/-! Host memory, the BAR2 windows, the flash. -/

theorem State.tidy_hostWrite {s : State} (f a : Nat) (bs : List Nat) (h : s.tidy = true) : (s.hostWrite f a bs).tidy = true := by
  unfold State.hostWrite
  rw [State.tidy_emit]
  rw [State.tidy_iff] at *
  exact ⟨h.1, h.2.1, h.2.2.1, h.2.2.2.1, Mem.wf_cells a _ h.2.2.2.2.1, h.2.2.2.2.2⟩

theorem State.tidy_flashWrite {s : State} (a : Nat) (bs : List Nat) (h : s.tidy = true) : (s.flashWrite a bs).tidy = true := by
  rw [State.tidy_iff] at *
  exact ⟨h.1, h.2.1, h.2.2.1, h.2.2.2.1, h.2.2.2.2.1, h.2.2.2.2.2.1, h.2.2.2.2.2.2.1, Assoc.wf_splice _ _ _ _ h.2.2.2.2.2.2.2.1,
    h.2.2.2.2.2.2.2.2⟩

theorem State.tidy_flashErase {s : State} (a n : Nat) (h : s.tidy = true) : (s.flashErase a n).tidy = true := by
  rw [State.tidy_iff] at *
  exact ⟨h.1, h.2.1, h.2.2.1, h.2.2.2.1, h.2.2.2.2.1, h.2.2.2.2.2.1, h.2.2.2.2.2.2.1, Assoc.wf_clear _ _ _ _ h.2.2.2.2.2.2.2.1,
    h.2.2.2.2.2.2.2.2⟩

/-! Events (R416, R417). -/

theorem State.tidy_sendVec {s : State} (f v : Nat) (h : s.tidy = true) : (s.sendVec f v).tidy = true := by
  unfold State.sendVec
  split
  · rw [State.tidy_raise]; exact h
  · rw [State.tidy_emit]; exact h

theorem State.tidy_ringSignal {s : State} (f : Nat) (e : Bool) (h : s.tidy = true) : (s.ringSignal f e).tidy = true := by
  unfold State.ringSignal
  split
  · exact State.tidy_sendVec _ _ (by rw [State.tidy_setRf]; exact h)
  · exact h

theorem State.tidy_ringWrite {s : State} (f : Nat) (e : Bool) (bs : List Nat) (h : s.tidy = true) : (s.ringWrite f e bs).tidy = true := by
  unfold State.ringWrite
  simp only
  refine State.tidy_ringSignal f e ?_
  split
  · unfold State.setRingPhase
    rw [State.tidy_setFn, State.tidy_setRf]
    exact State.tidy_hostWrite _ _ _ h
  · rw [State.tidy_setRf]
    exact State.tidy_hostWrite _ _ _ h

theorem State.tidy_ringEvent {s : State} (f : Nat) (e : Ev) (n : Nat) (h : s.tidy = true) : (s.ringEvent f e n).tidy = true := by
  unfold State.ringEvent
  split
  · simp only [State.tidy_setFn]
    exact State.tidy_ringWrite f true _ h
  · simp only [State.tidy_setFn, State.tidy_count]
    exact h

/-- Raising an event keeps every memory's form: a record written to a ring is bytes of host memory. -/
theorem State.tidy_post {s : State} (e : Ev) (h : s.tidy = true) : (s.post e).tidy = true := by
  unfold State.post
  simp only
  refine State.tidy_ringEvent 0 e _ ?_
  split
  · split
    · rw [State.tidy_grant]; exact h
    · exact State.tidy_ringEvent _ e _ (by rw [State.tidy_grant]; exact h)
  · rw [State.tidy_grant]; exact h

theorem State.tidy_postArb {s : State} (a : Nat) (e : Ev) (h : s.tidy = true) : (s.postArb a e).tidy = true :=
  State.tidy_post _ (s := s.grant a) (by rw [State.tidy_grant]; exact h)

/-! Panes. -/

theorem State.tidy_paneVisit {s : State} (p w : Nat) (h : s.tidy = true) : (s.paneVisit p w).tidy = true := by
  have hm := Mem.wf_secded (p * 65536 + w) (State.pane_wf h)
  unfold State.paneVisit
  generalize s.pane.secded (p * 65536 + w) = x at hm
  obtain ⟨m, r, inj⟩ := x
  simp only
  split
  · exact h
  · refine State.tidy_post _ ?_
    have := State.tidy_pane h hm
    rw [State.tidy_setReg]
    split
    · rw [State.tidy_count]; exact this
    · rw [State.tidy_count]; exact this

theorem State.tidy_paneTouch {s : State} (p off n : Nat) (h : s.tidy = true) : (s.paneTouch p off n).tidy = true := by
  unfold State.paneTouch
  simp only
  split
  · exact h
  · split
    · rw [State.tidy_refuse]; exact h
    · exact State.tidy_foldl _ (fun _ k hs => State.tidy_paneVisit p _ hs) _ h

theorem State.tidy_paneInject {s : State} (p off n : Nat) (h : s.tidy = true) : (s.paneInject p off n).tidy = true := by
  unfold State.paneInject
  simp only
  split
  · rw [State.tidy_injFire]
    refine State.tidy_pane (s := s) h ?_
    split
    · exact Mem.wf_upset _ _ _ (Mem.wf_upset _ _ _ (State.pane_wf h))
    · exact Mem.wf_upset _ _ _ (State.pane_wf h)
  · exact h

theorem State.tidy_paneWrite {s : State} (p off : Nat) (bs : List PByte) (h : s.tidy = true) : (s.paneWrite p off bs).tidy = true := by
  unfold State.paneWrite
  simp only
  split
  · exact h
  · split
    · rw [State.tidy_refuse]; exact h
    · refine State.tidy_paneInject p off _ ?_
      have h1 : (if off % 8 = 0 then s else s.paneTouch p off 1).tidy = true := by
        split
        · exact h
        · exact State.tidy_paneTouch _ _ _ h
      have h2 : (if (off + bs.length) % 8 = 0 ∨ (off % 8 ≠ 0 ∧ off / 8 = (off + bs.length - 1) / 8) then (if off % 8 = 0 then s else s.paneTouch p off 1)
          else (if off % 8 = 0 then s else s.paneTouch p off 1).paneTouch p (off + bs.length - 1) 1).tidy = true := by
        split
        · exact h1
        · exact State.tidy_paneTouch _ _ _ h1
      exact State.tidy_pane h2 (Mem.wf_writeP _ _ _ (State.pane_wf h2))

theorem State.tidy_paneZero {s : State} (p : Nat) (h : s.tidy = true) : (s.paneZero p).tidy = true := by
  unfold State.paneZero
  split
  · rw [State.tidy_refuse]; exact h
  · exact State.tidy_paneInject _ _ _ (State.tidy_pane h (Mem.wf_zero _ _ _ (State.pane_wf h)))

theorem State.tidy_paneStale {s : State} (p : Nat) (l : List (Nat × Nat)) (h : s.tidy = true) : (s.paneStale p l).tidy = true := by
  unfold State.paneStale
  rw [State.tidy_draw]
  exact State.tidy_pane (s := s) h (Mem.wf_stale _ _ _ (State.pane_wf h))

/-! Transom words. -/

theorem State.tidy_trnCount {s : State} (sl r : Nat) (inj : Bool) (h : s.tidy = true) : (s.trnCount sl r inj).tidy = true := by
  unfold State.trnCount
  simp only
  split
  · exact h
  · refine State.tidy_post _ ?_
    split <;> rw [State.tidy_count] <;> exact h

theorem State.tidy_scratchVisit {s : State} (k : Nat) (h : s.tidy = true) : (s.scratchVisit k).tidy = true := by
  have hm := Mem.wf_secded k (State.scratch_wf h)
  unfold State.scratchVisit
  generalize s.scratch.secded k = x at hm
  obtain ⟨m, r, inj⟩ := x
  exact State.tidy_trnCount _ _ _ (State.tidy_scratch h hm)

theorem State.tidy_scratchTouch {s : State} (key n : Nat) (h : s.tidy = true) : (s.scratchTouch key n).tidy = true := by
  unfold State.scratchTouch
  split
  · exact h
  · split
    · rw [State.tidy_refuse]; exact h
    · exact State.tidy_foldl _ (fun _ k hs => State.tidy_scratchVisit k hs) _ h

theorem State.tidy_scratchInject {s : State} (key n : Nat) (h : s.tidy = true) : (s.scratchInject key n).tidy = true := by
  unfold State.scratchInject
  simp only
  split
  · rw [State.tidy_injFire]
    refine State.tidy_scratch (s := s) h ?_
    split
    · exact Mem.wf_upset _ _ _ (Mem.wf_upset _ _ _ (State.scratch_wf h))
    · exact Mem.wf_upset _ _ _ (State.scratch_wf h)
  · exact h

theorem State.tidy_scratchWrite {s : State} (key : Nat) (bs : List PByte) (h : s.tidy = true) : (s.scratchWrite key bs).tidy = true := by
  unfold State.scratchWrite
  simp only
  split
  · exact h
  · split
    · rw [State.tidy_refuse]; exact h
    · refine State.tidy_scratchInject key _ ?_
      have h1 : (if key % 8 = 0 then s else s.scratchTouch key 1).tidy = true := by
        split
        · exact h
        · exact State.tidy_scratchTouch _ _ h
      have h2 : (if (key + bs.length) % 8 = 0 ∨ (key % 8 ≠ 0 ∧ key / 8 = (key + bs.length - 1) / 8) then (if key % 8 = 0 then s else s.scratchTouch key 1)
          else (if key % 8 = 0 then s else s.scratchTouch key 1).scratchTouch (key + bs.length - 1) 1).tidy = true := by
        split
        · exact h1
        · exact State.tidy_scratchTouch _ _ h1
      exact State.tidy_scratch h2 (Mem.wf_writeP _ _ _ (State.scratch_wf h2))

theorem State.tidy_sliceZero {s : State} (sl : Nat) (h : s.tidy = true) : (s.sliceZero sl).tidy = true :=
  State.tidy_scratch h (Mem.wf_zero _ _ _ (State.scratch_wf h))

/-! HBM. -/

theorem State.tidy_hbmVisit {s : State} (k : Nat) (h : s.tidy = true) : (s.hbmVisit k).tidy = true := by
  have hm := Mem.wf_rsVisit k (State.hbm_wf h)
  unfold State.hbmVisit
  generalize s.hbm.rsVisit k = x at hm
  obtain ⟨m, r, lane, inj⟩ := x
  have h1 := State.tidy_hbm h hm
  simp only
  split
  · exact h1
  · refine State.tidy_post _ ?_
    split
    · rw [State.tidy_setReg, State.tidy_setReg, State.tidy_count]; exact h1
    · rw [State.tidy_setReg, State.tidy_count]; exact h1

theorem State.tidy_hbmTouch {s : State} (key n : Nat) (h : s.tidy = true) : (s.hbmTouch key n).tidy = true := by
  unfold State.hbmTouch
  split
  · exact h
  · split
    · rw [State.tidy_refuse]; exact h
    · exact State.tidy_foldl _ (fun _ k hs => State.tidy_hbmVisit k hs) _ h

theorem State.tidy_hbmInject {s : State} (key n : Nat) (h : s.tidy = true) : (s.hbmInject key n).tidy = true := by
  unfold State.hbmInject
  simp only
  split
  · rw [State.tidy_injFire]
    refine State.tidy_hbm (s := s) h ?_
    have hc : ∀ (m : Mem) (w : List Nat) (k lane : Nat), m.wf = true →
        (if nth w lane 0 < 256 then m.symErr k lane 0xFF true else m).wf = true := by
      intro m w k lane hm
      split
      · exact Mem.wf_symErr _ _ _ _ hm
      · exact hm
    split
    · exact hc _ _ _ _ (hc _ _ _ _ (State.hbm_wf h))
    · exact hc _ _ _ _ (State.hbm_wf h)
  · exact h

theorem State.tidy_hbmPut {s : State} (key : Nat) (bs : List PByte) (h : s.tidy = true) : (s.hbmPut key bs).tidy = true := by
  unfold State.hbmPut
  simp only
  split
  · exact h
  · split
    · rw [State.tidy_refuse]; exact h
    · refine State.tidy_hbmInject key _ ?_
      have h1 : (if key % 32 = 0 then s else s.hbmTouch key 1).tidy = true := by
        split
        · exact h
        · exact State.tidy_hbmTouch _ _ h
      have h2 : (if (key + bs.length) % 32 = 0 ∨ (key % 32 ≠ 0 ∧ key / 32 = (key + bs.length - 1) / 32) then (if key % 32 = 0 then s else s.hbmTouch key 1)
          else (if key % 32 = 0 then s else s.hbmTouch key 1).hbmTouch (key + bs.length - 1) 1).tidy = true := by
        split
        · exact h1
        · exact State.tidy_hbmTouch _ _ h1
      exact State.tidy_hbm h2 (Mem.wf_writeP _ _ _ (State.hbm_wf h2))

/-! Cached lines. -/

theorem State.tidy_lineTouch {s : State} (sl key n : Nat) (h : s.tidy = true) : (s.lineTouch sl key n).tidy = true := by
  unfold State.lineTouch
  split
  · exact h
  · refine State.tidy_foldl _ (fun s k hs => ?_) _ h
    have hm := Mem.wf_secded k (State.cdata_wf hs)
    simp only
    generalize s.cdata.secded k = x at hm
    obtain ⟨m, r, inj⟩ := x
    exact State.tidy_trnCount _ _ _ (State.tidy_cdata hs hm)

theorem State.tidy_clines {s : State} (l : List (Nat × Nat)) (h : s.tidy = true) : ({ s with clines := l } : State).tidy = true := h

theorem State.tidy_lineDrop {s : State} (l : Nat) (h : s.tidy = true) : (s.lineDrop l).tidy = true :=
  State.tidy_clines _ (State.tidy_cdata (State.tidy_cdirty h (NSet.wf_erase _ _ (State.cdirty_wf h)))
    (Mem.wf_zero 8 (l * 128) 128 (State.cdata_wf h)))

theorem State.tidy_lineBack {s : State} (sl l : Nat) (h : s.tidy = true) : (s.lineBack sl l).tidy = true := by
  unfold State.lineBack
  simp only
  split
  · exact State.tidy_lineDrop l (State.tidy_hbmPut _ _ (State.tidy_lineTouch _ _ _ h))
  · exact State.tidy_lineDrop l h

theorem State.tidy_lineRoom {s : State} (sl l : Nat) (h : s.tidy = true) : (s.lineRoom sl l).tidy = true := by
  unfold State.lineRoom
  simp only
  split
  · exact h
  · split
    · exact h
    · rw [State.tidy_draw]; exact State.tidy_lineBack _ _ h

theorem State.tidy_lineAlloc {s : State} (sl l : Nat) (h : s.tidy = true) : (s.lineAlloc sl l).tidy = true := by
  unfold State.lineAlloc
  split
  · exact h
  · exact State.tidy_clines _ (State.tidy_lineRoom sl l h)

theorem State.tidy_lineFill {s : State} (sl l : Nat) (h : s.tidy = true) : (s.lineFill sl l).tidy = true := by
  unfold State.lineFill
  simp only
  split
  · exact h
  · have h1 := State.tidy_hbmTouch (l * 128) 128 (State.tidy_lineAlloc sl l h)
    exact State.tidy_cdata h1 (Mem.wf_writeP _ _ _ (State.cdata_wf h1))

theorem State.tidy_lineReadTouch {s : State} (sl key n : Nat) (h : s.tidy = true) : (s.lineReadTouch sl key n).tidy = true := by
  unfold State.lineReadTouch
  split
  · rw [State.tidy_refuse]; exact h
  · split
    · exact State.tidy_lineTouch _ _ _ h
    · split
      · exact State.tidy_hbmTouch _ _ h
      · exact State.tidy_lineTouch _ _ _ (State.tidy_lineFill _ _ h)

theorem State.tidy_lineInject {s : State} (sl key n : Nat) (h : s.tidy = true) : (s.lineInject sl key n).tidy = true := by
  unfold State.lineInject
  simp only
  split
  · rw [State.tidy_injFire]
    refine State.tidy_cdata (s := s) h ?_
    split
    · exact Mem.wf_upset _ _ _ (Mem.wf_upset _ _ _ (State.cdata_wf h))
    · exact Mem.wf_upset _ _ _ (State.cdata_wf h)
  · exact h

theorem State.tidy_ite {c : Prop} [Decidable c] {a b : State} (ha : a.tidy = true) (hb : b.tidy = true) :
    (if c then a else b).tidy = true := by split <;> assumption

theorem State.tidy_lineWrite {s : State} (sl key : Nat) (bs : List PByte) (h : s.tidy = true) : (s.lineWrite sl key bs).tidy = true := by
  unfold State.lineWrite
  simp only
  split
  · rw [State.tidy_refuse]; exact h
  · split
    · exact State.tidy_hbmPut _ _ h
    · refine State.tidy_lineInject _ _ _ ?_
      have h1 : (if key % 128 = 0 ∧ bs.length = 128 then s.lineAlloc sl (lineOf key) else s.lineFill sl (lineOf key)).tidy = true :=
        State.tidy_ite (State.tidy_lineAlloc _ _ h) (State.tidy_lineFill _ _ h)
      have hw : ∀ u : State, u.tidy = true →
          ({ u with cdirty := NSet.insert u.cdirty (lineOf key), cdata := u.cdata.writeP 8 key bs } : State).tidy = true := fun u hu =>
        State.tidy_cdata (State.tidy_cdirty hu (NSet.wf_insert _ _ (State.cdirty_wf hu))) (Mem.wf_writeP _ _ _ (State.cdata_wf hu))
      exact hw _ (State.tidy_ite (State.tidy_ite h1 (State.tidy_lineTouch _ _ _ h1))
        (State.tidy_lineTouch _ _ _ (State.tidy_ite h1 (State.tidy_lineTouch _ _ _ h1))))

end Sys2Proof.Machine
end

