-- ==== Sys2Proof/WellFormed.lean ====
section
/-! DEFINITION. The commands that can come about: every operand fits the field, the bus or the unit it stands for. The
machine gives every command a meaning; a sender sends only these. -/

namespace Sys2Proof

/-- The values fit w bits. -/
def allBits (w : Nat) (l : List Nat) : Bool := l.all (fun x => decide (x < 2 ^ w))

/-- Bytes. -/
def bytesOk (l : List Nat) : Bool := allBits 8 l

/-- R205 and the array checks of R191: four arrays of 16 columns, the results of lanes 32 to 63. -/
def Upset.wf : Upset → Bool
  | .array arr col _ _ _ => decide (arr < 4 ∧ col < 16)
  | .twin elem bitn _ => decide (32 ≤ elem % 64 ∧ bitn < 32)
  | .fold _ tries => decide (tries < 3)

/-- R331: a frame as it can arrive: a header with its CRC, 0 to 16 chunks of payload. -/
def frameOk (b : List Nat) : Bool := bytesOk b && decide (b.length % 32 = 0 ∧ 32 ≤ b.length ∧ b.length ≤ 544)

/-- R300, R305: a request of a slice stays inside one line. -/
def TReq.wf (r : TReq) : Bool := decide (0 < r.bytes.length ∧ r.addr % 128 + r.bytes.length ≤ 128) && bytesOk r.bytes

/-- What a board can put into BRINGUP. -/
def BringIn.wf (b : BringIn) : Bool :=
  b.flash.all (fun x => bytesOk x.2) && allBits 32 [b.straps] && b.tileFail.all (fun p => decide (p < 640)) &&
    b.dieFail.all (fun d => decide (d < 4)) && b.trnFail.all (fun x => decide (x.1 < 16)) &&
    (b.dqBad ++ b.caBad).all (fun x => decide (x.1 < 24)) && b.portFail.all (fun p => decide (p < 8)) && decide (b.lanes.length ≤ 8) &&
    b.peers.all (fun x => decide (x.1 < 8 ∧ x.2.1 < 2 ^ 16 ∧ x.2.2 < 16)) && b.regDead.all (fun d => decide (d < 4))

/-- R449: the classes of blocks with their counts. -/
def blockOk (cls idx : Nat) : Bool :=
  match cls with
  | 0 => decide (idx < 640)
  | 1 => decide (idx < 4)
  | 2 => decide (idx < 24)
  | 3 => decide (idx < 16)
  | 4 => decide (idx < 8)
  | 5 => decide (idx = 0)
  | _ => false

/-- What the shutters of one command can meet. -/
def ShutIn.wf (x : ShutIn) : Bool :=
  x.stuck.all (fun b => blockOk b.1 b.2.1) && (x.dq ++ x.ca).all (fun l => decide (l.1 < 24))

/-- Casements, by their lowest die. -/
def PageEnv.wf (e : PageEnv) : Bool := e.others.all (fun d => decide (d < 4))

/-- What a seal test can bring. -/
def SealIn.wf (r : SealIn) : Bool :=
  r.tileFail.all (fun p => decide (p < 640)) && r.lineFail.all (fun x => decide (x.1 < 16)) && allBits 32 [r.lanesExcl, r.unitsFail, r.durMs, r.peakW]

/-- R482: the fields of a request, at their widths. -/
def MBody.wf : MBody → Bool
  | .regRead off n => decide (off < 2 ^ 32 ∧ n < 2 ^ 16)
  | .regWrite off vs => decide (off < 2 ^ 32 ∧ vs.length ≤ 256)
  | .fwu op addr len arm epoch => decide (op < 256 ∧ addr < 2 ^ 64 ∧ len < 2 ^ 32 ∧ arm < 2 ^ 32 ∧ epoch < 2 ^ 32)
  | .lifecycle target token => decide (target < 256) && bytesOk token
  | .attest nonce => bytesOk nonce
  | .poll inst off => decide (inst < 256 ∧ off < 2 ^ 32)
  | .bad cmd => decide (cmd < 256)
  | .identify => true
  | .status => true
  | .telemetry => true
  | .reset => true
  | .sealTest => true

/-- R481, R393: transport and configuration requests. -/
def McCtl.wf : McCtl → Bool
  | .setEid e => decide (e < 256)
  | .getEid => true
  | .version => true
  | .types => true
  | .vendor => true

def CfgReq.wf : CfgReq → Bool
  | .read off => decide (off < 4096 ∧ off % 4 = 0)
  | .write off data => decide (off < 4096 ∧ off % 4 = 0 ∧ data < 2 ^ 32)
  | .aerRead => true
  | .aerClear b => decide (b < 2 ^ 32)
  | .bar4 n => decide (30 ≤ n ∧ n ≤ 41)
  | .power _ => true

/-- R201, R297: a code word has 72 bits. -/
def flipsOk (l : List Nat) : Bool := l.all (fun f => decide (f < 72))

/-- R287, R291: a code word has 36 symbols, and an error of a symbol is a nonzero byte. -/
def symsOk (l : List (Nat × Nat)) : Bool := l.all (fun e => decide (e.1 < 36 ∧ 0 < e.2 ∧ e.2 < 256))

/-- A register offset of BAR0, of a 32-bit register or, for a 64-bit access, of a pair (R7). -/
def offOk (off : Nat) (wide : Bool) : Bool := decide (off < 2 ^ 26 ∧ off % (if wide then 8 else 4) = 0)

/-- A command that can come about. -/
def Instr.wf : Instr → Bool
  | .mmq _ _ _ u | .mmw _ _ _ u | .lrc _ _ _ u | .qnt _ _ _ u | .dqt _ _ _ u | .rot _ _ _ u | .ewo _ _ _ u | .red _ _ _ u
  | .opt _ _ _ u | .ared _ _ _ u => u.all Upset.wf
  | .epochStep _ _ w => decide (w.fmt ≠ 1#4)
  | .epochToken _ _ w => decide (w.fmt = 1#4)
  | .paneRead _ _ flips | .paneScrubVisit _ flips | .transomScrubVisit _ flips => flipsOk flips
  | .paneWrite _ off bytes _ => decide (0 < bytes.length ∧ off + bytes.length ≤ 2 ^ 19) && bytesOk bytes
  | .transomAccess _ reqs flips _ => reqs.all TReq.wf && flipsOk flips
  | .hbmRead _ chunk _ _ errs => decide (chunk < 2 ^ 31) && symsOk errs
  | .hbmWrite _ off _ _ bytes _ => decide (0 < bytes.length ∧ off + bytes.length ≤ 2 ^ 36) && bytesOk bytes
  | .hbmRefresh _ temp _ => decide (temp < 256)
  | .hbmPatrolScrub _ _ errs => symsOk errs
  | .pageOut _ e | .pageInPrefetch _ e => e.wf
  | .pageInDemand _ va e => decide (va < 2 ^ 48) && e.wf
  | .bar4Read _ _ _ others => others.all (fun d => decide (d < 4))
  | .frameReceive _ b => frameOk b
  | .requestTimeout _ id => decide (id < 2 ^ 16)
  | .portTraining _ lanes => decide (lanes ≤ 16)
  | .laneErrorRetrain _ lane => decide (lane < 16)
  | .digest _ bad => decide (bad < 3)
  | .fabEntryWrite _ off _ => offOk off false
  | .hardenedScrubVisit flips _ => flips.all (fun c => decide (c.1 < 3 ∧ c.2 < 33))
  | .intakeWrite f off bytes => decide (0 < bytes.length ∧ off + bytes.length ≤ if f = 0 then 2 ^ 24 else 2 ^ 20) && bytesOk bytes
  | .dieTest _ fails => fails.all (fun p => decide (p < 640))
  | .bar4Write _ _ bytes _ others => decide (0 < bytes.length) && bytesOk bytes && others.all (fun d => decide (d < 4))
  | .configRequest _ r => r.wf
  | .badWidthAccess _ off w _ => decide (off < 2 ^ 26 ∧ ¬ ((w = 4 ∧ off % 4 = 0) ∨ (w = 8 ∧ off % 8 = 0)))
  | .rcRead _ off wide => offOk off wide
  | .regWrite _ off wide _ => offOk off wide
  | .blockResetWrite _ off _ => offOk off false
  | .shutter cls idx => blockOk cls idx
  | .shutterDrained cls idx x | .shutterTimeout cls idx _ x => blockOk cls idx && x.wf
  | .casementEnd _ x | .casementReset _ x | .flr _ x | .perst x | .hotReset x | .wdtExpiry x | .fwuActivate _ x | .mgtReset x
  | .mgtFwu _ x => x.wf
  | .bringup b => b.wf
  | .sealTestComplete r => r.wf
  | .lcTransition _ target => decide (target < 8)
  | .powerMeasurement w avg => decide (w < 2 ^ 12 ∧ avg < 2 ^ 12)
  | .regulatorPoll _ mv pace => decide (mv < 2 ^ 10 ∧ pace < 2 ^ 12)
  | .temperatureChange _ tj _ temp => decide (tj < 256 ∧ temp < 256)
  | .i3cEntdaa a => decide (a < 128)
  | .mctpControl _ c => c.wf
  | .mgtRequestArrival _ r => decide (r.inst < 256) && r.body.wf
  | .completionTimeout _ dst n =>
    match dst with
    | .pane p off => decide (p < 640 ∧ off + n ≤ 2 ^ 19)
    | .spad off => decide (off + n ≤ 2 ^ 29)
    | .hbm x => decide (x + n ≤ 24 * 2 ^ 36)
  | .unassignedOpcode _ _ op _ => decide (¬ op.toNat ∈ [0x01, 0x02, 0x03, 0x04, 0x05, 0x06, 0x10, 0x11, 0x12, 0x18, 0x19, 0x1A, 0x1B,
      0x20, 0x21, 0x28, 0x29, 0x2A, 0x30, 0x31, 0x38, 0x39, 0x3A, 0x40, 0x41, 0x42, 0x43, 0x44, 0x50, 0x51, 0x52, 0x53, 0x54, 0x55])
  | _ => true

end Sys2Proof
end

