-- ==== Sys2Proof/Tests/Slice0.lean ====
section
/-! SUPPORT. The author's own tests: ill-formed commands refused by Instr.wf, worked examples of the spec, and for every statement of
Certificates/Slice0/Obligations.lean with hypotheses a state and operands that meet them. -/

namespace Sys2Proof.Tests

-- One theorem at a time: the kernel evaluations of this file are many.
set_option Elab.async false

open Sys2Proof.Machine

/-! ### States and operands for the tests -/

/-- What a command leaves. -/
def after (c : Instr) (s : State) : State :=
  match exec c s with
  | .next t => t
  | _ => State.reset

/-- An instruction's fields; operands as R239 numbers them. -/
def fields (fmt dst a b c : Nat) (imm : Nat) (modw : Nat := 0) (pred : Nat := 0) : IFields :=
  ⟨BitVec.ofNat 4 fmt, BitVec.ofNat 4 pred, BitVec.ofNat 8 dst, BitVec.ofNat 8 a, BitVec.ofNat 8 b, BitVec.ofNat 8 c,
   BitVec.ofNat 16 modw, BitVec.ofNat 64 imm⟩

/-- The operand bytes of R239: descriptor n, scalar n, predicate n, special n; NONE. -/
def oTd (n : Nat) : Nat := n
def oS (n : Nat) : Nat := 0x40 + n
def oP (n : Nat) : Nat := 0x80 + n
def oX (n : Nat) : Nat := 0xC0 + n
def oNone : Nat := 0xC0

/-- A logical tile inside a block at 0x1000 of 16 instructions, on position 0. -/
def tileIn : LTile := { LTile.reset with phase := .running, phys := some 0, bstart := 0x1000, bend := 0x10F0, pc := 0x1000 }

/-- A casement on die 0 that runs a program of one tile: tag 0x0C21. -/
def casIn : Cas := { Cas.reset with exist := true, tag := 0x0C21, mask := 1, phase := .running, nlt := 1, gx := 1, gy := 1 }

/-- The package with that casement and a logical tile x. -/
def runs (x : LTile) : State :=
  { State.reset with cas := [(0, casIn)], lts := [(0, x)], tiles := [(0, { PTile.reset with own := some (0, 0) })] }

/-- A register set for a test. -/
def regsAt (s : State) (l : List (Nat × Nat)) : State := l.foldl (fun s x => s.setReg x.1 (BitVec.ofNat 32 x.2)) s

/-- The package after bring-up with nothing in it: options loaded, READY_L asserted, the link up, dies 0 to 3 available. -/
def upState : State :=
  { regsAt State.reset [(0x0010000, 0x01000101), (0x0020808, 9), (0x1000014, 0x20), (0x0000110, 15)] with
    boot := ⟨true, true, true, true, 0⟩ }


/-! ### Ill-formed commands (WellFormed.lean): each check refuses one -/

theorem test_wf_upset_array : Instr.wf (.mmq 0 0 (fields 0 0 0 0 0 0) [.array 4 0 0 0 1]) = false := by decide
theorem test_wf_upset_twin : Instr.wf (.ewo 0 0 (fields 0 0 0 0 0 0) [.twin 31 0 1]) = false := by decide
theorem test_wf_epoch_step : Instr.wf (.epochStep 0 0 (fields 1 0 0 0 0 0)) = false := by decide
theorem test_wf_epoch_token : Instr.wf (.epochToken 0 0 (fields 0 0 0 0 0 0)) = false := by decide
theorem test_wf_flips : Instr.wf (.paneRead 0 0 [72]) = false := by decide
theorem test_wf_pane_write : Instr.wf (.paneWrite 0 524288 [1] false) = false := by decide
theorem test_wf_pane_byte : Instr.wf (.paneWrite 0 0 [256] false) = false := by decide
theorem test_wf_slice_request : Instr.wf (.transomAccess 0 [⟨.write, false, 127, [1, 2], false⟩] [] []) = false := by decide
theorem test_wf_hbm_chunk : Instr.wf (.hbmRead 0 (2 ^ 31) .move [] []) = false := by decide
theorem test_wf_hbm_symbol : Instr.wf (.hbmRead 0 0 .move [] [(36, 1)]) = false := by decide
theorem test_wf_hbm_write : Instr.wf (.hbmWrite 0 (2 ^ 36) .write [] [0] false) = false := by decide
theorem test_wf_hbm_refresh : Instr.wf (.hbmRefresh 0 256 false) = false := by decide
theorem test_wf_patrol : Instr.wf (.hbmPatrolScrub 0 0 [(0, 0)]) = false := by decide
theorem test_wf_page_in : Instr.wf (.pageInDemand 0 (2 ^ 48) ⟨[], [], []⟩) = false ∧ Instr.wf (.pageOut 0 ⟨[4], [], []⟩) = false := by decide
theorem test_wf_frame : Instr.wf (.frameReceive 0 (List.replicate 33 0)) = false ∧ Instr.wf (.frameReceive 0 (List.replicate 576 0)) = false ∧
    Instr.wf (.frameReceive 0 (List.replicate 32 256)) = false := by decide +kernel
theorem test_wf_request_timeout : Instr.wf (.requestTimeout 0 65536) = false := by decide
theorem test_wf_training : Instr.wf (.portTraining 0 17) = false := by decide
theorem test_wf_lane : Instr.wf (.laneErrorRetrain 0 16) = false := by decide
theorem test_wf_digest : Instr.wf (.digest 0 3) = false := by decide
theorem test_wf_entry : Instr.wf (.fabEntryWrite .mgt 0x0210002 0) = false := by decide
theorem test_wf_visit : Instr.wf (.hardenedScrubVisit [(0, 33)] none) = false := by decide
theorem test_wf_intake : Instr.wf (.intakeWrite 0 (2 ^ 24) [0]) = false ∧ Instr.wf (.intakeWrite 1 (2 ^ 20) [0]) = false := by decide
theorem test_wf_die_test : Instr.wf (.dieTest 0 [640]) = false := by decide
theorem test_wf_bar4 : Instr.wf (.bar4Write 0 0 [] false []) = false := by decide
theorem test_wf_config : Instr.wf (.configRequest 0 (.read 4096)) = false ∧ Instr.wf (.configRequest 0 (.bar4 42)) = false := by decide
theorem test_wf_bad_width : Instr.wf (.badWidthAccess .mgt 0 4 false) = false := by decide
theorem test_wf_read : Instr.wf (.rcRead .mgt 4 true) = false := by decide
theorem test_wf_write : Instr.wf (.regWrite .mgt (2 ^ 26) false 0) = false := by decide
theorem test_wf_reset_bit : Instr.wf (.blockResetWrite .mgt 0x0010101 0) = false := by decide
theorem test_wf_shutter : Instr.wf (.shutter 0 640) = false ∧ Instr.wf (.shutterDrained 5 1 .none) = false ∧ Instr.wf (.shutterTimeout 6 0 0 .none) = false ∧
    Instr.wf (.hotReset ⟨[], [(24, 0, 0)], []⟩) = false := by
  decide
theorem test_wf_bringup : Instr.wf (.bringup ⟨[(0, [256])], true, 0, 0, [], [], [], [], [], [], [], [], [], 0⟩) = false := by decide
theorem test_wf_seal : Instr.wf (.sealTestComplete ⟨[640], [], 0, 0, 0, 0, true⟩) = false := by decide
theorem test_wf_life_cycle : Instr.wf (.lcTransition .mgt 8) = false := by decide
theorem test_wf_power : Instr.wf (.powerMeasurement 4096 0) = false := by decide
theorem test_wf_regulator : Instr.wf (.regulatorPoll 0 1024 0) = false := by decide
theorem test_wf_temperature : Instr.wf (.temperatureChange 0 256 0 0) = false := by decide
theorem test_wf_address : Instr.wf (.i3cEntdaa 128) = false := by decide
theorem test_wf_mctp : Instr.wf (.mctpControl false (.setEid 256)) = false := by decide
theorem test_wf_request : Instr.wf (.mgtRequestArrival false ⟨0, .poll 256 0⟩) = false := by decide
theorem test_wf_timeout : Instr.wf (.completionTimeout 0 (.pane 640 0) 1) = false := by decide
theorem test_wf_unassigned : Instr.wf (.unassignedOpcode 0 0 0x50 (fields 0 0 0 0 0 0)) = false := by decide
theorem test_wf_good : Instr.wf (.salu 0 0 (fields 0 0x40 0x41 0x42 0xC0 0)) = true := by decide


/-! ### Worked examples of the spec -/

/-- R388: the check values of the nine bytes 0x31 to 0x39. -/
theorem test_crc_table : (List.range 4).map (fun n => crcFeeds (crcPoly n) (crcEmpty (crcPoly n)) (rangeFrom 0x31 9)) =
    [0xE3069283, 0xCBF43926, 0x6C40DF5F0B497347, 0x29B1] := by decide +kernel

/-- R390: the combine of two parts is the value of the whole. -/
theorem test_crc_combine : (List.range 4).map (fun n => crcCombine (crcPoly n)
      (crcFeeds (crcPoly n) (crcEmpty (crcPoly n)) (rangeFrom 0x31 4)) (crcFeeds (crcPoly n) (crcEmpty (crcPoly n)) (rangeFrom 0x35 5)) 5) =
    [0xE3069283, 0xCBF43926, 0x6C40DF5F0B497347, 0x29B1] := by decide +kernel

/-- 13_integrity.md, feeding nine bytes: the last FEED8 of unit 0. -/
theorem test_cvu_feed : (after (.cvuFeed8 .mgt 0 0x39#32) (regsAt State.reset
    [(0x0061004, crcFeeds (crcPoly 0) 0 (rangeFrom 0x31 8))])).reg 0x0061004 = 0xE3069283#32 := by decide +kernel

/-- R392: a write of POLY 3 brings the empty value 0xFFFF. -/
theorem test_cvu_poly : (after (.cvuCtlWrite .mgt 7 3#32) State.reset).reg 0x00611C4 = 0xFFFF#32 := by decide +kernel

/-- R438: with 160 good tiles the spares are good positions 9, 19 to 159. -/
theorem test_spare_map : spareMap (rangeFrom 0 160) = (List.range 16).map (fun j => 10 * j + 9) := by decide +kernel

/-- 15_reset_and_bringup.md, a seal test at the default cap: four stacks and four slices leave a wave of 96 tiles; 800 W leave 44. -/
theorem test_seal_wave : (SealSt.mk [] 640 ((List.range 4).map (fun i => (i, 55)) ++ (List.range 4).map (fun i => (100 + i, 6))) false).wave 1200 = 96 ∧
    (SealSt.mk [] 640 ((List.range 4).map (fun i => (i, 55)) ++ (List.range 4).map (fun i => (100 + i, 6))) false).wave 800 = 44 := by decide

/-- 11_memory_system.md, where an address lives: dies 1 and 3, X = 1,000,000,000. -/
theorem test_address : paKey 0xA 1000000000 = 9 * 2 ^ 36 + 83331584 ∧ paSlice 0xA 1000000000 = 4 := by decide +kernel

/-- 10_instruction_set.md, encoding a checked MMQ: bits [63:0]. -/
theorem test_instr_low : instrLow 0x10 (fields 1 4 0 1 0xC0 0x12CA2480052 0x34) = 0x0034C00100040110 := by decide

/-- 06_randomness.md, the noise of one entry. -/
theorem test_lg : lg 4290820613 = 2097059 ∧ lg 65629 = 1048706 ∧ gumbel 0x7FE05D02 = -130 := by decide +kernel

/-- 14_host_interface.md, the carve for a two-die casement: DIES 0b1010, CTXF 73, PTF 8. -/
theorem test_carve : (Cmd.mk 0x10 false 0 0 0 0 (0xA + 73 * 2 ^ 48 + 8 * 2 ^ 64)).newCas.ctxBase = 0xBFF5C00000 ∧
    (Cmd.mk 0x10 false 0 0 0 0 (0xA + 73 * 2 ^ 48 + 8 * 2 ^ 64)).newCas.ptBase = 0xBFFEE00000 ∧
    (Cmd.mk 0x10 false 0 0 0 0 (0xA + 73 * 2 ^ 48 + 8 * 2 ^ 64)).newCas.traceBase = 0xBFFFE00000 ∧
    (Cmd.mk 0x10 false 0 0 0 0 (0xA + 73 * 2 ^ 48 + 8 * 2 ^ 64)).newCas.freshEnd = 393134 := by decide +kernel

/-- 10_instruction_set.md, the side area of a U4 tensor: 3 lines, K = 300, OUTL = 1. -/
theorem test_side_area : (fun t : Tens => (t.pFine.base - t.side, t.pFine.stride, t.offSum, t.pSum.stride, t.offBias, t.offOut, t.pOut.bytes))
      (tens (BitVec.ofNat 256 (2 ^ 44 + 2 * 2 ^ 84 + 2 ^ 89 + 2 * 2 ^ 92 + 3 * 2 ^ 108 + 300 * 2 ^ 128)) 1) =
    (128, 32, 256, 64, 512, 640, 128) := by decide +kernel

/-- 13_integrity.md, three replicas: 0x7347 is 0x46E6_8E00 in AF32. -/
theorem test_vote_value : ffAF32.encX (.fin ⟨29511, 0⟩) = 0x46E68E00 := by decide +kernel

/-- R285, SALU wraps: the greatest word plus 2; the source is the destination. -/
theorem test_salu_wraps : ((after (.salu 0 0 (fields 0 (oS 1) (oS 1) oNone oNone 2)) (runs { tileIn with sregs := [(1, 0xFFFFFFFF#32)] })).lt 0 0).sregs =
    [(1, 1#32)] := by decide +kernel

/-- R206: a write to p0 is ignored. -/
theorem test_pcmp_p0 : ((after (.pcmp 0 0 (fields 1 (oP 0) (oS 1) oNone oNone 0)) (runs tileIn)).lt 0 0).preds = 1#8 := by decide +kernel

/-- R284: a branch two instructions back leaves the block and faults: the program ends. -/
theorem test_br_outside : ((after (.br 0 0 (fields 0 oNone oNone oNone oNone 0xFFFFFFFE)) (runs tileIn)).casement 0).phase = .stopped := by
  decide +kernel

/-- R201: one flipped bit of a Pane word is corrected and counted. -/
theorem test_pane_corrected : (after (.paneRead 3 5 [7]) State.reset).pane = Mem.empty ∧
    (after (.paneRead 3 5 [7]) State.reset).reg (rTil 3 0x30) = 1#32 := by decide +kernel

/-- R201: two flipped bits poison the word. -/
theorem test_pane_poisoned : (after (.paneRead 3 5 [7, 8]) State.reset).pane.psn = [3 * 65536 + 5] ∧
    (after (.paneRead 3 5 [7, 8]) State.reset).reg (rTil 3 0x30) = 0x10000#32 := by decide +kernel

/-- R291: one symbol of an HBM chunk is corrected, two are not. -/
theorem test_hbm_symbols : (after (.hbmRead 2 9 .move [] [(4, 0x80)]) State.reset).reg (rMem 2 0x10) = 1#32 ∧
    (after (.hbmRead 2 9 .move [] [(4, 0x80), (5, 1), (6, 1)]) State.reset).reg (rMem 2 0x10) = 0x10000#32 := by decide +kernel

/-- R375: the right key opens the window over one register. -/
theorem test_unlock : (after (.hunlkKeyWrite .mgt 0x6A5C93F1#32) State.reset).bank 1 = ⟨0, 0, true, 0, 1, 1⟩ := by decide +kernel

/-- R11: a hardened register without a window stays as it is. -/
theorem test_locked : (after (.pkgidWrite .mgt 5#32) State.reset).reg 0x0200000 = 0#32 := by decide +kernel

/-- R424, R425: a pulse of SYS_RST_L before option loading has ended counts a restart. -/
theorem test_loadrst : (after (.sysRst true) State.reset).rf 0x0010000 23 16 = 1 ∧ (after (.sysRst true) State.reset).rf 0x0010000 3 0 = 2 := by
  decide +kernel

/-- R477: a measurement over the cap starts a burst of ten steps on every die. -/
theorem test_burst : (after (.powerMeasurement 3700 3650) { upState with pwr := { Pwr.reset with vcmd := [750, 750, 750, 750] } }).pwr.down =
    [10, 10, 10, 10] := by decide +kernel

/-- R478, R486: a cap that has been written shows in the telemetry record from the next measurement on. -/
theorem test_power_in_force :
    ((upState.setRf 0x1000000 11 0 1300).telemetry.take 4 == [0, 0, 16, 14] &&
      (after (.powerMeasurement 100 90) (upState.setRf 0x1000000 11 0 1300)).telemetry.take 4 == [90, 0, 20, 5]) = true := by decide +kernel

/-- R475: one step of 5 mV down. -/
theorem test_voltage_step : (after (.voltageStep 2) { upState with pwr := { Pwr.reset with vcmd := [750, 750, 750, 750], down := [0, 0, 3, 0] } }).pwr.vcmd =
    [750, 750, 745, 750] := by decide +kernel

/-- An idle frame of credit returns alone. -/
def idle : Frame := ⟨.idle, 0, false, false, false, 0, 0, 0, 0, 0, 0, [0, 0, 0, 0]⟩

/-- R337, R336: a port's frame with a flipped bit has a bad CRC and asks for a replay; the same frame unflipped does not. -/
theorem test_bad_frame : ((after (.frameReceive 1 (flipBytes (wireBytes idle))) (regsAt State.reset [(rPort 1 0, 2)])).port 1).nak = true ∧
    ((after (.frameReceive 1 (wireBytes idle)) (regsAt State.reset [(rPort 1 0, 2)])).port 1).nak = false := by decide +kernel

/-- R237 to R239: the word of the checked MMQ of 10_instruction_set.md reads as that command. -/
theorem test_decode_word : decodeWord 3 7 (fieldsWord 0x10 (fields 1 4 0 1 0xC0 0x12CA2480052 0x34)) =
    .mmq 3 7 (fields 1 4 0 1 0xC0 0x12CA2480052 0x34) [] ∧
    decodeWord 3 7 (fieldsWord 0x7F (fields 0 0 0 0 0 0)) = .unassignedOpcode 3 7 0x7F (fields 0 0 0 0 0 0) := by decide +kernel

/-! ### Witnesses: tile instructions -/

/-- A descriptor: base, format, lines, length; the fields of a second line; side area; space; LSTR of a bit. -/
def tdsc (base fc lines len : Nat) (side : Nat := 0) (sp : Nat := 0) (outl : Nat := 0) (dstr : Nat := 0) : Desc :=
  BitVec.ofNat 256 (base / 128 + side / 128 * 2 ^ 41 + sp * 2 ^ 82 + fc * 2 ^ 84 + outl * 2 ^ 89 + dstr / 128 * 2 ^ 92 +
    lines * 2 ^ 108 + len * 2 ^ 128)

/-- A running tile with descriptors, scalars, 16 words of scratchpad allotment and one layer entry in reach. -/
def holds (tds : List (Nat × Desc)) (sregs : List (Nat × BitVec 32) := []) : State :=
  regsAt (runs { tileIn with tds := tds, sregs := sregs }) [(0x0180000, 1), (0x0070250, 1)]

def ctx (s : State) (op : Nat) (w : IFields) (ups : List Upset := []) : TC := s.tc 0 0 ⟨op, w, ups⟩

theorem witness_ScalarResults :
    (runs tileIn).takes 0 0 0x50 (fields 13 (oS 31) (oS 31) (oS 0) oNone 0) = true ∧
    (runs tileIn).takes 0 0 0x51 (fields 0 (oS 31) oNone oNone oNone 0xFFFFFFFF) = true ∧
    (runs tileIn).takes 0 0 0x52 (fields 5 (oP 7) (oS 0) oNone oNone 0xFFFFFFFF) = true ∧
    (runs tileIn).takes 0 0 0x53 (fields 3 (oP 0) (oP 7) (oP 7) oNone 0) = true ∧
    (runs tileIn).takes 0 0 0x55 (fields 0 (oX 0x2F) (oS 31) oNone oNone 0) = true ∧
    ((runs tileIn).takes 0 0 0x54 (fields 0 (oS 0) (oX 0x3F) oNone oNone 0) = true ∧ specLayer 0x3F = false) ∧
    ((holds []).takes 0 0 0x54 (fields 0 (oS 0) (oX 0x14) oNone oNone 0) = true ∧ specLayer 0x14 = true ∧
      ((holds []).lt 0 0).stepWaits = false ∧ ((holds []).layer 0 0).isSome = true) ∧
    ((runs { tileIn with inc := [⟨3, [], [], [], .step⟩] }).takes 0 0 0x54 (fields 0 (oS 0) (oX 0x14) oNone oNone 0) = true ∧
      ({ tileIn with inc := [⟨3, [], [], [], .step⟩] } : LTile).stepWaits = true) := by decide +kernel

/-- A load of 32 bytes at offset a, and what stands there. -/
def tdAt (a : Nat) : State := runs { tileIn with sregs := [(1, BitVec.ofNat 32 a)] }

theorem witness_DescriptorMoves :
    ((tdAt 524256).takes 0 0 0x04 (fields 0 63 (oS 1) oNone oNone 0) = true ∧
      ppsn (((tdAt 524256).paneTouch 0 524256 32).paneRead 0 524256 32) = false ∧ hazard (tileIn).inc [(524256, 32)] [] [] = false) ∧
    ((tdAt 1).takes 0 0 0x04 (fields 0 63 (oS 1) oNone oNone 0) = true ∧ hazard (tileIn).inc [(1, 32)] [] [] = false) ∧
    (tdAt 524288).takes 0 0 0x04 (fields 0 63 (oS 1) oNone oNone 0) = true ∧
    ((tdAt 524256).takes 0 0 0x05 (fields 0 (oS 1) 63 oNone oNone 0) = true ∧ hazard (tileIn).inc [] [(524256, 32)] [] = false) ∧
    (tdAt 31).takes 0 0 0x05 (fields 0 (oS 1) 63 oNone oNone 0) = true ∧
    (tdAt 524288).takes 0 0 0x05 (fields 0 (oS 1) 63 oNone oNone 0) = true ∧
    (tdAt 0).takes 0 0 0x06 (fields 0 63 (oS 1) oNone oNone 0) = true ∧
    ((runs { tileIn with inc := [⟨0, [], [(0, 1)], [], .plain⟩] }).takes 0 0 0x04 (fields 0 63 (oS 1) oNone oNone 0) = true ∧
      hazard [⟨0, [], [(0, 1)], [], .plain⟩] [(0, 32)] [] [] = true ∧ hazard [⟨0, [], [(0, 1)], [], .plain⟩] [] [(0, 32)] [] = true) ∧
    (tdAt 0).takes 0 0 0x06 (fields 6 63 (oS 1) oNone oNone 0) = true := by decide +kernel

/-- Branches to the block's first and last instruction, one past them on either side, and one not taken. -/
theorem witness_BranchTarget :
    (runs tileIn).takes 0 0 0x44 (fields 0 oNone oNone oNone oNone 0) = true ∧
    (BitVec.ofInt 64 ((0x1000 : Int) + 16 * (BitVec.ofNat 32 0).toInt)).toNat = tileIn.bstart ∧
    (runs tileIn).takes 0 0 0x44 (fields 0 oNone oNone oNone oNone 15) = true ∧
    (BitVec.ofInt 64 ((0x1000 : Int) + 16 * (BitVec.ofNat 32 15).toInt)).toNat = tileIn.bend ∧
    (runs tileIn).takes 0 0 0x44 (fields 0 oNone oNone oNone oNone 16) = true ∧
    (runs tileIn).takes 0 0 0x44 (fields 0 oNone oNone oNone oNone 0xFFFFFFFF) = true ∧
    (let w := fields 0 oNone oNone oNone oNone 0 0 8
     (runs tileIn).looks 0 0 = true ∧ encCheck 0x44 w = none ∧ hazard (tileIn).inc [] [] (instrRegs 0x44 w) = false ∧
       (tileIn).executes w = false) := by decide +kernel

/-- A good end with the last live entry at the Pane's end and the greatest wait word; a live entry one block too far; a wait word with
bit 20. -/
theorem witness_BlockEnd :
    (let x := { tileIn with lr := [(15, 0x1003FF#32)], sregs := [(4, 0xFFFFF#32)] }
     (runs x).takes 0 0 0x43 (fields 0 oNone (oS 4) oNone oNone 0x8000) = true ∧ x.lreg 15 < 2 ^ 21 ∧
       (x.lreg 15 % 1024 + x.lreg 15 / 1024 % 2048 = 1024 + 1023) ) ∧
    (let x := { tileIn with lr := [(15, 0x403FF#32)] }
     (runs x).takes 0 0 0x43 (fields 0 oNone oNone oNone oNone 0x8000) = true ∧ 1024 < x.lreg 15 % 1024 + x.lreg 15 / 1024 % 2048) ∧
    (let x := { tileIn with lr := [(15, 0x7FF#32)], sregs := [(7, 0x100001#32)] }
     (runs x).takes 0 0 0x43 (fields 0 oNone (oS 4) oNone oNone 0x8000) = true ∧ x.lreg 15 % 1024 + x.lreg 15 / 1024 % 2048 = 1024 ∧
       (x.sreg 7) % 2 ^ 16 ≠ 0 ∧ 2 ^ 20 ≤ x.sreg 7) ∧
    (let x := { tileIn with lr := [(15, 0x7FF#32)], sregs := [(7, 0xFFFFF#32)] }
     (runs x).takes 0 0 0x43 (fields 0 oNone (oS 4) oNone oNone 0x800F) = true ∧
       x.lreg 15 % 1024 + x.lreg 15 / 1024 % 2048 = 1024 ∧ x.lreg 15 < 2 ^ 21 ∧ x.sreg 7 < 2 ^ 20) := by decide +kernel

/-- Package 1, LIVE and master of a group of n packages 1 to n. -/
def onFab (n : Nat) (s : State) : State :=
  regsAt s ([(0x0200000, 1), (rFab 0 0, 0x0C21), (rFab 0 4, n * 2 ^ 12), (rFab 0 8, 2 ^ 12), (rFab 0 0xC, 1), (rFab 0 0x18, 1),
    (0x0218000, n * 2 ^ 12 + 2 ^ 24), (0x0218004, 16)] ++ (List.range n).map (fun m => (0x0210000 + 4 * m, 2 ^ 16 + m + 1)))

theorem witness_SyncForms :
    ((runs tileIn).takes 0 0 0x42 (fields 0 oNone oNone oNone oNone 0) = true) ∧
    ((runs { tileIn with inc := [⟨0, [], [], [], .plain⟩] }).takes 0 0 0x42 (fields 0 oNone oNone oNone oNone 0) = true) ∧
    ((runs { tileIn with ac := [(15, 0xFFFF#32)] }).takes 0 0 0x39 (fields 0 oNone oNone oNone oNone 0xFFFFF) = true ∧
      ({ tileIn with ac := [(15, 0xFFFF#32)] } : LTile).acnt 15 = 0xFFFF) ∧
    ((runs { tileIn with ac := [(15, 0xFFFE#32)] }).takes 0 0 0x39 (fields 0 oNone oNone oNone oNone 0xFFFFF) = true) ∧
    ((runs tileIn).takes 0 0 0x40 (fields 0 oNone oNone oNone oNone (2 ^ 12 + 15 * 2 ^ 25)) = true ∧ (0 : Nat) + 1 ≤ casIn.nlt) ∧
    ((runs tileIn).takes 0 0 0x40 (fields 0 oNone oNone oNone oNone (1 + 2 ^ 12)) = true ∧ casIn.nlt < 1 + 1) ∧
    ((runs tileIn).takes 0 0 0x41 (fields 0 oNone oNone oNone oNone 0) = true ∧ tileIn.stepOpen = false) ∧
    ((runs tileIn).takes 0 0 0x41 (fields 0 oNone oNone oNone oNone 1) = true) ∧
    (let w := fields 1 oNone oNone oNone oNone 0
     ((runs tileIn).takes 0 0 0x41 w = true ∧ (runs tileIn).tokenBad (ctx (runs tileIn) 0x41 w) = true) ∧
     ((onFab 1 (runs tileIn)).takes 0 0 0x41 w = true ∧ (onFab 1 (runs tileIn)).tokenBad (ctx (onFab 1 (runs tileIn)) 0x41 w) = false ∧
       ((onFab 1 (runs tileIn)).fab 0).tokOut = none ∧ ((onFab 1 (runs tileIn)).members 0).length = 1) ∧
     ((onFab 2 (runs tileIn)).takes 0 0 0x41 w = true ∧ (onFab 2 (runs tileIn)).tokenBad (ctx (onFab 2 (runs tileIn)) 0x41 w) = false ∧
       ((onFab 2 (runs tileIn)).fab 0).tokOut = none ∧ ((onFab 2 (runs tileIn)).members 0).length = 2)) := by decide +kernel

theorem witness_Arrivals :
    ((runs { tileIn with ac := [(15, 0xFFFFFFFE#32)] }).lt 0 0).acnt 15 = 2 ^ 32 - 2 ∧
    ((runs { tileIn with ac := [(15, 0xFFFFFFFF#32)] }).lt 0 0).acnt 15 = 2 ^ 32 - 1 ∧
    ((runs { tileIn with inc := [⟨7, [], [], [], .send ⟨tdsc 0 5 1 16, tdsc 128 5 1 16, 0, 15⟩⟩] }).lt 0 0).inc.find? (fun j => j.id == 7) =
      some ⟨7, [], [], [], .send ⟨tdsc 0 5 1 16, tdsc 128 5 1 16, 0, 15⟩⟩ := by decide +kernel

/-- LD out of the scratchpad, ST into it, MOV within it, each of the last line of the Pane. -/
theorem witness_MovementsComplete :
    (let s := holds [(1, tdsc 523776 5 1 256), (2, tdsc 0 5 1 256 0 1), (3, tdsc 512 5 1 256 0 1)]
     let ld := ctx s 0x01 (fields 0 1 2 oNone oNone 0)
     let st := ctx s 0x02 (fields 0 2 1 oNone oNone (2 ^ 20))
     let mv := ctx s 0x03 (fields 0 3 2 oNone oNone 0)
     s.takes 0 0 0x01 ld.w = true ∧ s.clear ld (moveFaults s ld (inPane ld.tDst)) ld.moveRds ld.moveWrs [] = true ∧
     s.takes 0 0 0x02 st.w = true ∧ s.clear st (moveFaults s st (inPane st.tA)) st.moveRds st.moveWrs [] = true ∧
     s.takes 0 0 0x03 mv.w = true ∧ s.clear mv (moveFaults s mv none) mv.moveRds mv.moveWrs [] = true) := by decide +kernel

/-- CRC: the last 8 bytes of the Pane, one byte too many, and a combine; DGST of 16 BF16 elements. -/
theorem witness_CheckValues :
    (let s := holds [(1, tdsc 0 5 1 16)] [(8, 524280#32), (9, 8#32), (10, 9#32)]
     let k := ctx s 0x30 (fields 2 (oS 30) (oS 30) (oS 8) (oS 9) 0)
     let g := ctx s 0x31 (fields 0 (oS 30) 1 (oS 30) oNone 0)
     (s.takes 0 0 0x30 k.w = true ∧ s.clear k [] [⟨3, 0, 524280, 8⟩] [] [⟨3, 0, 524280, 8⟩] = true) ∧
     s.takes 0 0 0x30 (fields 2 (oS 30) (oS 30) (oS 8) (oS 10) 0) = true ∧
     s.takes 0 0 0x30 (fields 11 (oS 31) (oS 31) (oS 0) (oS 9) 0) = true ∧
     s.takes 0 0 0x31 g.w = true ∧ s.clear g [g.tA.check, s.planeCheck g g.tA] g.tA.lineAll [] g.tA.lineAll = true) := by decide +kernel

/-- Zero tensors in the Pane: AF32 and BF16 results, an E2M1 pair with records and an outlier plane, a BF16 pair, a U4 block. -/
def tensors : State := holds [(1, tdsc 0 7 1 1), (2, tdsc 8192 0 1 16 16384), (3, tdsc 24576 0 1 16 32768), (4, tdsc 40960 5 1 16),
  (5, tdsc 49152 5 1 16), (6, tdsc 57344 5 1 1), (7, tdsc 65536 0 1 16 73728 0 1), (8, tdsc 81920 7 1 16), (9, tdsc 90112 7 1 16)]
  [(8, 5#32), (10, 98304#32), (12, 0#32), (14, 98304#32), (16, 102400#32), (18, 98336#32)]

theorem witness_ProductsComplete :
    (let s := tensors
     let k := ctx s 0x10 (fields 0 1 2 3 oNone 0 24)
     let c := s.mmqCase k
     let v := s.visited k (k.mmqRds c) k.tDst.wrRngs
     let u := v.mismatch k.lsel c.entry (decide (c.lev < c.asked))
     s.takes 0 0 0x10 k.w = true ∧
     s.clearStored k (mmqFaults s k) [k.tA, k.tB] [] (fun _ => none) (k.mmqRds c) k.tDst.wrRngs (k.mmqRds c) = true ∧
     (u.prodCheck k (v.mmqRun k c)).2.2 = []) ∧
    (let s := tensors
     let k := ctx s 0x11 (fields 0 1 4 5 oNone 0) [.array 0 0 0 0 1]
     let u := s.visited k k.mmwRds k.tDst.wrRngs
     s.takes 0 0 0x11 k.w = true ∧ s.clearStored k (mmwFaults s k) [] [] (fun _ => none) k.mmwRds k.tDst.wrRngs k.mmwRds = true ∧
     (u.prodCheck k (u.mmwRun k)).2.2 = []) ∧
    (let s := tensors
     let k := ctx s 0x12 (fields 0 6 2 5 oNone 0 24)
     let v := s.visited k k.lrcRds k.tDst.wrRngs
     let u := v.mismatch k.lsel 0 (decide (3 < s.levelOf k.lsel 0))
     s.takes 0 0 0x12 k.w = true ∧ s.layer 0 k.layIdx = some 0 ∧ s.levelOf k.lsel 0 = 3 ∧
     s.clearStored k (lrcFaults s k) [k.tA] [] (fun _ => none) k.lrcRds k.tDst.wrRngs k.lrcRds = true ∧
     (u.prodCheck k (v.lrcRun k)).2.2 = []) ∧
    (let k := ctx tensors 0x12 (fields 0 6 2 5 oNone 0 16)
     tensors.takes 0 0 0x12 k.w = true ∧ tensors.layer 0 k.layIdx = some 0 ∧ tensors.levelOf k.lsel 0 = 2) := by decide +kernel

theorem witness_ConversionsComplete :
    (let s := tensors
     let k := ctx s 0x18 (fields 0 2 4 oNone (oS 10) (12 * 2 ^ 12) 2) [.twin 0 0 1]
     let c := s.qcase k
     let u := s.visited k (k.qntRds c) k.qntWrs
     s.takes 0 0 0x18 k.w = true ∧ s.clearStored k (qntFaults s k) [] k.histRng k.histFault (k.qntRds c) k.qntWrs (k.qntRds c) = true ∧
     (u.twinCheck k).2 = true) ∧
    (let s := tensors
     let k := ctx s 0x19 (fields 0 4 2 oNone oNone 0)
     let u := s.visited k k.unaryRds k.dqtWrs
     s.takes 0 0 0x19 k.w = true ∧ s.clearStored k (dqtFaults s k) [k.tA] [] (fun _ => none) k.unaryRds k.dqtWrs k.unaryRds = true ∧
     (u.twinCheck k).2 = true) ∧
    (let s := tensors
     let k := ctx s 0x1A (fields 1 4 4 oNone oNone 0)
     let u := s.visited k k.unaryRds k.tDst.wrRngs
     s.takes 0 0 0x1A k.w = true ∧ s.clear k (rotFaults s k) k.unaryRds k.tDst.wrRngs k.unaryRds = true ∧
     (u.twinCheck k).2 = true ∧ s.layer 0 k.layLow = some 0) ∧
    (let s := tensors
     let k := ctx s 0x1B (fields 0 4 7 oNone oNone 0)
     let u := s.visited k k.outxRds k.tDst.wrRngs
     s.takes 0 0 0x1B k.w = true ∧ s.clearStored k (outxFaults s k) [] (k.outRecs s) k.outxHeld k.outxRds k.tDst.wrRngs k.outxEats = true ∧
     u.rngPoison k (u.outxEls k) = none) := by decide +kernel

theorem witness_VectorComplete :
    (let s := tensors
     let k := ctx s 0x20 (fields 3 8 oNone oNone oNone 12)
     s.takes 0 0 0x20 k.w = true ∧ s.clear k (rngFaults s k) k.rngRds k.rngWrs k.rngRds = true) ∧
    (let s := tensors
     let k := ctx s 0x21 (fields 0 (oS 10) 4 (oS 0) oNone (12 * 2 ^ 18))
     let m := ctx s 0x21 (fields 2 (oS 10) (oS 16) (oS 0) oNone (2 ^ 23))
     (s.takes 0 0 0x21 k.w = true ∧ s.clear k (smpFaults s k) k.tA.lineAll [k.smpOut] k.tA.lineAll = true) ∧
     (s.takes 0 0 0x21 m.w = true ∧ s.clear m [smpAlign m] [m.pairsDst, m.pairsA] [m.pairsDst] [m.pairsDst, m.pairsA] = true)) ∧
    (let s := tensors
     let k := ctx s 0x28 (fields 3 4 4 5 5 0)
     let u := s.visited k k.ewoRds k.tDst.wrRngs
     s.takes 0 0 0x28 k.w = true ∧ s.clear k (ewoFaults s k) k.ewoRds k.tDst.wrRngs k.ewoRds = true ∧ (u.twinCheck k).2 = true) ∧
    (let s := tensors
     let k := ctx s 0x29 (fields 4 6 4 oNone oNone 0)
     let r := ctx s 0x29 (fields 8 8 9 (oS 0) (oS 0) 0)
     let u := s.visited k k.unaryRds k.tDst.wrRngs
     (s.takes 0 0 0x29 k.w = true ∧ s.clear k (redFaults s k) k.unaryRds k.tDst.wrRngs k.unaryRds = true ∧ (u.twinCheck k).2 = true) ∧
     (s.takes 0 0 0x29 r.w = true ∧ s.clear r (treeFaults s r) r.treeRds r.treeWrs r.treeRds = true)) := by decide +kernel

theorem witness_UpdateCompletes :
    (let s := tensors.paneWrite 0 98304 (clean [0, 0xA0, 1, 0, 0, 0xA4, 1, 0])
     let k := ctx s 0x2A (fields 5 4 8 (oS 14) (oS 18) (12 * 2 ^ 12))
     let c := (s.optVisit k).optCase k
     let u := s.visited k (k.optRds c) (k.optWrs c)
     s.takes 0 0 0x2A k.w = true ∧ s.clear k (optAllFaults s k c) (k.optRds c) (k.optWrs c) (k.optRds c) = true ∧
     (u.twinCheck k).2 = true) := by decide +kernel

theorem witness_CollectsStart :
    (let s := tensors
     let k := ctx s 0x38 (fields 0 5 4 (oS 0) oNone 15)
     s.takes 0 0 0x38 k.w = true ∧ s.clear k (sendFaults s k) k.tA.lineAll [] [] = true ∧
       hazard (s.lt 0 0).inc k.tA.pane k.tDst.pane [] = false) ∧
    (let s := onFab 2 tensors
     let k := ctx s 0x3A (fields 0 8 9 (oS 0) oNone 0) [.fold 0 1]
     s.takes 0 0 0x3A k.w = true ∧ s.clear k (aredFaults s k) k.tA.lineAll [] [] = true ∧
       hazard (s.lt 0 0).inc k.tA.pane [] [] = false) := by decide +kernel

theorem witness_IssueRules :
    (let w := fields 0 (oS 1) (oS 1) oNone oNone 0 0 8
     tileArgs (.salu 0 0 w) = some (0, 0, ⟨0x50, w, []⟩) ∧ (runs tileIn).looks 0 0 = true ∧ encCheck 0x50 w = none ∧
       hazard tileIn.inc [] [] (instrRegs 0x50 w) = false ∧ tileIn.executes w = false) ∧
    (let w := fields 14 (oS 1) (oS 1) oNone oNone 0 0 8
     tileArgs (.salu 0 0 w) = some (0, 0, ⟨0x50, w, []⟩) ∧ encCheck 0x50 w = some ⟨1, 0, 0⟩) ∧
    opSpec 0xFF 0 = none ∧
    (let x := { tileIn with ibuf := [⟨0x42, fields 0 oNone oNone oNone oNone 0, []⟩] }
     (runs x).canIssue 0 0 = true ∧ x.ibuf ≠ []) ∧
    (let x := { tileIn with inc := List.replicate 16 ⟨0, [], [], [], .plain⟩ }
     (runs x).canIssue 0 0 = true ∧ 16 ≤ x.inc.length) ∧
    (let x := { tileIn with inc := [⟨0, [], [], [5], .plain⟩] }
     let w := fields 0 (oS 1) (oS 5) oNone oNone 0
     (runs x).canIssue 0 0 = true ∧ encCheck 0x50 w = none ∧ hazard x.inc [] [] (instrRegs 0x50 w) = true) ∧
    tileArgs (.fence 3 4095 (fields 0 oNone oNone oNone oNone 0)) = some (3, 4095, ⟨0x42, fields 0 oNone oNone oNone oNone 0, []⟩) ∧
    State.reset.canIssue 3 4095 = false := by decide +kernel

/-! ### Witnesses: tiles and blocks -/

/-- A tile with one incomplete instruction of number 9. -/
def oneInc (k : IKind) : LTile := { tileIn with ac := [(0, 5#32)], inc := [⟨9, [], [], [], k⟩], nextId := 10 }

/-- A tree reduction of one tile. -/
def redOp : RedOp := ⟨0, 1, 0, 0, 0, [0], 0, tdsc 1024 7 1 16, tdsc 0 7 1 16, 0, 0, false, false, 0x1000, 0x29, []⟩

theorem witness_InstructionCompletes :
    (∀ k ∈ ([.plain, .ared, .recv 0 5, .recv 0 6, .red redOp] : List IKind),
      ((runs (oneInc k)).lt 0 0).inc.find? (fun j => j.id == 9) = some ⟨9, [], [], [], k⟩) ∧ (oneInc .plain).acnt 0 = 5 := by
  decide +kernel

/-- A tile whose block has ended; the code of its next block in a page that is resident, one that is not mapped. -/
def ended (halt : Bool) : LTile := { tileIn with phase := .ended, haltReq := halt }

/-- Page 0 of the casement's space with leaf entry e. -/
def paged (x : LTile) (e : Nat) : State :=
  (((runs x).putEntry 0 0 0x1001).putEntry 0 0x1000 0x2001).putEntry 0 0x2000 e

theorem witness_BlockEdges :
    (∀ h : Bool, ((runs (ended h)).lt 0 0).phys = some 0 ∧ ((runs (ended h)).casement 0).phase = .running ∧
      ((runs (ended h)).lt 0 0).phase = .ended ∧ ((runs (ended h)).lt 0 0).inc = [] ∧ (runs (ended h)).injArmed 3 0 = false ∧
      (runs (ended h)).injArmed 4 0 = false ∧ ((runs (ended h)).tile 0).failing = false ∧ (runs (ended h)).arrBad 0 = false ∧
      (let s := runs (ended h)
       let u := (s.setTile 0 { s.tile 0 with bounds := (s.tile 0).bounds + 1 }).setLt 0 0
         { s.lt 0 0 with phase := if h then .halted else .boundary }
       u.isDue 0 = false ∧ u.waiting 0 = none)) ∧
    ((runs tileIn).lt 0 0).phase ≠ .ended ∧
    (let x := { tileIn with phase := .boundary, next := 0x20, ac := [(3, 7#32)], waits := [(3, 7)] }
     let s := (paged x (5 + 3 * 2 ^ 21)).paWrite 0 (3 * 2 ^ 21 + 0x30) (clean [0x43])
     ((s.exchanges 0).casement 0).phase = .running ∧ (s.exchanges 0).canStart 0 0 = true ∧
       ((s.exchanges 0).scan 0 0 ((s.exchanges 0).casement 0) 1024 0x20).2 = .found 0x30) ∧
    (let s := paged { tileIn with phase := .boundary, next := 0x20 } 0
     ((s.exchanges 0).casement 0).phase = .running ∧ (s.exchanges 0).canStart 0 0 = true ∧
       ((s.exchanges 0).scan 0 0 ((s.exchanges 0).casement 0) 1024 0x20).2 = .fault ⟨4, 0, 2 ^ 49 + 0x20⟩) := by decide +kernel

theorem witness_TileTests :
    (let s := regsAt State.reset [(0x0060200, 1), (rTil 639 0, 639 + 2 ^ 12)]
     s.testAllowed 639 = true) ∧
    (({ State.reset with tiles := [(639, { PTile.reset with testing := true })] } : State).tile 639).testing = true ∧
    State.reset.injArmed 0x0F 639 = false ∧ (State.reset.tile 0).testing = false ∧
    (({ State.reset with tiles := [(0, { PTile.reset with pwr := 1 })] } : State).tile 0).pwr % 2 = 1 := by decide +kernel

theorem witness_CommitAndLadder :
    ({ runs { tileIn with stepOpen := true } with cas := [(0, { casIn with steps := 1 })] } : State).commitReady 0 = true ∧
    (runs tileIn).blkDown 7 7 = false ∧ ({ State.reset with fenced := [blkNo 7 7] } : State).blkDown 7 7 = true ∧
    State.reset.commitReady 3 = false ∧
    (rfld (0#32) 5 3 ≤ rfld (0#32) 8 6 ∧ rfld (0#32) 8 6 ≤ 5 ∧ rfld (0#32) 13 13 = 0) ∧
    (let c := 0x376D#32
     rfld c 5 3 = 5 ∧ rfld c 8 6 = 5 ∧ rfld c 2 0 = 5 ∧ rfld c 13 13 = 1 ∧ rfld c 12 10 = 5) := by decide +kernel

/-! ### Witnesses: memory -/

theorem witness_PaneAccess :
    State.reset.blkDown 0 639 = false ∧ (State.reset.pane.upsets (639 * 65536 + 65535) []).errsOf (639 * 65536 + 65535) = [] ∧
    (State.reset.pane.upsets (639 * 65536 + 65535) [71]).errsOf (639 * 65536 + 65535) = [(71, 1)] ∧
    2 ≤ ((State.reset.pane.upsets 0 [0, 71]).errsOf 0).length ∧
    524287 + [255].length ≤ 524288 ∧ 524280 % 8 + (List.replicate 8 0).length ≤ 8 ∧ State.reset.injArmed 5 639 = false ∧
    State.reset.pane.errUnits (639 * 65536) 65536 = [] ∧ (regsAt State.reset [(rTil 639 0x38, 1)]).rf (rTil 639 0x38) 0 0 = 1 := by
  decide +kernel

/-- The slice has a request of each class; the first byte and the last of its partition; the last word of the scratchpad in the
scrubber's round, and the first word of the one line that the slice holds. -/
theorem witness_SliceServes :
    (let s := regsAt (runs tileIn) [(0x0180000, 16)]
     let r := fun c => TReq.mk c true (16 * 1572864 - 1) [255] false
     let l := TReq.mk .move false (2 ^ 36) [0] false
     (∀ c ∈ [TKind.fetch, .write, .scrub], ((s.slicePick 3 0 ([r c, l].filter (s.sliceHas 3 0))).map (·.1)) = some (r c)) ∧
       s.casOfDie (3 / 4) = some 0 ∧ 3145727 < s.scrWords 3) ∧
    (let s := runs tileIn
     (s.slicePick 0 0 ([TReq.mk .move false 127 [0] false].filter (s.sliceHas 0 0))).isSome = true ∧ s.casOfDie 0 = some 0) ∧
    (let s := { regsAt (runs tileIn) [(0x0180000, 1)] with clines := [(7, 1)], tscrub := [(0, 196608)] }
     s.scrWords 0 ≤ Assoc.get s.tscrub 0 0 ∧ (s.linesOf 0)[(Assoc.get s.tscrub 0 0 - s.scrWords 0) / 16]? = some 7) := by decide +kernel

/-- One state of the window for each clause. -/
theorem witness_WindowRule :
    (64 - (Louvre.mk 63 0 0 16 1).n ≤ 1 - 0) ∧ (let l := Louvre.mk 0 15 0 16 8
      l.n < 64 ∧ ¬ (64 - l.n ≤ l.floor - l.b) ∧ l.c < l.cap) ∧
    (let l := Louvre.mk 62 16 8 16 8
     ¬ (64 - l.n ≤ l.floor - l.b) ∧ ¬ l.c < l.cap ∧ l.n < 63) ∧ (Louvre.mk 63 0 8 0 8).n = 63 := by decide

theorem witness_HbmAccess :
    State.reset.blkDown 2 23 = false ∧ (regsAt State.reset [(rMem 23 0x20, 1)]).rf (rMem 23 0x20) 0 0 = 1 ∧
    State.reset.hbm.errUnits (23 * 2 ^ 31) (2 ^ 31) = [] ∧ State.reset.injArmed 7 23 = false ∧ 2 ^ 36 - 1 + [0].length ≤ 2 ^ 36 ∧
    (State.reset.hbmGrant 23 .write [.scrub]).isSome = true ∧ State.reset.hbmGrant 23 .move [.fetch] = none := by
  decide +kernel

/-- A page that is paged out to host frame 0; the trace that names it. -/
def pagedOutAt (thr : Nat) : State :=
  let s := regsAt (paged tileIn 9) [(0x01C000C, thr), (0x01C0010, 1 + 2 ^ 4)]
  s.setCas 0 { s.casement 0 with freed := [3], hft := [(0, 0x100000001)], trace := [0], orefs := [0] }

/-- An action that meets nothing: no other casement waits, no entry is poisoned. -/
def calm : PageEnv := ⟨[], [], []⟩

theorem witness_PagingSteps :
    (let s := pagedOutAt 2
     (s.casement 0).exist = true ∧ s.blkDown 7 10 = false ∧ (s.hubGrant 0 []).1 = true ∧ s.freeFrames 0 < s.rf (rPga 0 0xC) 15 0 ∧
       ((s.hubGrant 0 []).2.dropEntries 0 [] []).victimPoison 0 1 [] = none) ∧
    (let s := pagedOutAt 0
     let v := (s.hubGrant 0 []).2.dropEntries 0 [] []
     v.freeFrames 0 = 1 ∧ s.pagedOut 0 0 = true ∧ v.walkPoison 0 0 = none ∧ (v.pageIn 0 0 true).isSome = true) ∧
    (let s := pagedOutAt (2 ^ 16)
     let v := (s.hubGrant 0 []).2.dropEntries 0 [] []
     s.rf (rPga 0 0x10) 0 0 = 1 ∧ s.rf (rPga 0 0xC) 31 16 = s.freeFrames 0 ∧ s.prefetchPage 0 = some 0 ∧ v.walkPoison 0 0 = none ∧
       (v.pageIn 0 0 false).isSome = true) ∧
    (let s := { pagedOutAt 2 with hub := { HubWin.reset with n := 5, last := 0 } }
     (s.hubGrant 0 [1]).1 = false ∧ s.freeFrames 0 < s.rf (rPga 0 0xC) 15 0) ∧
    ((runs tileIn).mask 0).testBit (dieOfTile 0) = true ∧ 2 ^ 19 - 32 + 32 ≤ 2 ^ 19 ∧ ((runs tileIn).mask 0).testBit (dieOfTile 639) = false ∧
    0 + 32 ≤ (regsAt (runs tileIn) [(0x0180000, 1)]).partSize 0 ∧ paSize ((runs tileIn).mask 0) - 32 + 32 ≤ paSize ((runs tileIn).mask 0) := by
  decide +kernel

/-! ### Witnesses: the fabric -/

/-- A frame of the casement from package 2. -/
def frm (b : FBody) (dest : Nat := 1) : Frame := ⟨b, frameCls b, false, false, false, dest, 2, 0x0C21, 0, 0, 0, [0, 0, 0, 0]⟩

/-- The LIVE member of a group of two, port 0 up with x, the routing entry of package 2 as given. -/
def link (x : Port) (route : Nat := 0x101) : State :=
  (regsAt (onFab 2 (runs tileIn)) [(rPort 0 0, 2 + 15 * 2 ^ 3), (rPort 0 4, 1), (0x0400010, route)]).setPort 0 x

/-- A frame's bytes read back as the frame; one flipped bit, and they do not. -/
theorem witness_readFrame :
    (∀ b ∈ ([.idle, .grant 0 0, .hello 2 0, .preq 7 0 1 3 0 16 0 9 0, .piece 8 0 true [1, 2]] : List FBody),
      readFrame (wireBytes (frm b)) = (frm b, true)) ∧
    (readFrame (flipBytes (wireBytes (frm .idle)))).2 = false := by decide +kernel

theorem witness_LinkLayer :
    (let s := link Port.reset
     s.portUp 0 = true ∧ s.txIdle = false ∧ (frm .idle).lseq = (s.port 0).rxNext ∧ ({ frm .idle with lseq := 4095 } : Frame).lseq ≠ (s.port 0).rxNext ∧
       (s.port 0).txq = []) ∧
    Port.reset.room.spend (frm .idle) ≠ none ∧ ({ Credits.full with floor := [0, 0, 0, 0], shared := 0 } : Credits).spend (frm .idle) = none ∧
    malformed (frm (.other 31 [])) = true ∧ (link Port.reset).admits 0 { frm .idle with ctag := 5 } = false ∧ isPreq (frm .idle).body = false ∧
    (let s := link Port.reset
     malformed (frm .idle) = false ∧ s.admits 0 (frm .idle) = true ∧
     malformed (frm (.grant 0 0)) = false ∧ s.admits 0 (frm (.grant 0 0)) = true ∧ (frm (.grant 0 0)).dest = s.pkgId ∧
     s.admits 0 (frm (.grant 0 0) 2) = true ∧ isHello (frm (.grant 0 0) 2).body = false ∧ (frm (.grant 0 0) 2).dest ≠ s.pkgId) ∧
    (let a := { frm .idle with lseq := 4 }
     let x := { Port.reset with unacked := [frm .idle, a], replays := 8 }
     x.unacked = [frm .idle] ++ a :: [] ∧ a.lseq = ({ frm .idle with lack := 4 } : Frame).lack ∧
       (∀ y ∈ [frm .idle], y.lseq ≠ 4) ∧ (∀ y ∈ x.unacked, y.lseq ≠ ({ frm .idle with lack := 5 } : Frame).lack)) ∧
    (let s := link { Port.reset with replay := true, replays := 7, unacked := [frm .idle] }
     s.portUp 0 = true ∧ (s.port 0).replay = true ∧ (s.port 0).replays < 8) ∧
    (let s := link { Port.reset with replay := true, replays := 8, unacked := [frm .idle] }
     s.portUp 0 = true ∧ (s.port 0).replay = true ∧ 8 ≤ (s.port 0).replays) ∧
    (Port.reset.cr.spend ((link Port.reset).ownFrame 0 0 0 .idle)).isSome = true ∧ (link Port.reset).injArmed 9 0 = false ∧
    Port.reset.unacked.length < 2048 := by decide +kernel

/-- Forwarded, delivered, dropped; each rule of R342 for package 2, by port 1, by the alternative port 8, by none. -/
theorem witness_FrameForwarded :
    (let q := fun (fr : Frame) (r : Nat) => link { Port.reset with rxq := [fr] } r
     let tgt := fun (fr : Frame) (r : Nat) => ((q fr r).setPort 0 (Port.giveBack Port.reset fr)).route fr.dest fr.ctag fr.downed
     tgt (frm .idle 2) 0x101 = .fwd 0 false ∧ tgt (frm .idle 1) 0x101 = .deliver ∧ tgt { frm .idle 2 with downed := true } 0x101 = .drop) ∧
    (let s := link Port.reset
     (1 = s.pkgId ∧ (s.casement 0).exist = true ∧ s.rf (rFab 0 0) 15 0 = 0x0C21) ∧ (∀ d, d < 4 → s.rf (rFab d 0) 15 0 ≠ 5) ∧ 2 ≠ s.pkgId) ∧
    (link Port.reset 1).rf (routeKey 2) 8 8 = 0 ∧ (link Port.reset 0x10F).rf (routeKey 2) 3 0 = 15 ∧
    (let s := link Port.reset 0x00050301
     s.rf (routeKey 2) 8 8 = 1 ∧ s.rf (routeKey 2) 9 9 = 1 ∧ s.rf (routeKey 2) 31 16 ≠ 0x0C21) ∧
    (let s := link Port.reset 0x0C210301
     s.rf (routeKey 2) 8 8 = 1 ∧ s.rf (routeKey 2) 31 16 = 0x0C21 ∧ s.rf (routeKey 2) 3 0 = 1 ∧ s.portUp 0 = true) ∧
    (let s := regsAt (link Port.reset 0x188) [(rPort 7 0, 2)]
     s.rf (routeKey 2) 3 0 = 8 ∧ s.portUp 7 = true) ∧
    (let s := regsAt (link Port.reset 0x182) [(rPort 7 0, 2)]
     s.rf (routeKey 2) 3 0 = 2 ∧ s.portUp 1 = false ∧ s.rf (routeKey 2) 7 4 = 8 ∧ s.portUp 7 = true) := by decide +kernel

theorem witness_PortsAndMesh :
    (∀ p < 8, let s := regsAt State.reset [(0x0200000, 2 ^ 16), (rPort p 4, 1)]
     s.rf 0x0200000 16 16 = 1 ∧ s.rf (rPort p 4) 0 0 = 1 ∧ s.portState p < 2 ∧ 0 < laneMin p ∧ laneMin p ≤ laneMax p ∧
       s.mayTrain p = true) ∧
    State.reset.rf 0x0200000 16 16 = 0 ∧ ({ State.reset with fenced := [blkNo 4 3] } : State).blkDown 4 3 = true ∧
    (regsAt State.reset [(0x0020808, 0x100)]).txIdle = true ∧
    ((link Port.reset).portUp 0 = true ∧ laneMax 0 - 1 < laneMax 0) ∧
    (let s := fun port => (regsAt State.reset [(0x0200000, 0x10001), (rPort 4 0, 1)]).setPort 4 { Port.reset with inbox := [frm (.hello 2 port)] }
     ((s 0).port 4).take (fun y => isHello y.body) = some (frm (.hello 2 0), Port.giveBack Port.reset (frm (.hello 2 0))) ∧
       (s 0).portState 4 = 1 ∧ peerOk (s 0).pkgId 4 2 0 = true ∧ peerOk (s 5).pkgId 4 2 5 = false) ∧
    (meshFrom 639 0 ≠ none ∨ meshFrom 639 2 ≠ none) ∧ meshFrom 21 1 ≠ none ∧
    (let s := { State.reset with mesh := [(85, 15)] }
     s.injArmed 8 (dieOfTile 0) = false ∧ Assoc.get s.mesh (21 * 4 + 1) 0 = 15) ∧
    16 < Assoc.get ({ State.reset with mesh := [(85, 16)] } : State).mesh (21 * 4 + 1) 0 + 1 ∧
    Assoc.get ({ State.reset with mesh := [(85, 14)] } : State).mesh (21 * 4 + 1) 0 + 1 < 16 := by decide +kernel

/-- Package 1's port 0 holds a frame of the casement. -/
def got (b : FBody) : State := link { Port.reset with inbox := [frm b] }

/-- Every kind of frame that a LIVE member takes. -/
theorem witness_gotFrame : ∀ x ∈ ([(isPreq, .preq 7 0 1 3 0 16 0 9 0), (isGrant, .grant 7 8), (isPiece, .piece 8 0 true [1, 2]),
    (isDeliver, .deliver 9 0 true [1]), (isDigest, .digest 8 5), (isAck, .ack 8 true), (isErr, .err 7 1), (isToken, .token 6),
    (isHold, .hold 7)] : List ((FBody → Bool) × FBody)),
    (got x.2).gotFrame 0 x.1 0 (frm x.2) (Port.giveBack Port.reset (frm x.2)) := by unfold State.gotFrame; decide +kernel

/-- A piece under reduction with a request of member 1 that waits for its grant, or whose chunks have come. -/
def redAt (h : Option Nat) (chunks : List Nat) (count : Nat) : FRed :=
  ⟨0, 3, 0, 0, 0, 2, 16, count, [⟨1, 2, 7, 9, h, false, false, 0, chunks, []⟩], [], false⟩

theorem witness_RequestsGranted :
    (let s := (got (.preq 7 0 1 3 0 16 0 9 0)).setPort 0 Port.reset
     let pk := s.groupPkgs 0 0
     s.groupBad 0 0 = false ∧ pk = [1, 2] ∧ nth pk 1 s.pkgId = 2 ∧ (segPieces (ceilDiv 16 8) pk.length (pk.idxOf s.pkgId)).length = 1 ∧
       s.fits 0 0 3 0 0 1 16 = true ∧
       (s.setFab 0 { Fab.reset with reds := [redAt none [] 1] }).fits 0 0 3 0 0 1 16 = false) ∧
    (let s := (link Port.reset).setFab 0 { Fab.reset with reds := [redAt none [] 1] }
     (((List.range 4).flatMap (fun d => ((s.fab d).reds.filter (fun r => r.port == 0)).map (fun r => (d, r)))).find?
       (fun x => (s.grantable x.2).isSome)) = some (0, redAt none [] 1) ∧ (s.grantable (redAt none [] 1)).isSome = true) := by
  decide +kernel

/-- A request that a grant names; a digest that is right, wrong in its length, wrong in its value; one of a result. -/
theorem witness_PiecesMove :
    (let r : FReq := ⟨7, 0, 0, 3, 1, 0, 2, none, [5], []⟩
     (((got (.grant 7 8)).setFab 0 { Fab.reset with reqs := [r] }).fab 0).reqs.find?
       (fun r => r.reqid == 7 && r.tgt == 2 && r.handle.isNone) = some r) ∧
    (let hit := fun (s : State) => (s.fab 0).reds.findSome? (fun r =>
       (r.mems.find? (fun m => m.handle == some 8 && m.pkg == 2 && !m.folded)).map (fun m => (r, m)))
     let s := fun cs => (link Port.reset).setFab 0 { Fab.reset with reds := [redAt (some 8) cs 1] }
     let m := fun cs => (⟨1, 2, 7, 9, some 8, false, false, 0, cs, []⟩ : FMem)
     hit (s [5]) = some (redAt (some 8) [5] 1, m [5]) ∧ [5].length = (redAt (some 8) [5] 1).count ∧
     ((s [5]).fold 0 (redAt (some 8) [5] 1) 1 1 [5] []).2 = true ∧ ((s [5]).fold 0 (redAt (some 8) [5] 1) 1 2 [5] []).2 = false ∧
     hit (s []) = some (redAt (some 8) [] 1, m []) ∧ (0 : Nat) ≠ (redAt (some 8) [] 1).count ∧ pieceDigest [5] ≠ 5 ∧
     hit (link Port.reset) = none) ∧
    (let y : FRet := ⟨8, 0, 3, 1, 0, 1, 1, 2, [5], [], 0⟩
     (((link Port.reset).setFab 0 { Fab.reset with rets := [y] }).fab 0).rets.find? (fun y => y.ret == 8 && y.from_ == 2) = some y) := by
  decide +kernel

theorem witness_AnswersTaken :
    (let r : FReq := ⟨7, 0, 0, 3, 1, 0, 2, some 8, [5], []⟩
     (((got (.ack 8 true)).setFab 0 { Fab.reset with reqs := [r] }).fab 0).reqs.find? (fun r => r.handle == some 8 && r.tgt == 2) = some r) ∧
    (let r : FReq := ⟨65535, 0, 0, 3, 1, 0, 2, none, [5], []⟩
     let s := (got (.err 65535 1)).setFab 0 { Fab.reset with reqs := [r] }
     (s.fab 0).reqs.any (fun r => r.reqid == 65535 && r.handle.isNone) = true ∧ s.fabState 0 = 1) := by decide +kernel

/-- A token that waits for a request, one whose wait is over, and the master's own. -/
theorem witness_TokenAndHold :
    (let r : FReq := ⟨7, 0, 0, 3, 1, 0, 2, none, [5], []⟩
     let f : Fab := { Fab.reset with reqs := [r], tokHeld := some 6 }
     f.outstanding ≠ [] ∧ ({ f with tokWait := f.outstanding } : Fab).tokWait.any f.outstanding.contains = true ∧
     f.tokWait.any f.outstanding.contains = false ∧ f.tokOut = none ∧ ((link Port.reset).setFab 0 f).fabState 0 = 1 ∧
     ({ f with tokOut := some (0, 9) } : Fab).tokOut = some (0, 9)) ∧
    (link Port.reset).fabState 0 = 1 ∧ State.reset.fabState 3 ≠ 1 := by decide +kernel

/-! ### Witnesses: registers -/

/-- The management path's window is open over the register. -/
def opened (off : Nat) (s : State) : State := { s with unlock := [(1, ⟨off, 1, true, off, 1, 1⟩)] }

theorem witness_RegisterWrite :
    (upState.reaches (.fn 15) = true ∧ upState.unserved (.fn 15) 0x0200000 = false ∧ upState.view (.fn 15) 0x0200000 = .none) ∧
    (rowAt 0x0000200 = none ∧ upState.reaches .mgt = true ∧ upState.unserved .mgt 0x0000200 = false) ∧
    (upState.view (.fn 1) 0 = .ro ∧ hrwMask 0 = 0) ∧
    (let s := { upState with cas := [(0, { casIn with owner := 3 })] }
     s.reaches (.fn 3) = true ∧ (∀ o ∈ [0x0070400, 0x0070F00], s.unserved (.fn 3) o = false ∧ rowAt o ≠ none) ∧
       s.view (.fn 3) 0x0070400 = .ro ∧ hrwMask 0x0070400 ≠ 0 ∧ s.view (.fn 3) 0x0070F00 = .one 0) ∧
    (let s := { upState with fenced := [blkNo clsBlock 11] }
     s.lets .mgt 0x0210004 = true ∧ s.blkDown clsBlock (blockOf 0x0210004) = true) ∧
    (upState.takesWr .mgt 0x0210004 = true ∧ hrwMask 0x0210004 ≠ 0 ∧ (upState.placed .mgt 0x0210004).unlocked .mgt 0x0210004 = false) ∧
    (plainReg 0x01C000C = true ∧ upState.writes (.fn 0) 0x01C000C = true) ∧
    (let s := opened 0x0210004 upState
     plainReg 0x0210004 = true ∧ s.writesHard .mgt 0x0210004 = true ∧ (s.placed .mgt 0x0210004).refuses 0x0210004 0x10001 = false) := by
  decide +kernel

theorem witness_RegisterRead :
    (0x0000000 % 4 = 0 ∧ upState.lets (.fn 0) 0x0000000 = true) ∧ (0x0AFFFFC % 4 = 0 ∧ rowAt 0x0AFFFFC = none) ∧
    upState.lets (.fn 15) 0x3FF0000 = true ∧ ¬ ((8 = 4 ∧ 4 % 4 = 0) ∨ (8 = 8 ∧ 4 % 8 = 0)) ∧ ¬ ((2 = 4 ∧ 0 % 4 = 0) ∨ (2 = 8 ∧ 0 % 8 = 0)) := by
  decide +kernel

theorem witness_FabricCommands : ∀ st < 4,
    let s := regsAt (runs tileIn) [(rFab 0 0x18, st)]
    s.writes .mgt (rFab 0 0x14) = true ∧ (s.casement 0).exist = true ∧ s.fabState 0 = st := by decide +kernel

theorem witness_FabricTables :
    (let s := opened 0x0210000 (onFab 2 (runs tileIn))
     isEntry 0x0210000 = true ∧ s.writesHard .mgt 0x0210000 = true ∧
       ((s.placed .mgt 0x0210000).entryOwners 0x0210000).any (fun d => (((s.placed .mgt 0x0210000).setReg 0x0210000 0).fabCheck d).isSome) = true) ∧
    (let s := opened 0x047FFF8 (onFab 2 (runs tileIn))
     isEntry 0x047FFF8 = true ∧ s.writesHard .mgt 0x047FFF8 = true ∧
       ((s.placed .mgt 0x047FFF8).entryOwners 0x047FFF8).any (fun d => (((s.placed .mgt 0x047FFF8).setReg 0x047FFF8 0).fabCheck d).isSome) = false) ∧
    ((opened 0x0200000 State.reset).writesHard .mgt 0x0200000 = true ∧ (∀ p < 8, State.reset.portState p = 0)) ∧
    ((opened 0x0200000 (regsAt State.reset [(rPort 7 0, 1)])).writesHard .mgt 0x0200000 = true ∧ (regsAt State.reset [(rPort 7 0, 1)]).portState 7 ≠ 0) ∧
    ((opened 0x0200008 State.reset).writesHard .mgt 0x0200008 = true ∧
      (let v := 0x40403010#32
       32 * (rfld v 7 0 + rfld v 15 8 + rfld v 23 16 + rfld v 31 24) = 6144 ∧ rfld v 7 0 = 16) ∧
      (let v := 0x40403110#32
       6144 < 32 * (rfld v 7 0 + rfld v 15 8 + rfld v 23 16 + rfld v 31 24)) ∧ rfld 0xF#32 7 0 < 16) ∧
    (let s := regsAt State.reset [(rPort 7 4, 1), (rPort 7 0, 2)]
     s.writes .mgt (rPort 7 4) = true ∧ s.rf (rPort 7 4) 0 0 = 1 ∧ s.mayTrain 7 = false ∧
       (regsAt s [(0x0200000, 2 ^ 16)]).mayTrain 7 = true ∧ (regsAt s [(0x0200000, 2 ^ 16)]).portUp 7 = true ∧
       (regsAt s [(0x0200000, 2 ^ 16), (rPort 7 0, 0)]).portUp 7 = false) := by decide +kernel

theorem witness_GuardedWrites :
    (∀ d < 4, (opened (0x0070400 + 8 * d + 4) State.reset).writesHard .mgt (0x0070400 + 8 * d + 4) = true ∧ State.reset.casQuiet d = true) ∧
    (let s := opened 0x0070400 (runs (oneInc .plain))
     s.writesHard .mgt 0x0070400 = true ∧ s.casQuiet 0 = false) ∧
    (min 16 (rfld 16#32 4 0) = min 16 (rfld 31#32 4 0) ∧ min 16 (rfld 16#32 4 0) ≠ min 16 (State.reset.rf 0x0180000 4 0)) ∧
    (∀ d < 4, (opened (0x0180000 + 4 * d) State.reset).writesHard .mgt (0x0180000 + 4 * d) = true ∧ (State.reset.casement d).phase = .idle) ∧
    ((opened 0x0180000 (runs tileIn)).writesHard .mgt 0x0180000 = true ∧ ((runs tileIn).casement 0).phase ≠ .idle) ∧
    ((opened 0x0060100 State.reset).writesHard .mgt 0x0060100 = true ∧ State.reset.rf 0x006010C 0 0 = 0 ∧
      (opened 0x0060100 (regsAt State.reset [(0x006010C, 1)])).writesHard .mgt 0x0060100 = true ∧
      (regsAt State.reset [(0x006010C, 1)]).rf 0x006010C 0 0 = 1) := by decide +kernel

theorem witness_UnlockWindow :
    (rqBank .mgt = some 1 ∧ rqBank .pkc = some 2 ∧ rqBank (.fn 0) = some 0 ∧ ∀ o ∈ [0x0060010, 0x0060014, 0x0060018], State.reset.writes .mgt o = true) ∧
    ((opened 0x0200000 State.reset).bank 1).left ≤ 1 ∧ 1 < (({ State.reset with unlock := [(1, ⟨0, 2, true, 0, 2, 2⟩)] } : State).bank 1).left ∧
    (((opened 0x0200000 State.reset).bank 1).open_ = true ∧
      ¬ (((opened 0x0200000 State.reset).bank 1).base ≤ 0x0200004 ∧
        0x0200004 < ((opened 0x0200000 State.reset).bank 1).base + 4 * ((opened 0x0200000 State.reset).bank 1).span)) := by decide +kernel

theorem witness_CheckUnits : ∀ n < 8, ∀ o ∈ [0x00, 0x0C, 0x10, 0x14, 0x28], State.reset.writes .mgt (rCvu n o) = true := by decide +kernel

/-- A ring of function 15, armed, with a head and a tail; one that is off. -/
theorem witness_RingRegisters : ∀ evt : Bool,
    (let w := ringWin 15 evt
     let s := regsAt State.reset [(w + 0x18, 0x10), (w + 0x20, 7)]
     let u := (s.placed .mgt (w + 0x1C)).wrGen (w + 0x1C) 0x10006 false
     let v := (s.placed .mgt (w + 0x1C)).wrGen (w + 0x1C) 0x10007 false
     s.writes .mgt (w + 0x1C) = true ∧ u.ringArmed 15 evt = true ∧ u.ringHead 15 evt ≠ u.ringTail 15 evt ∧
       v.ringHead 15 evt = v.ringTail 15 evt) ∧
    (State.reset.writes .mgt (ringWin 15 evt + 0x18) = true ∧ State.reset.ringEn 15 evt = false ∧ (0x1A#32).getLsbD 4 = true) ∧
    ((regsAt State.reset [(ringWin 15 evt + 0x18, 0x10)]).ringEn 15 evt = true ∧
      min 10 (rfld 0x1A#32 3 0) ≠ min 10 ((regsAt State.reset [(ringWin 15 evt + 0x18, 0x10)]).rf (ringWin 15 evt + 0x18) 3 0)) := by
  decide +kernel

theorem witness_ResetRegisters :
    State.reset.writes .pkc 0x0010024 = true ∧ State.reset.writes .mgt 0x0010024 = true ∧ isRstBit 0x0010100 = true ∧ isRstBit 0x0010160 = true ∧
    upState.writes .mgt 0x0010100 = true ∧
    (let u := (upState.placed .mgt 0x0010100).wrGen 0x0010100 1 false
     u.reg 0x0010100 ≠ upState.reg 0x0010100 ∧ upState.held = false ∧ upState.isSafe = false) ∧
    (let s := regsAt upState [(0x0020808, 0x109)]
     let u := fun o => (s.placed .mgt o).wrGen o 1 false
     s.isSafe = true ∧ s.held = false ∧ ∀ o ∈ [0x0010100, 0x0010160], s.writes .mgt o = true ∧ (u o).reg o ≠ s.reg o) ∧
    (let u := (State.reset.placed .mgt 0x0010100).wrGen 0x0010100 1 false
     State.reset.writes .mgt 0x0010100 = true ∧ u.reg 0x0010100 ≠ State.reset.reg 0x0010100 ∧ State.reset.held = true) ∧
    (let u := (upState.placed .mgt 0x0010100).wrGen 0x0010100 0 false
     u.reg 0x0010100 = upState.reg 0x0010100) := by decide +kernel

theorem witness_FirmwareCommands :
    State.reset.writes .mgt 0x0030000 = true ∧ State.reset.fwuBusy = false ∧ State.reset.jrn.db = false ∧ State.reset.rsvLow = false ∧
    State.reset.jrn.st = 0 ∧ (regsAt State.reset [(0x1000014, 4)]).rsvLow = true ∧ State.reset.anyCas = false ∧ (runs tileIn).anyCas = true ∧
    (runs tileIn).writes (.fn 0) 0x0030000 = false ∧ upState.writes (.fn 0) 0x0030000 = true ∧
    ({ State.reset with run := { RunImg.reset with svn := 128 } } : State).writes .mgt 0x0030000 = true ∧
    State.reset.fuses.svnctr < 128 ∧ RunImg.reset.gold = false ∧
    (let j : Jrn := { Jrn.reset with st := 3, dig := List.replicate 16 7 }
     (State.reset.journal j).jrnForce = some (jrnA, { j with seq := 1 })) := by decide +kernel

theorem witness_StageImage :
    (let s := regsAt upState [(0x0030010, 16777215)]
     s.writes .mgt 0x0030000 = true ∧ s.fwuBusy = false ∧ s.jrn.db = false ∧ s.rsvLow = false ∧ s.hostAnswer s.fwuAddr 16777215 = 0) ∧
    (regsAt upState [(0x0030010, 8192)]).rf 0x0030010 23 0 ≤ bankSize ∧
    (let s := { regsAt upState [(0x0030010, 8192)] with hbad := [(8191, 1, 1)] }
     s.writes .mgt 0x0030000 = true ∧ s.hostAnswer s.fwuAddr 8192 ≠ 0) := by decide +kernel

theorem witness_SealAndLife :
    (upState.writes .mgt 0x0020800 = true ∧ upState.held = false ∧ upState.isSafe = false ∧ upState.rf 0x0020808 3 0 = 9 ∧ upState.sealState = 0 ∧ upState.anyCas = false ∧
      upState.rf 0x0020000 2 0 ≠ 4 ∧ upState.rsvLow = false) ∧
    (let s := { upState with cas := [(0, casIn)] }
     s.writes .mgt 0x0020800 = true ∧ s.held = false ∧ s.anyCas = true) ∧
    (let s := regsAt upState [(0x0020000, 4)]
     s.writes .mgt 0x0020800 = true ∧ s.held = false ∧ s.rf 0x0020000 2 0 = 4) ∧
    (let s := regsAt upState [(0x1000014, 0x24)]
     s.writes .mgt 0x0020800 = true ∧ s.held = false ∧ s.rsvLow = true) ∧
    (let s := { upState with fuses := { Fuses.reset with pend := 1 } }
     s.writes .mgt 0x0020004 = true ∧ s.anyCas = false ∧ s.lcAllowed .mgt 2 s.hostToken = true) ∧ upState.writes .mgt 0x0020004 = true ∧
    upState.lcAllowed .mgt 7 upState.hostToken = false ∧ upState.lcAllowed .mgt 4 upState.hostToken = true := by decide +kernel

theorem witness_HardenedVisit :
    State.reset.held = true ∧ (regsAt upState [(0x0020808, 0x109)]).isSafe = true ∧ upState.held = false ∧ upState.isSafe = false ∧
    upState.injArmed 0x0C 0 = false ∧ upState.injArmed 0x0D (upState.rf 0x0060104 15 0) = false ∧
    (let off := hardNext 0x0200008
     off = 0x0202000 ∧ upState.copies off = HCopy.three ∧ upState.wcopy = [] ∧ cmpKind off = 1 ∧ hrwMask off ≠ 0 ∧
       bit (hrwMask off) 15 = true ∧ bit (hrwMask off) 16 = false) ∧
    (let off := hardNext 0x047FFF4
     off = 0x047FFF8 ∧ 7 ∈ upState.cmpUnits off ∧ cmpKind off ≠ 3 ∧ 0x101 &&& cmpMask off ≠ 0) ∧
    (visitRows.all (fun r => decide (hardNext 0x3FFFFFF ≤ r.base)) = true) ∧
    isEntry 0x0210000 = true ∧ isEntry 0x0217FFC = true ∧ isEntry 0x0218000 = true ∧ isEntry 0x0200000 = false ∧ isVital 0x0200000 = true ∧
    isEntry 0x0202000 = false ∧ isVital 0x0202000 = false := by
  decide +kernel

/-! ### Witnesses: the host interface -/

/-- A block of 64 bytes (R399) without its CRC, which acceptance has checked. -/
def blk (type ctag body : Nat) : QBlk := ⟨leBytes 16 (type + 2 ^ 8 + ctag * 2 ^ 16) ++ leBytes 44 body ++ [0, 0, 0, 0], 0⟩

/-- A block at the front of the PF's queue (or another function's), its completion ring enabled. -/
def front (b : QBlk) (s : State) (f : Nat := 0) : State :=
  (regsAt s [(ringWin f false + 0x18, 0x10)]).setFn f { FnSt.reset with q := [b] }

/-- A NOP whose window bytes are good, and one whose CRC is not. -/
def inWindow (bad : Bool) : State :=
  let h := leBytes 16 (2 + 2 ^ 8) ++ List.replicate 44 0
  let c := crcFeeds (crcPoly 0) (crcEmpty (crcPoly 0)) h
  (upState.winWrite 15 0 (h ++ leBytes 4 (if bad then c + 1 else c))).setFn 15 { FnSt.reset with exam := true }

theorem witness_IntakeAccepts_window :
    (upState.reaches (.fn 15) = true ∧ (upState.fn 15).d3 = false ∧ upState.isSafe = false ∧ upState.blkDown 5 0 = false) ∧
    (let w := ((inWindow true).grant arbAccept).winWrite 15 60 (((inWindow true).winRead 15 60 4))
     w.headOk 15 = true ∧ w.itkRead 15 + w.headLen 15 = 64 ∧ crcOk (w.headBytes 15) = false) ∧
    (let s := inWindow false
     (s.fn 15).exam = true ∧ s.isReady = true ∧ s.headOk 15 = true ∧ crcOk (s.headBytes 15) = true ∧ (s.fn 15).q.length < 64) ∧
    (let s := (regsAt upState [(ringWin 15 false + 0x18, 0x10)]).setFn 15 { FnSt.reset with recs := [⟨1, 2, 0, 0, 0, 0⟩] }
     (s.fn 15).recs = [⟨1, 2, 0, 0, 0, 0⟩] ∧ s.ringReady 15 false = true) := by decide +kernel

theorem witness_IntakeAccepts_front :
    (∀ b ∈ [blk 0xFF 0 0, blk 1 0 0, blk 2 0 0, blk 1 1 0, blk 2 0 1], (front b upState 15).frontCmd 15 = some b.cmd) ∧
    cmdTypes.contains (blk 0xFF 0 0).cmd.type = false ∧ (blk 1 0 0).cmd.plain 0 = true ∧ (blk 1 1 0).cmd.ctag ≠ 0 ∧ (blk 2 0 1).cmd.plain 0 = false ∧
    (let b := blk 0x10 0 (1 + 0x0C21 * 2 ^ 16 + 2 ^ 64)
     let s := front b upState 15
     s.frontCmd 15 = some b.cmd ∧ b.cmd.plain mapMask = true ∧ b.cmd.ctag = 0 ∧ s.mapOk b.cmd = true) ∧
    (let b := blk 0x11 0x0C21 0
     let s := front b (runs tileIn) 15
     s.frontCmd 15 = some b.cmd ∧ b.cmd.plain 0 = true ∧ s.named 15 b.cmd.ctag true = none) ∧
    (let b := blk 0x12 5 0
     let s := front b (runs tileIn)
     s.frontCmd 0 = some b.cmd ∧ s.named 0 b.cmd.ctag true = none) ∧
    (let b := blk 0x21 0 0
     let s := front b (runs tileIn) 15
     s.frontCmd 15 = some b.cmd ∧ b.cmd.plain 0 = true ∧ s.named 15 b.cmd.ctag false = none) := by decide +kernel

/-- A map of all four dies with the most layers, and the same map while no die is available. -/
def mapBlk : QBlk := blk 0x10 0 (15 + 0x0C21 * 2 ^ 16 + 16 * 2 ^ 32 + 2 ^ 48 + 2 ^ 64 + 4096 * 2 ^ 96)

/-- The casement of `runs` in another phase. -/
def inPhase (p : CPhase) (s : State) : State := s.setCas 0 { s.casement 0 with phase := p }

theorem witness_CasementLife :
    ((front mapBlk upState).freeRun 0 mapBlk.cmd 0x10 mapMask ∧ (front mapBlk upState).mapOk mapBlk.cmd = true ∧ (front mapBlk upState).isReady = true ∧
      (front mapBlk upState).mapRes mapBlk.cmd = true) ∧
    (let s := front mapBlk (regsAt upState [(0x0000110, 0)])
     s.freeRun 0 mapBlk.cmd 0x10 mapMask ∧ s.mapOk mapBlk.cmd = true ∧ s.isReady = true ∧ s.mapRes mapBlk.cmd = false) ∧
    (∀ p ∈ [CPhase.idle, .loaded, .running, .stopped],
      (front (blk 0x11 0 0) (inPhase p (runs tileIn))).casRun 0 (blk 0x11 0 0).cmd 0x11 0 true [.idle, .loaded, .running, .stopped] 0) ∧
    (∀ p ∈ [CPhase.idle, .loaded, .stopped],
      (front (blk 0x12 0 0) (inPhase p (runs tileIn))).casRun 0 (blk 0x12 0 0).cmd 0x12 0 true [.idle, .loaded, .stopped] 0) ∧
    (front (blk 0x12 0 0) (runs tileIn)).casRun 0 (blk 0x12 0 0).cmd 0x12 0 true [.running] 0 ∧
    ((front (blk 0x40 0 15) upState).freeRun 0 (blk 0x40 0 15).cmd 0x40 (maskOf [(3, 0)]) ∧
      (diesOf ((blk 0x40 0 15).cmd.f 3 0)).all (fun x => ((front (blk 0x40 0 15) upState).casOfDie x).isNone) = true) ∧
    (let s := { front (blk 0x40 0 15) upState with cas := [(0, casIn)] }
     s.freeRun 0 (blk 0x40 0 15).cmd 0x40 (maskOf [(3, 0)]) ∧ s.isReady = true ∧
      (diesOf ((blk 0x40 0 15).cmd.f 3 0)).any (fun x => (s.casOfDie x).isSome) = true) := by
  unfold State.freeRun State.casRun; decide +kernel

/-- A program of one instruction, one tile or 4,096. -/
def loadBlk (nlt : Nat) : QBlk := blk 0x20 0 (16 * 2 ^ 64 + nlt * 2 ^ 160 + nlt * 2 ^ 176)

theorem witness_ProgramLife :
    (let s := front (loadBlk 4096) (inPhase .idle (runs tileIn))
     s.casRun 0 (loadBlk 4096).cmd 0x20 loadMask false [.idle] 0 ∧ loadOk (loadBlk 4096).cmd = true ∧ s.physP 0 < 4096 ∧
       (s.casement 0).ctxFrames * frameBytes < 4096 * slotBytes) ∧
    (let s := front (loadBlk 1) (inPhase .idle (runs tileIn))
     s.casRun 0 (loadBlk 1).cmd 0x20 loadMask false [.idle] 0 ∧ loadOk (loadBlk 1).cmd = true ∧ ¬ s.physP 0 < 1 ∧ s.codeOk 0 0 16 = false) ∧
    (let s := front (loadBlk 1) (inPhase .idle (paged tileIn (5 + 3 * 2 ^ 21)))
     s.casRun 0 (loadBlk 1).cmd 0x20 loadMask false [.idle] 0 ∧ loadOk (loadBlk 1).cmd = true ∧ s.codeOk 0 0 16 = true ∧
       s.hostAnswer 0 16 = 0 ∧
       ((s.hostAsk (s.casement 0).owner 0 16).codeCopy 0 (cuts frameBytes 0 16) (s.hostRead 0 16)).2 = true) ∧
    (let s := regsAt (front (blk 0x21 0 0) (inPhase .loaded (runs tileIn))) [(0x0000110, 1), (rTil 159 0, 159 + 2 ^ 12)]
     s.casRun 0 (blk 0x21 0 0).cmd 0x21 0 false [.loaded] 0 ∧ s.rf (rFab 0 4) 24 12 = 0 ∧ (∀ x ∈ diesOf (s.mask 0), s.dieAvail x = true) ∧
       min (s.casement 0).nlt (s.physP 0) ≤ ((s.bindable 0).take (min (s.casement 0).nlt (s.physP 0))).length) ∧
    (let s := regsAt (front (blk 0x21 0 0) (inPhase .loaded (runs tileIn))) [(rFab 0 4, 2 ^ 12)]
     s.casRun 0 (blk 0x21 0 0).cmd 0x21 0 false [.loaded] 0 ∧ s.rf (rFab 0 4) 24 12 ≠ 0 ∧ s.fabState 0 ≠ 1) ∧
    (let s := regsAt (front (blk 0x21 0 0) (inPhase .loaded (runs tileIn))) [(0x0000110, 0)]
     s.casRun 0 (blk 0x21 0 0).cmd 0x21 0 false [.loaded] 0 ∧ s.rf (rFab 0 4) 24 12 = 0 ∧ 0 ∈ diesOf (s.mask 0) ∧ s.dieAvail 0 = false) ∧
    (let s := runs { tileIn with phase := .halted }
     (s.casement 0).phase = .running ∧ s.allHalted 0 = true) := by
  unfold State.casRun; decide +kernel

/-- The host's page 0 of a casement is mapped to bus address 2^32; the host holds there the header of an image of one tile, or zeros. -/
def withImage (p : CPhase) (img : Bool) : State :=
  let s := inPhase p (paged { tileIn with phase := .boundary } 3)
  let u := s.setCas 0 { s.casement 0 with hft := [(0, 2 ^ 32 + 1)] }
  if img then u.hostWrite 0 (2 ^ 32) (leBytes 4 1 ++ leBytes 4 1 ++ leBytes 4 1 ++ leBytes 4 7) else u

def saveBlk (len run : Nat) : QBlk := blk 0x22 0 (len * 2 ^ 64 + run * 2 ^ 128)

theorem witness_ContextLife :
    (∀ run ∈ [0, 1], ∀ p ∈ [CPhase.running, .loaded],
      let s := front (saveBlk 530944 run) (withImage p false)
      s.casRun 0 (saveBlk 530944 run).cmd 0x22 (maskOf [(63, 0), (127, 64), (128, 128)]) false [.running, .loaded] 0 ∧ s.fabState 0 ≠ 2 ∧
        4096 + (s.casement 0).nlt * slotBytes = 530944 ∧ s.hostRange 0 0 530944 true = true ∧ s.hostErr 0 0 530944 1 = false ∧
        s.allStill 0 = true) ∧
    (front (saveBlk 530943 0) (withImage .loaded false)).casRun 0 (saveBlk 530943 0).cmd 0x22 (maskOf [(63, 0), (127, 64), (128, 128)]) false
      [.running, .loaded] 0 ∧
    (∀ img : Bool,
      let s := front (blk 0x23 0 0) (withImage .loaded img)
      let h := pvals (s.imgRead 0 0 4096)
      s.casRun 0 (blk 0x23 0 0).cmd 0x23 (maskOf [(63, 0)]) false [.loaded] 0 ∧ s.hostRange 0 0 (imgLen 1) false = true ∧
        s.hostRange 0 0 4096 false = true ∧ leAt h 0 4 = (if img then 1 else 0) ∧ leAt h 4 4 = (if img then 1 else 0)) ∧
    (let s := front (blk 0x23 0 0) (withImage .loaded true)
     let recs := (s.hostAskRange 0 0 (imgLen 1)).imgTiles 0 0 1
     ppsn (s.imgRead 0 0 4096) = false ∧ recs.any ppsn = false ∧ recs.all (fun b => (LTile.fromImage (pvals b) false false 0).liveFits) = true) := by
  unfold State.casRun; decide +kernel

/-- No error completion stands against any range of the image. -/
theorem witness_ContextLife_noError (img : Bool) :
    ∀ a n, ((front (blk 0x23 0 0) (withImage .loaded img)).hostAskRange 0 0 (imgLen 1)).hostErr 0 a n 1 = false := by
  intro a n
  have h : ((front (blk 0x23 0 0) (withImage .loaded img)).hostAskRange 0 0 (imgLen 1)).hbad = [] := by cases img <;> decide +kernel
  unfold State.hostErr
  rw [List.any_eq_false]
  intro r _
  split <;> simp [h]

/-- MAP of the page at va, n pages, with flags; UNMAP; HOSTFR. -/
def pageBlk (type va n flags : Nat) : QBlk := blk type 0 (va + n * 2 ^ 64 + flags * 2 ^ 96)

theorem witness_PageCommands :
    (let s := front (pageBlk 0x30 0 1 0) (paged tileIn 5)
     s.casRun 0 (pageBlk 0x30 0 1 0).cmd 0x30 (maskOf [(63, 0), (95, 64), (99, 96), (147, 128)]) false notStopped 0 ∧ vaOk 0 1 = true ∧
       s.walks 0 0 1 = [.leaf 0x2000 5]) ∧
    (let s := front (pageBlk 0x30 (2 ^ 21) 1 14) (paged tileIn 5)
     s.casRun 0 (pageBlk 0x30 (2 ^ 21) 1 14).cmd 0x30 (maskOf [(63, 0), (95, 64), (99, 96), (147, 128)]) false notStopped 0 ∧
       vaOk (2 ^ 21) 1 = true ∧ s.walks 0 (2 ^ 21) 1 = [.bad] ∧ (s.mapPages 0 (2 ^ 21) 14 0 (List.range 1)).isSome = true) ∧
    (let s := front (pageBlk 0x30 (2 ^ 48 - 2 ^ 21) 1 0) (paged tileIn 5)
     s.casRun 0 (pageBlk 0x30 (2 ^ 48 - 2 ^ 21) 1 0).cmd 0x30 (maskOf [(63, 0), (95, 64), (99, 96), (147, 128)]) false notStopped 0 ∧
       vaOk (2 ^ 48 - 2 ^ 21) 1 = true ∧ s.walks 0 (2 ^ 48 - 2 ^ 21) 1 = [.bad] ∧
       (s.mapPages 0 (2 ^ 48 - 2 ^ 21) 0 0 (List.range 1)).isNone = true) ∧
    (let s := front (pageBlk 0x31 0 1 0) (paged tileIn 5)
     s.casRun 0 (pageBlk 0x31 0 1 0).cmd 0x31 (maskOf [(63, 0), (95, 64)]) false notStopped 0 ∧ s.walks 0 0 1 = [.leaf 0x2000 5]) ∧
    (let b := blk 0x32 0 ((2 ^ 20 - 1) * 2 ^ 64 + 2 ^ 96)
     let s := front b (runs tileIn)
     s.casRun 0 b.cmd 0x32 (maskOf [(63, 0), (83, 64), (127, 96)]) false notStopped 0 ∧ b.cmd.f 83 64 + b.cmd.f 127 96 = 2 ^ 20 ∧
       s.hostBusy 0 (2 ^ 20 - 1) = false ∧ s.hostAnswer 0 8 = 0 ∧
       (s.setCas 0 { s.casement 0 with hrefs := [2 ^ 20 - 1] }).hostBusy 0 (2 ^ 20 - 1) = true ∧
       ({ s with hbad := [(7, 1, 1)] } : State).hostAnswer 0 8 ≠ 0) ∧
    (let s := paged tileIn 3
     ({ s with cdata := s.cdata.setPsn (paKey 1 0x2000 / 8) true } : State).walks 0 0 1 = [.poison 0x2000] ∧ s.supplied 0 0 = false ∧
       s.walk 0 0 = .leaf 0x2000 3 ∧ leHost 3 = true ∧ 1 < [leFrame 3, leFrame 3].count (leFrame 3)) := by
  unfold State.casRun; decide +kernel

/-- A page that no entry holds is neither mapped nor poisoned. -/
theorem witness_PageCommands_free : ∀ w ∈ (front (pageBlk 0x30 (2 ^ 21) 1 14) (paged tileIn 5)).walks 0 (2 ^ 21) 1,
    (∀ x e, w ≠ .leaf x e) ∧ (∀ a, w ≠ .poison a) := by
  have h : (front (pageBlk 0x30 (2 ^ 21) 1 14) (paged tileIn 5)).walks 0 (2 ^ 21) 1 = [.bad] := by decide +kernel
  rw [h]; simp

theorem witness_HostWindows :
    (let s := { upState with cas := [(0, casIn)] }
     let u := regsAt s [(0x0041000, 4)]
     let w := (u.hubGrant 0 []).2
     u.reaches (.fn 0) = true ∧ u.bar4Up 0 = true ∧ u.bar4Cas 0 = some 0 ∧ (u.hubGrant 0 []).1 = true ∧
       min (2 ^ (u.fn 0).bar4) (paSize (u.mask 0)) = paSize 1 ∧ ppsn ((w.paTouch 0 (paSize 1 - 8) 8 .bar4Read).paRead 0 (paSize 1 - 8) 8) = false ∧
       (let p := { w with hbm := w.hbm.setPsn (paKey 1 0 / 32) true }
        ppsn ((p.paTouch 0 0 8 .bar4Read).paRead 0 0 8) = true ∧ p.bar4Cas 0 = some 0) ∧
       (let v := { u with hub := { HubWin.reset with n := 5, last := 0 } }
        v.bar4Cas 0 = some 0 ∧ (v.hubGrant 0 [1]).1 = false) ∧
       min (2 ^ ((u.setFn 0 { u.fn 0 with bar4 := 30 }).fn 0).bar4) (paSize (u.mask 0)) = 2 ^ 30) ∧
    (upState.boot.link = true ∧ upState.boot.cfg = true) ∧
    (let s := { State.reset with boot := { State.reset.boot with link := true } }
     s.boot.link = true ∧ s.boot.cfg = false) := by decide +kernel

/-! ### Witnesses: resets, bring-up, power, management -/

theorem witness_WholeResets :
    State.reset.rf 0x1000014 0 0 = 0 ∧ (regsAt State.reset [(0x1000014, 3)]).rf 0x1000014 0 0 = 1 ∧ (regsAt State.reset [(0x1000014, 3)]).rf 0x1000014 1 1 = 1 ∧
    State.reset.rf 0x1000014 1 1 = 0 ∧ State.reset.held = true ∧ upState.held = false ∧ upState.loaded = true ∧ State.reset.loaded = false := by
  decide +kernel

/-- The last block of every class, its reset bit set, and shuttered. -/
theorem witness_BlockResets : ∀ x ∈ [(0, 639, 0x001014C, 31), (1, 3, 0x0010150, 3), (2, 23, 0x0010154, 23), (3, 15, 0x0010158, 15),
    (4, 7, 0x001015C, 7), (5, 0, 0x0010160, 0)],
    rstBit x.1 x.2.1 = some x.2.2 ∧ (regsAt upState [(x.2.2.1, 2 ^ x.2.2.2)]).rf x.2.2.1 x.2.2.2 x.2.2.2 = 1 ∧
      NSet.mem upState.shut (blkNo x.1 x.2.1) = false ∧
      NSet.mem ({ upState with shut := [blkNo x.1 x.2.1] } : State).shut (blkNo x.1 x.2.1) = true := by decide +kernel

/-- A bring-up in which nothing fails: good options, every tile good; and what the steps of BringsUp find on it. -/
def bring : BringIn := ⟨[], true, 1, 0, [], [], [], [], [], [], [], [], [], 0⟩

/-- Options loaded from a package that is already verified, up to the link: the hub, the boot ROM and the build of a bring-up. -/
theorem witness_BringsUp :
    State.reset.sysHeld = false ∧ State.reset.isSafe = false ∧ State.reset.rf 0x0020808 3 0 ≠ 9 ∧ State.reset.loaded = false ∧
    bring.optOk = true ∧ bring.regDead = [] ∧ (State.reset.optionLoad bring).isSafe = false ∧ (State.reset.optionLoad bring).hubFails bring = 0 ∧
    (State.reset.optionLoad { bring with hubFail := 7 }).hubFails { bring with hubFail := 7 } = 7 ∧
    (State.reset.optionLoad { bring with hubFail := 2 }).hubFails { bring with hubFail := 2 } = 2 ∧
    (State.reset.optionLoad bring).bootRom.isSafe = true := by
  decide +kernel

/-- Whether a signature verifies is free (log 9): where the active bank's image is valid, the boot ROM does not stop bring-up. -/
theorem witness_BringsUp_image (s : State) (hv : s.bootCopy.imgValid bankActive = true) (hs : s.bootCopy.isSafe = false) :
    s.bootRom.isSafe = false := by
  rw [show s.bootRom = s.bootCopy.runBank false from if_pos hv]
  refine Eq.trans ?_ hs
  have e : ∀ u : State, u.showTrust.isSafe = u.isSafe := fun u => by
    rw [State.isSafe, State.showTrust, State.rf_setRf_ne _ _ _ _ _ _ (by decide), State.rf_setReg_ne _ _ _ _ (by decide)]; rfl
  rw [State.runBank, e, State.isSafe, State.rf_setReg_ne _ _ _ _ (by decide), State.rf_setRf_ne _ _ _ _ _ _ (by decide),
    State.rf_setRf_ne _ _ _ _ _ _ (by decide), State.rf_setRf_ne _ _ _ _ _ _ (by decide)]
  rfl

/-- A seal test that runs, with its last slice test and a tile test to end, or with nothing left. -/
def sealingAt (x : SealSt) (w : Nat) : State :=
  { regsAt upState [(0x0020804, 1)] with sealing := x, pwr := { Pwr.reset with watts := w } }

theorem witness_SealTests :
    (∀ rsv : Bool, (sealingAt ⟨[115], 3, [(0, 55), (1000, 10)], rsv⟩ 1200).sealState = 1 ∧
      (sealingAt ⟨[], 0, [], rsv⟩ 0).sealState = 1 ∧ (sealingAt ⟨[], 0, [], rsv⟩ 0).sealing.todo = [] ∧
      (sealingAt ⟨[], 0, [], rsv⟩ 0).sealing.tiles = 0 ∧ (sealingAt ⟨[], 0, [], rsv⟩ 0).sealing.running = []) ∧
    (sealingAt ⟨[], 0, [], false⟩ 1200).pwr.watts ≤ (sealingAt ⟨[], 0, [], false⟩ 1200).bistCap ∧
    (sealingAt ⟨[], 0, [], false⟩ 1201).bistCap < (sealingAt ⟨[], 0, [], false⟩ 1201).pwr.watts ∧
    (SealSt.mk [115] 3 [(0, 55)] false).power ≤ 235 := by decide +kernel

/-- Die 3 at TTHROT, above it, 3 °C below it; TWARN likewise. -/
theorem witness_PinsAndTemperatures :
    upState.sealState ≠ 1 ∧ (sealingAt SealSt.reset 0).sealState = 1 ∧ (regsAt upState [(0x1000014, 12)]).rsvLow = true ∧
    (regsAt upState [(0x1000014, 12)]).rf 0x0030004 14 14 = 0 ∧ upState.rsvLow = false ∧ upState.powered = true ∧ State.reset.powered = false ∧
    (regsAt upState [(0x1000014, 12)]).rf 0x1000014 3 3 = 1 ∧ upState.rf 0x1000008 16 16 = 0 ∧
    (let at_ := fun (tj hot : Nat) (warn : Bool) => { regsAt upState [(0x1000008, 95 + 90 * 2 ^ 8), (rDie 3, tj * 2 ^ 22)] with
       pwr := { Pwr.reset with hot := hot, warn := warn } }
     (at_ 91 0 true).rf rTherm 15 8 < (at_ 91 0 true).tj 3 ∧ (at_ 91 0 true).pwr.warn = true ∧
     (∀ x < 4, (at_ 87 0 false).tj x + 3 ≤ (at_ 87 0 false).rf rTherm 15 8) ∧
     (at_ 96 0 true).tooHot 3 = true ∧ bit (at_ 96 0 true).pwr.hot 3 = false ∧ (at_ 95 0 true).tooHot 3 = false ∧
     bit (at_ 92 8 true).pwr.hot 3 = true ∧ (at_ 92 8 true).tj 3 + 3 = (at_ 92 8 true).rf rTherm 7 0 ∧
     (∀ i < 6, (at_ 92 8 true).stackTemp (18 + i) + 3 ≤ 95)) := by decide +kernel

/-- Rails at the voltages given, with steps to go down and up on die 3. -/
def rails (mv down up : Nat) : State :=
  { regsAt upState [(0x1000000, 3600), (rVlim, 650 + 900 * 2 ^ 10)] with
    pwr := { Pwr.reset with vcmd := [mv, mv, mv, mv], down := [0, 0, 0, down], up := [0, 0, 0, up] } }

theorem witness_PowerControl :
    (let ds := fun (s : State) => (List.range 4).filter (fun d => !s.atVmin d && !bit s.pwr.held d)
     (rails 655 0 0).powerInForce < 3601 ∧ ds (rails 655 0 0) ≠ [] ∧ ds (rails 654 0 0) = [] ∧ ((List.range 4).filter (fun d => bit (rails 654 0 0).pwr.hot d)) = [] ∧
       (let s := { rails 654 0 0 with pwr := { (rails 654 0 0).pwr with hot := 8 } }
        ((List.range 4).filter (fun d => bit s.pwr.hot d)) = [3] ∧ s.atVmin 3 = true ∧ 0 ≤ s.powerInForce) ∧
       (let s := { rails 655 0 0 with pwr := { (rails 655 0 0).pwr with hot := 8 } }
        ((List.range 4).filter (fun d => bit s.pwr.hot d)) = [3] ∧ s.atVmin 3 = false) ∧
       3419 * 100 < (rails 654 0 0).powerInForce * 95 ∧ (rails 654 0 0).powerInForce * 95 ≤ 3420 * 100) ∧
    (∀ mv ∈ [645, 650, 655, 895, 900, 905], (rails mv 1 1).railFree 3 = true) ∧
    ((rails 645 0 0).vcmd 3 < (rails 645 0 0).vmin ∧ (rails 905 0 0).vmax < (rails 905 0 0).vcmd 3 ∧
      (rails 655 1 0).vmin + 5 ≤ (rails 655 1 0).vcmd 3 ∧ (rails 895 0 1).vcmd 3 + 5 ≤ (rails 895 0 1).vmax) ∧
    (upState.sysHeld = false ∧ upState.rf 0x0020808 3 0 = 9 ∧ bit upState.pwr.held 3 = false ∧ State.reset.rf 0x0020808 3 0 ≠ 9) := by
  decide +kernel

/-- Requests at the front of the management queue. -/
def asked (b : MBody) : State := { upState with mgt := { Mgt.reset with queue := [(false, ⟨255, b⟩)] } }

theorem witness_RequestsArrive :
    upState.mgtUp false = true ∧ upState.mgtUp true = true ∧ State.reset.pkcHeld = true ∧ State.reset.mgtUp false = true ∧ upState.pkcHeld = false ∧
    (let s := { upState with mgt := { Mgt.reset with queue := List.replicate 8 (false, ⟨0, .identify⟩) } }
     s.pkcHeld = false ∧ 8 ≤ s.mgt.queue.length) ∧
    (let s := { upState with mgt := { Mgt.reset with queue := List.replicate 7 (false, ⟨0, .identify⟩) } }
     s.mgt.queue.length < 8) ∧ mGood (.regRead 4 65) = false ∧ mGood (.regRead 4 64) = true ∧ mGood (.bad 0x0C) = false := by decide +kernel

/-- The bodies of the management requests that witness_RequestsExecute runs. -/
def bodies : List MBody := [.identify, .status, .telemetry, .regRead 0x3FFFF00 64, .regWrite 0x0041000 [4#32], .reset, .fwu 1 0 0 0 0, .sealTest,
  .lifecycle 2 [1], .lifecycle 7 [1], .attest (List.replicate 64 0), .poll 255 1024, .regWrite 0x0010104 [1#32]]

theorem witness_RequestsExecute :
    (∀ b ∈ bodies, (asked b).mgtRun false ⟨255, b⟩ []) ∧
    (let s := regsAt (asked .telemetry) [(0x0020808, 0x109)]
     s.isSafe = true ∧ s.pkcHeld = false ∧ s.mgt.queue = [(false, ⟨255, .telemetry⟩)]) ∧
    (((asked .identify).withQueue []).regWrites 0x0041000 [4#32]).pkcHeld = false ∧
    (let u := (asked (.fwu 1 0 0 0 0)).withQueue []
     let v := fun op => ((u.answer false ⟨255, .fwu op 0 0 0 0⟩ 1 []).fwuValues 0 0 0 0).fwuCmd .mgt op ⟨none, .none⟩ 0
     (v 2).pkcHeld = false) ∧
    ((asked .sealTest).anyCas = false ∧ ({ asked .sealTest with fuses := { Fuses.reset with pend := 1 } } : State).lcAllowed .mgt 2 [1] = true ∧
      (asked .sealTest).lcAllowed .mgt 7 [1] = false) ∧
    ((asked .sealTest).fwuBusy = false ∧ (regsAt (asked .sealTest) [(0x0030004, 1)]).fwuBusy = true) ∧
    (asked .sealTest).mgt.results.find? (fun x => x.pcie == false && x.inst == 255) = none ∧
    (({ asked .sealTest with mgt := { Mgt.reset with results := [⟨false, 255, [1, 2], 0, 0⟩] } } : State).mgt.results.find?
      (fun x => x.pcie == false && x.inst == 255)).isSome = true := by
  unfold State.mgtRun; decide +kernel

/-- A queue with one command; the canonical form at reset. -/
theorem witness_StepRunsFront : ({ State.reset with pending := [.powerOnReset] } : State).pending = [.powerOnReset] ∧ State.reset.pending = [] := by
  decide

theorem witness_CanonicalKept : upState.tidy = true ∧ ({ State.reset with pending := [.powerOnReset] } : State).tidy = true := by decide +kernel
end Sys2Proof.Tests
end

section
/-! SUPPORT. Access to BAR0: numbers bit by bit, what a register access leaves as it was, and the course of a write and of a read, one
equation for each case. -/

namespace Sys2Proof.Machine

/-! ### Numbers bit by bit -/

/-- Numbers without a common bit: no carry runs in their sum. -/
theorem add_eq_or_of_disjoint {x y : Nat} (h : x &&& y = 0) : x + y = x ||| y := by
  have hx : x < 2 ^ (x + y) := Nat.lt_of_lt_of_le Nat.lt_two_pow_self (Nat.pow_le_pow_right (by decide) (Nat.le_add_right x y))
  have hy : y < 2 ^ (x + y) := Nat.lt_of_lt_of_le Nat.lt_two_pow_self (Nat.pow_le_pow_right (by decide) (Nat.le_add_left y x))
  have hw := congrArg BitVec.toNat (BitVec.add_eq_or_of_and_eq_zero (BitVec.ofNat (x + y) x) (BitVec.ofNat (x + y) y) (by
    rw [← BitVec.ofNat_and, h]))
  simpa [Nat.mod_eq_of_lt hx, Nat.mod_eq_of_lt hy, Nat.mod_eq_of_lt Nat.lt_two_pow_self] using hw

/-- Taking away the bits that x shares with m clears them. -/
theorem testBit_sub_and (x m i : Nat) : (x - (x &&& m)).testBit i = (x.testBit i && !m.testBit i) := by
  have hd : (x ^^^ (x &&& m)) &&& (x &&& m) = 0 := Nat.eq_of_testBit_eq fun j => by
    cases hx : x.testBit j <;> simp [hx]
  have hs : (x ^^^ (x &&& m)) + (x &&& m) = x := by
    rw [add_eq_or_of_disjoint hd]
    refine Nat.eq_of_testBit_eq fun j => ?_
    cases hx : x.testBit j <;> simp [hx]
  rw [show x - (x &&& m) = x ^^^ (x &&& m) by omega]
  cases hx : x.testBit i <;> simp [hx]

/-- The bits of m come from v, the others from x. -/
theorem testBit_mergeBits (x v m i : Nat) : (mergeBits x v m).testBit i = if m.testBit i then v.testBit i else x.testBit i := by
  have hd : (x - (x &&& m)) &&& (v &&& m) = 0 := Nat.eq_of_testBit_eq fun j => by
    cases hm : m.testBit j <;> simp [testBit_sub_and, hm]
  rw [mergeBits, add_eq_or_of_disjoint hd]
  cases hm : m.testBit i <;> simp [testBit_sub_and, hm]

/-- R8: what a write makes of each bit of a row: 1 sets RW1S, 1 clears RW1C, RW takes the value (HRW too where hrw), the rest stays. -/
theorem testBit_wrVal (r : RRow) (old v i : Nat) (hrw : Bool) : (wrVal r old v hrw).testBit i =
    if (r.mask (fun t => t == .rw1s)).testBit i && v.testBit i then true
    else if (r.mask (fun t => t == .rw1c)).testBit i && v.testBit i then false
    else if (r.mask (fun t => t == .rw || (t == .hrw && hrw))).testBit i then v.testBit i
    else old.testBit i := by
  simp only [wrVal, Nat.testBit_or, testBit_sub_and, testBit_mergeBits, Nat.testBit_and]
  cases v.testBit i
  · simp
  · cases (r.mask (fun t => t == .rw1s)).testBit i <;> simp [Bool.and_comm]

/-! ### Writes and reads by type code (R8) -/

theorem State.wrGen_of_none {k : Nat} (h : rowAt (k % 2 ^ 26) = none) (s : State) (v : Nat) (hrw : Bool) : s.wrGen k v hrw = s := by
  rw [State.wrGen, h]

theorem State.wrGen_of_row {k : Nat} {r : RRow} (h : rowAt (k % 2 ^ 26) = some r) (s : State) (v : Nat) (hrw : Bool) :
    s.wrGen k v hrw = s.setReg k (BitVec.ofNat 32 (wrVal r (s.reg k).toNat v hrw)) := by
  rw [State.wrGen, h]

theorem State.readClear_of_none {k : Nat} (h : rowAt (k % 2 ^ 26) = none) (s : State) : s.readClear k = s := by
  rw [State.readClear, h]

theorem State.readClear_of_row {k : Nat} {r : RRow} (h : rowAt (k % 2 ^ 26) = some r) (s : State) :
    s.readClear k = s.setReg k (BitVec.ofNat 32 (mergeBits (s.reg k).toNat 0 (r.mask (fun t => t == .rc)))) := by
  rw [State.readClear, h]

theorem typeMask_of_none {off : Nat} (h : rowAt off = none) (p : RTy → Bool) : typeMask off p = 0 := by rw [typeMask, h]

theorem typeMask_of_row {off : Nat} {r : RRow} (h : rowAt off = some r) (p : RTy → Bool) : typeMask off p = r.mask p := by
  rw [typeMask, h]

/-- R8: a register after a write by its type codes, bit by bit. -/
theorem State.getLsbD_wrGen_self (s : State) (k v : Nat) (hrw : Bool) {i : Nat} (hi : i < 32) :
    ((s.wrGen k v hrw).reg k).getLsbD i =
      if bit (typeMask (k % 2 ^ 26) (fun t => t == .rw1s)) i && v.testBit i then true
      else if bit (typeMask (k % 2 ^ 26) (fun t => t == .rw1c)) i && v.testBit i then false
      else if bit (typeMask (k % 2 ^ 26) (fun t => t == .rw || (t == .hrw && hrw))) i then v.testBit i
      else (s.reg k).getLsbD i := by
  cases hr : rowAt (k % 2 ^ 26) with
  | none => simp only [State.wrGen_of_none hr, typeMask_of_none hr, bit_eq, Nat.zero_testBit, Bool.false_and, Bool.false_eq_true, if_false]
  | some r =>
    rw [State.wrGen_of_row hr, State.reg_setReg_self, BitVec.getLsbD_ofNat, decide_eq_true hi, Bool.true_and, testBit_wrVal,
      BitVec.testBit_toNat]
    simp only [typeMask_of_row hr, bit_eq]

theorem State.reg_wrGen_ne (s : State) {k j : Nat} (v : Nat) (hrw : Bool) (h : j ≠ k) : (s.wrGen k v hrw).reg j = s.reg j := by
  cases hr : rowAt (k % 2 ^ 26) with
  | none => rw [State.wrGen_of_none hr]
  | some r => rw [State.wrGen_of_row hr, State.reg_setReg_ne s _ h]

/-- R8: a read clears the RC bits of its register. -/
theorem State.getLsbD_readClear_self (s : State) (k : Nat) {i : Nat} (hi : i < 32) : ((s.readClear k).reg k).getLsbD i =
    (!bit (typeMask (k % 2 ^ 26) (fun t => t == .rc)) i && (s.reg k).getLsbD i) := by
  cases hr : rowAt (k % 2 ^ 26) with
  | none => rw [State.readClear_of_none hr, typeMask_of_none hr, bit_eq, Nat.zero_testBit, Bool.not_false, Bool.true_and]
  | some r =>
    rw [State.readClear_of_row hr, State.reg_setReg_self, BitVec.getLsbD_ofNat, decide_eq_true hi, Bool.true_and, testBit_mergeBits,
      BitVec.testBit_toNat, typeMask_of_row hr, bit_eq]
    cases (r.mask (fun t => t == .rc)).testBit i <;> simp

theorem State.reg_readClear_ne (s : State) {k j : Nat} (h : j ≠ k) : (s.readClear k).reg j = s.reg j := by
  cases hr : rowAt (k % 2 ^ 26) with
  | none => rw [State.readClear_of_none hr]
  | some r => rw [State.readClear_of_row hr, State.reg_setReg_ne s _ h]

@[simp] theorem State.readClear_out (s : State) (k : Nat) : (s.readClear k).out = s.out := by
  cases hr : rowAt (k % 2 ^ 26) with
  | none => rw [State.readClear_of_none hr]
  | some r => rw [State.readClear_of_row hr, State.setReg_out]

/-- One bit of a register replaced. -/
theorem State.getLsbD_setRf_bit (s : State) (k v : Nat) {d i : Nat} (hd : d < 32) :
    ((s.setRf k d d (fld v d d)).reg k).getLsbD i = if i = d then v.testBit i else (s.reg k).getLsbD i := by
  rw [State.setRf, State.reg_setReg_self, ← BitVec.testBit_toNat, rset_toNat _ _ (Nat.le_succ d) hd,
    testBit_setFld _ _ _ _ _ (Nat.le_succ d)]
  by_cases h : i = d
  · subst h; rw [if_pos ⟨Nat.le_refl i, Nat.le_refl i⟩, testBit_fld]; simp
  · rw [if_neg (by omega), if_neg h, BitVec.testBit_toNat]

/-! ### The unlock window (R375) -/

/-- A write outside the window can change the unlock banks and nothing else. -/
theorem State.windowAt_eq_unlock (s : State) (rq : Req) (off : Nat) : ∃ l, s.windowAt rq off = { s with unlock := l } := by
  unfold State.windowAt
  split
  · split <;> exact ⟨_, rfl⟩
  · exact ⟨s.unlock, rfl⟩

/-- A write counted by the window can change the unlock banks and nothing else. -/
theorem State.windowUse_eq_unlock (s : State) (rq : Req) : ∃ l, s.windowUse rq = { s with unlock := l } := by
  unfold State.windowUse
  split <;> exact ⟨_, rfl⟩

@[simp] theorem State.windowUse_reg (s : State) (rq : Req) (k : Nat) : (s.windowUse rq).reg k = s.reg k := by
  obtain ⟨l, h⟩ := s.windowUse_eq_unlock rq
  rw [h]; rfl

@[simp] theorem State.windowUse_copies (s : State) (rq : Req) (off : Nat) : (s.windowUse rq).copies off = s.copies off := by
  obtain ⟨l, h⟩ := s.windowUse_eq_unlock rq
  rw [h]; rfl

/-- R27, R375: a write that takes its turn makes one grant, and can change the unlock banks. -/
theorem State.placed_eq_grant (s : State) (rq : Req) (off : Nat) : ∃ l, s.placed rq off = { s.grant (arbReg off) with unlock := l } :=
  (s.grant (arbReg off)).windowAt_eq_unlock rq off

@[simp] theorem State.placed_reg (s : State) (rq : Req) (off k : Nat) : (s.placed rq off).reg k = s.reg k := by
  obtain ⟨l, h⟩ := s.placed_eq_grant rq off
  rw [h]; rfl

@[simp] theorem State.placed_blkDown (s : State) (rq : Req) (off c n : Nat) : (s.placed rq off).blkDown c n = s.blkDown c n := by
  obtain ⟨l, h⟩ := s.placed_eq_grant rq off
  rw [h]; rfl

@[simp] theorem State.heal_reg (s : State) (off k : Nat) : (s.heal off).reg k = s.reg k := rfl

@[simp] theorem State.heal_copies_self (s : State) (off : Nat) : (s.heal off).copies off = HCopy.three := by
  simp [State.heal, State.copies]

/-! ### The course of a write -/

/-- A register the requester sees whole: what State.lets says. -/
theorem State.lets_iff (s : State) (rq : Req) (off : Nat) : s.lets rq off = true ↔
    s.reaches rq = true ∧ s.unserved rq off = false ∧ rowAt off ≠ none ∧ s.view rq off = .full := by
  simp [State.lets, Option.isSome_iff_ne_none, and_assoc]

theorem State.takesWr_iff (s : State) (rq : Req) (off : Nat) : s.takesWr rq off = true ↔
    s.lets rq off = true ∧ s.blkDown clsBlock (blockOf off) = false := by
  simp [State.takesWr]

theorem State.writes_iff (s : State) (rq : Req) (off : Nat) : s.writes rq off = true ↔ s.takesWr rq off = true ∧ hrwMask off = 0 := by
  simp [State.writes]

theorem State.writesHard_iff (s : State) (rq : Req) (off : Nat) : s.writesHard rq off = true ↔
    s.takesWr rq off = true ∧ hrwMask off ≠ 0 ∧ (s.placed rq off).unlocked rq off = true := by
  simp [State.writesHard, and_assoc]

section Write
variable {s : State} {rq : Req} {off : Nat} (v : Nat) (u : During)

/-- R7, R14: a write of a reserved offset, or of a register that its requester does not see, only takes its turn. -/
theorem State.wr32_of_unseen (hr : s.reaches rq = true) (hu : s.unserved rq off = false)
    (h : rowAt off = none ∨ s.view rq off = .none) : s.wr32 rq off v u = s.placed rq off := by
  by_cases hrow : rowAt off = none
  · simp [State.wr32, hr, hu, hrow, State.placed]
  · have hv := h.resolve_left hrow
    simp [State.wr32, hr, hu, hv, State.placed]

/-- R11, R14: a register that its requester may only read: nothing, or the event of a hardened one. -/
theorem State.wr32_of_readOnly (hr : s.reaches rq = true) (hu : s.unserved rq off = false) (hrow : rowAt off ≠ none)
    (hv : s.view rq off = .ro) : s.wr32 rq off v u =
      if hrwMask off = 0 then s.placed rq off else (s.placed rq off).accEv rq off (s.arbN (arbReg off)) := by
  simp [State.wr32, hr, hu, hrow, hv, State.placed]

/-- R14: a register of which its requester sees one bit: the bit is written. -/
theorem State.wr32_of_oneBit (hr : s.reaches rq = true) (hu : s.unserved rq off = false) (hrow : rowAt off ≠ none) {d : Nat}
    (hv : s.view rq off = .one d) : s.wr32 rq off v u = (s.placed rq off).setRf off d d (fld (v % 2 ^ 32) d d) := by
  simp [State.wr32, hr, hu, hrow, hv, State.placed]

/-- R374: a fenced block refuses the write. -/
theorem State.wr32_of_fenced (hl : s.lets rq off = true) (hb : s.blkDown clsBlock (blockOf off) = true) :
    s.wr32 rq off v u = (s.placed rq off).refuse := by
  obtain ⟨hr, hu, hrow, hv⟩ := (s.lets_iff rq off).mp hl
  have hp := s.placed_blkDown rq off clsBlock (blockOf off)
  rw [State.placed] at hp
  simp [State.wr32, hr, hu, hrow, hv, State.placed, hp, hb]

/-- R8, R11, R375, R449: a write that the block takes: the register's rule, where a hardened register is unlocked and does not refuse
the value. -/
theorem State.wr32_of_takesWr (ht : s.takesWr rq off = true) : s.wr32 rq off v u =
    if hrwMask off = 0 then (s.placed rq off).wrAt rq off (v % 2 ^ 32) (s.arbN (arbReg off)) u
    else if !(s.placed rq off).unlocked rq off || (s.placed rq off).refuses off (v % 2 ^ 32) then
      (s.placed rq off).accEv rq off (s.arbN (arbReg off))
    else if off = 0x0010020 ∧ rq ≠ .pkc then s.placed rq off
    else (((s.placed rq off).wrAt rq off (v % 2 ^ 32) (s.arbN (arbReg off)) u).heal off).windowUse rq := by
  obtain ⟨hl, hb⟩ := (s.takesWr_iff rq off).mp ht
  obtain ⟨hr, hu, hrow, hv⟩ := (s.lets_iff rq off).mp hl
  have hp := s.placed_blkDown rq off clsBlock (blockOf off)
  rw [State.placed] at hp
  simp only [State.wr32, hr, hu, hv, State.placed, hp, hb]
  simp [hrow]

/-- R8: a write of a register without hardened bits is done by the register's rule. -/
theorem State.wr32_of_writes (hw : s.writes rq off = true) :
    s.wr32 rq off v u = (s.placed rq off).wrAt rq off (v % 2 ^ 32) (s.arbN (arbReg off)) u := by
  obtain ⟨ht, hm⟩ := (s.writes_iff rq off).mp hw
  rw [State.wr32_of_takesWr v u ht, if_pos hm]

/-- R11, R375: a hardened register that is locked, or that refuses the value, stays, with the event. -/
theorem State.wr32_of_refused (ht : s.takesWr rq off = true) (hm : hrwMask off ≠ 0)
    (h : (s.placed rq off).unlocked rq off = false ∨ (s.placed rq off).refuses off (v % 2 ^ 32) = true) :
    s.wr32 rq off v u = (s.placed rq off).accEv rq off (s.arbN (arbReg off)) := by
  rw [State.wr32_of_takesWr v u ht, if_neg hm, if_pos]
  rcases h with h | h <;> simp only [h, Bool.not_false, Bool.true_or, Bool.or_true]

/-- R372, R375: an unlocked write of a hardened register is done by the register's rule, replaces the copies and counts. -/
theorem State.wr32_of_writesHard (hw : s.writesHard rq off = true) (h : (s.placed rq off).refuses off (v % 2 ^ 32) = false)
    (hwdt : off = 0x0010020 → rq = .pkc) : s.wr32 rq off v u =
      (((s.placed rq off).wrAt rq off (v % 2 ^ 32) (s.arbN (arbReg off)) u).heal off).windowUse rq := by
  obtain ⟨ht, hm, hul⟩ := (s.writesHard_iff rq off).mp hw
  rw [State.wr32_of_takesWr v u ht, if_neg hm, hul, h, if_neg (by simp), if_neg (fun ⟨ho, hq⟩ => hq (hwdt ho))]

end Write

theorem plainReg_lt {off : Nat} (h : plainReg off = true) : off < 0x3FF0000 := by
  simp [plainReg] at h; omega

theorem plainReg_ne_wdt {off : Nat} (h : plainReg off = true) : off ≠ 0x0010020 := by
  rintro rfl; simp [plainReg] at h

/-- A write of a plain register does what its type codes say. -/
theorem State.wrAt_of_plain (s : State) (rq : Req) {off : Nat} (v n : Nat) (u : During) (h : plainReg off = true) :
    s.wrAt rq off v n u = s.wrGen off v true := by
  simp only [plainReg, Bool.not_eq_true', Bool.or_eq_false_iff, beq_eq_false_iff_ne, decide_eq_false_iff_not] at h
  obtain ⟨⟨⟨⟨⟨⟨⟨⟨⟨⟨⟨⟨⟨⟨⟨-, hfeed⟩, hrst⟩, hlc⟩, hseal⟩, hfwu⟩, hring⟩, hunlk⟩, hinj⟩, hcvu⟩, hkey⟩, hspw⟩, hstg⟩, hport⟩, hfab⟩, hmsix⟩ := h
  simp only [State.wrAt, hfeed, hrst, hlc, hseal, hfwu, hring, hunlk, hinj, hcvu, hkey, hspw, hstg, hport, hfab, hmsix, if_false,
    Bool.false_eq_true]

/-! ### The commands of one access -/

/-- R7, R8: REG_WRITE of 32 bits. -/
theorem exec_regWrite_narrow (rq : Req) {off : Nat} (v : BitVec 64) (s : State) (h : off % 4 = 0) :
    exec (.regWrite rq off false v) s = .next (s.wr32 rq off v.toNat .none) := by
  show execRegWrite rq off false v s = _
  simp [execRegWrite, aligned, h, State.wrReg]

/-- R7: REG_WRITE of 64 bits covers two registers, the lower first. -/
theorem exec_regWrite_wide (rq : Req) {off : Nat} (v : BitVec 64) (s : State) (h : off % 8 = 0) :
    exec (.regWrite rq off true v) s =
      .next ((s.wr32 rq off v.toNat .none).wr32 rq (off + 4) (v.toNat / 2 ^ 32) .none) := by
  show execRegWrite rq off true v s = _
  simp [execRegWrite, aligned, h, State.wrReg]

/-- R8, R10: RC_READ of 32 bits of a register that its requester sees whole. -/
theorem exec_rcRead_narrow {rq : Req} {off : Nat} {s : State} (h : off % 4 = 0) (hl : s.lets rq off = true) :
    exec (.rcRead rq off false) s = .next (((if (heldCopy (s.copies off)).isSome then s.grant (arbReg off)
      else (s.grant (arbReg off)).draw).readClear (rqKey rq off)).emit (.reg rq off 4 (s.regShow rq off))) := by
  obtain ⟨hr, hu, hrow, hv⟩ := (s.lets_iff rq off).mp hl
  show execRcRead rq off false s = _
  simp [execRcRead, aligned, h, hr, State.rdReg, State.rd32, hu, hrow, hv]

/-- R7: BAD_WIDTH_ACCESS of an improper width or alignment. -/
theorem exec_badWidthAccess {rq : Req} {off width : Nat} (wr : Bool) {s : State}
    (h : ¬ ((width = 4 ∧ off % 4 = 0) ∨ (width = 8 ∧ off % 8 = 0))) :
    exec (.badWidthAccess rq off width wr) s = .next (s.badAccess rq off width wr) := by
  show execBadWidthAccess rq off width wr s = _
  rw [execBadWidthAccess, if_neg h]

/-- A register's key lies where its offset does. -/
theorem rqKey_mod (rq : Req) {off : Nat} (h : off < 2 ^ 26) : rqKey rq off % 2 ^ 26 = off := by
  unfold rqKey
  split
  · split <;> omega
  · omega

end Sys2Proof.Machine
end

section
/-! PROOFS. R7 to R11, R374, R375: a register write and a register read. -/

namespace Sys2Proof.Machine

/-- R8, R372: the write of a plain register that nothing stands against: the state it leaves. -/
theorem State.wr32_plain_spec (s : State) (rq : Req) {off : Nat} (v : Nat) (u : During) (hp : plainReg off = true)
    (h : s.writes rq off = true ∨ (s.writesHard rq off = true ∧ (s.placed rq off).refuses off (v % 2 ^ 32) = false)) :
    (∀ k, (s.wr32 rq off v u).reg k = ((s.placed rq off).wrGen off (v % 2 ^ 32) true).reg k) ∧
      (hrwMask off ≠ 0 → (s.wr32 rq off v u).copies off = HCopy.three) := by
  rcases h with hw | ⟨hw, hf⟩
  · have hm := ((s.writes_iff rq off).mp hw).2
    rw [State.wr32_of_writes v u hw, State.wrAt_of_plain _ _ _ _ _ hp]
    exact ⟨fun _ => rfl, fun hn => absurd hm hn⟩
  · rw [State.wr32_of_writesHard v u hw hf (fun h => absurd h (plainReg_ne_wdt hp)), State.wrAt_of_plain _ _ _ _ _ hp]
    exact ⟨fun _ => by simp, fun _ => by simp⟩

/-- Settles O31: each case of the write is one equation of State.wr32; the bits of a plain register are those of State.wrGen. -/
theorem registerWrite : Obligations.RegisterWrite := by
  unfold Obligations.RegisterWrite
  refine ⟨fun rq off v s ho hr hu => ?_, fun rq off v s ho => ?_⟩
  · have hv32 : ∀ i, i < 32 → (v.toNat % 2 ^ 32).testBit i = v.getLsbD i := fun i hi => by
      rw [Nat.testBit_mod_two_pow, decide_eq_true hi, Bool.true_and, BitVec.testBit_toNat]
    simp only [exec_regWrite_narrow rq v s ho]
    refine ⟨fun h => ⟨?_, fun k => State.placed_reg s rq off k⟩, fun hrow hv hm => ?_, fun d hd hrow hv => ?_, fun hl hb => ?_,
      fun ht hm hul => ?_, fun hp hw => ?_⟩
    · by_cases hrow : rowAt off = none
      · rw [State.wr32_of_unseen _ _ hr hu (.inl hrow)]
      · rcases h with h | h | ⟨hv, hm⟩
        · exact absurd h hrow
        · rw [State.wr32_of_unseen _ _ hr hu (.inr h)]
        · rw [State.wr32_of_readOnly _ _ hr hu hrow hv, if_pos hm]
    · rw [State.wr32_of_readOnly _ _ hr hu hrow hv, if_neg hm]
    · refine ⟨_, rfl, ?_⟩
      rw [State.wr32_of_oneBit _ _ hr hu hrow hv]
      refine ⟨fun k hk => ?_, fun i hi => ?_⟩
      · rw [State.reg_setRf_ne _ _ _ _ hk, State.placed_reg]
      · rw [State.getLsbD_setRf_bit _ _ _ (by omega), hv32 i hi, State.placed_reg]
    · rw [State.wr32_of_fenced _ _ hl hb]
    · rw [State.wr32_of_refused _ _ ht hm (.inl hul)]
    · obtain ⟨hreg, hcopies⟩ := State.wr32_plain_spec s rq v.toNat .none hp hw
      have hkey : off % 2 ^ 26 = off := Nat.mod_eq_of_lt (Nat.lt_trans (plainReg_lt hp) (by decide))
      refine ⟨_, rfl, fun k hk => ?_, hcopies, fun i hi => ?_⟩
      · rw [hreg, State.reg_wrGen_ne _ _ _ hk, State.placed_reg]
      · rw [hreg, State.getLsbD_wrGen_self _ _ _ _ hi, hkey, hv32 i hi, State.placed_reg]
        simp only [Bool.and_true]
  · refine ⟨_, exec_regWrite_narrow rq v s (by omega), ?_⟩
    rw [exec_regWrite_wide rq v s ho, exec_regWrite_narrow rq _ _ (by omega), BitVec.toNat_ushiftRight, Nat.shiftRight_eq_div_pow]

/-- Settles O32: the read emits what the register shows and clears by State.readClear; the refused access is State.badAccess. -/
theorem registerRead : Obligations.RegisterRead := by
  unfold Obligations.RegisterRead
  refine ⟨fun rq off s ho hlt hl => ⟨_, exec_rcRead_narrow ho hl, ?_⟩, fun rq off width s hr hw => ?_⟩
  · -- the draw of a register without two good copies changes neither the registers nor the output
    have hfree : ∃ n, (if (heldCopy (s.copies off)).isSome then s.grant (arbReg off) else (s.grant (arbReg off)).draw) =
        { s.grant (arbReg off) with free := n } := by
      split <;> exact ⟨_, rfl⟩
    obtain ⟨n, hfree⟩ := hfree
    rw [hfree]
    refine ⟨?_, fun k hk => ?_, fun i hi => ?_⟩
    · simp [State.emit]
    · rw [State.emit_reg, State.reg_readClear_ne _ hk]; rfl
    · rw [State.emit_reg, State.getLsbD_readClear_self _ _ hi, rqKey_mod rq hlt]; rfl
  · simp only [exec_badWidthAccess _ hw, State.badAccess, hr]
    exact ⟨rfl, rfl⟩

end Sys2Proof.Machine
end

section
/-! PROOFS. R13, R208, R424: the state after reset. -/

namespace Sys2Proof.Machine

/-- R13: after reset every register holds its reset value. -/
theorem State.reg_reset (k : Nat) : State.reset.reg k = regReset k := rfl

/-- A row holds offsets of its own range only. -/
theorem RRow.lt_of_holds {r : RRow} {o : Nat} (hst : 0 < r.st1) (h : r.holds o = true) : o < r.base + r.st1 * r.n1 := by
  simp only [RRow.holds, Bool.and_eq_true, decide_eq_true_eq] at h
  obtain ⟨hb, hi, -⟩ := h
  have := (Nat.div_lt_iff_lt_mul hst).mp hi
  rw [Nat.mul_comm] at this
  omega

/-- A row of single registers holds each of them. -/
theorem RRow.holds_elem {r : RRow} {i : Nat} (hst : 0 < r.st1) (hi : i < r.n1) (h2 : r.n2 ≤ 1) :
    r.holds (r.base + i * r.st1) = true := by
  simp [RRow.holds, h2, Nat.mul_div_cancel _ hst, hi]

/-- The rows of the table before the TIL block's. -/
def rowsBeforeTIL : List RRow :=
  regsIDN ++ regsRST ++ regsLCB ++ regsFWU ++ regsITK ++ regsEVT ++ regsINT ++ regsNUM ++ regsMEM ++ regsTRN ++ regsPGA ++ regsFAB

/-- The row of TIL_ID (R209). -/
def rowTilId : RRow := regsTIL.head (List.cons_ne_nil _ _)

/-- R397: the blocks before TIL end where it begins. -/
theorem rowsBeforeTIL_end : ∀ r ∈ rowsBeforeTIL, 0 < r.st1 ∧ r.base + r.st1 * r.n1 ≤ 0x0800000 := by decide +kernel

theorem rowTilId_holds {p : Nat} (hp : p < 640) : rowTilId.holds (rTil p 0) = true :=
  RRow.holds_elem (r := rowTilId) (by decide) hp (by decide)

/-- R16, R209: the register of position p's TIL_ID is of that row. -/
theorem rowAt_rTil {p : Nat} (hp : p < 640) : rowAt (rTil p 0) = some rowTilId := by
  have htab : regTable = rowsBeforeTIL ++ (rowTilId :: (regsTIL.tail ++ regsMGT ++ regsMSIX)) := rfl
  have hnone : rowsBeforeTIL.find? (fun r => r.holds (rTil p 0)) = none := by
    refine List.find?_eq_none.mpr fun r hr hh => ?_
    obtain ⟨hst, hend⟩ := rowsBeforeTIL_end r hr
    have := RRow.lt_of_holds hst hh
    simp only [rTil] at this
    omega
  rw [rowAt, htab, List.find?_append, hnone, Option.none_or]
  exact List.find?_cons_of_pos (rowTilId_holds hp)

/-- R208: TIL_ID of every position gives the position. -/
theorem reset_tilId {p : Nat} (hp : p < 640) : State.reset.rf (rTil p 0) 9 0 = p := by
  have hk : rTil p 0 % 2 ^ 26 = rTil p 0 := Nat.mod_eq_of_lt (by simp only [rTil]; omega)
  have hpos : (rTil p 0 - 0x0800000) / 0x1000 = p := by simp only [rTil]; omega
  have hdie : dieOfTile p < 4 := by simp only [dieOfTile]; omega
  have hreg : (regReset (rTil p 0)).toNat = 0x1FFF1000 + (p + dieOfTile p * 2 ^ 10) := by
    simp only [regReset, hk, rowAt_rTil hp, hpos]
    rw [show rowTilId.rst = 0x1FFF1000 from rfl, if_pos (show rowTilId.base = 0x0800000 from rfl), BitVec.toNat_ofNat]
    omega
  rw [State.rf, State.reg_reset, rfld, hreg, fld, Nat.shiftRight_zero]
  omega

/-- R13, R469: the identification, the cause of the reset and the boot step at their tables' values; not safe, and held. -/
theorem reset_package : State.reset.reg 0x0000000 = 0x00100576#32 ∧ State.reset.rf 0x0010000 3 0 = 1 ∧
    State.reset.rf 0x0010000 15 8 = 1 ∧ State.reset.rf 0x0010020 15 0 = 0x1F4 ∧ State.reset.rf 0x0020808 3 0 = 1 ∧
    State.reset.isSafe = false ∧ State.reset.held = true := by
  decide +kernel

/-- R364: no casement, and its fabric state is the first. -/
theorem reset_casements : ∀ d, d < 4 → (State.reset.casement d).exist = false ∧ State.reset.fabState d = 0 := by decide +kernel

/-- R328: every port is down. -/
theorem reset_ports : ∀ p, p < 8 → State.reset.portState p = 0 := by decide +kernel

/-- R400, R418: a function's window and queue are empty, its rings are off. -/
theorem reset_functions : ∀ f, f < 16 → State.reset.itkRead f = 0 ∧ State.reset.itkNext f = 0 ∧ State.reset.ringEn f false = false ∧
    State.reset.ringEn f true = false ∧ (State.reset.fn f).q = [] := by decide +kernel

theorem reset_tidy : State.reset.tidy = true := by decide

/-- Settles O59: the registers read their tables' reset values, and the lists of the state are empty. -/
theorem resetState : Obligations.ResetState := by
  unfold Obligations.ResetState
  obtain ⟨hpart, hcause, hseen, hwdt, hboot, hsafe, hheld⟩ := reset_package
  exact ⟨hpart, hcause, hseen, hwdt, hboot, hsafe, hheld, reset_casements, reset_ports, reset_functions, fun _ hp => reset_tilId hp,
    reset_tidy⟩

end Sys2Proof.Machine
end

section
/-! SUPPORT. What raising an event leaves as it was (R413 to R419). -/

namespace Sys2Proof.Machine

/-- t differs from s at most where an event record and its interrupt are written: registers, arbiters, host memory, functions, output. -/
def State.SameButRings (s t : State) : Prop :=
  ∃ regs arb host fns out, t = { s with regs := regs, arb := arb, host := host, fns := fns, out := out }

theorem State.SameButRings.refl (s : State) : s.SameButRings s := ⟨_, _, _, _, _, rfl⟩

theorem State.SameButRings.trans {s t u : State} (h : s.SameButRings t) (h' : t.SameButRings u) : s.SameButRings u := by
  obtain ⟨_, _, _, _, _, rfl⟩ := h
  obtain ⟨_, _, _, _, _, rfl⟩ := h'
  exact ⟨_, _, _, _, _, rfl⟩

theorem State.SameButRings.mesh_eq {s t : State} (h : s.SameButRings t) : t.mesh = s.mesh := by
  obtain ⟨_, _, _, _, _, rfl⟩ := h
  rfl

theorem State.sameButRings_ringSignal (s : State) (f : Nat) (evt : Bool) : s.SameButRings (s.ringSignal f evt) := by
  unfold State.ringSignal State.sendVec
  split
  · split <;> exact ⟨_, _, _, _, _, rfl⟩
  · exact .refl s

theorem State.sameButRings_ringWrite (s : State) (f : Nat) (evt : Bool) (bs : List Nat) : s.SameButRings (s.ringWrite f evt bs) := by
  refine .trans ?_ (State.sameButRings_ringSignal _ f evt)
  split <;> exact ⟨_, _, _, _, _, rfl⟩

theorem State.sameButRings_ringEvent (s : State) (f : Nat) (e : Ev) (n : Nat) : s.SameButRings (s.ringEvent f e n) := by
  unfold State.ringEvent
  split
  · exact (State.sameButRings_ringWrite s f true _).trans ⟨_, _, _, _, _, rfl⟩
  · exact ⟨_, _, _, _, _, rfl⟩

/-- R417: an event reaches its owner's ring and the PF's, and nothing else. -/
theorem State.sameButRings_post (s : State) (e : Ev) : s.SameButRings (s.post e) := by
  have hgrant : s.SameButRings (s.grant arbEvent) := ⟨_, _, _, _, _, rfl⟩
  refine .trans ?_ (State.sameButRings_ringEvent _ 0 e _)
  split
  · split
    · exact hgrant
    · exact hgrant.trans (State.sameButRings_ringEvent _ _ e _)
  · exact hgrant

@[simp] theorem State.post_mesh (s : State) (e : Ev) : (s.post e).mesh = s.mesh := (s.sameButRings_post e).mesh_eq

end Sys2Proof.Machine
end

section
/-! SUPPORT. Training, HELLO and mesh flits: one equation for each case (R328, R338, R367). -/

namespace Sys2Proof.Machine

section Ports
variable {p : Nat} {s : State}

/-! ### Training (R328, R337, R432, R447, R448) -/

theorem State.mayTrain_eq_false (h : s.rf 0x0200000 16 16 = 0 ∨ (s.port p).bad = true ∨ s.txIdle = true ∨ s.blkDown 4 p = true) :
    s.mayTrain p = false := by
  rcases h with h | h | h | h <;> simp [State.mayTrain, h]

theorem State.portTrain_of_not_mayTrain (lanes : Nat) (h : s.mayTrain p = false) : s.portTrain p lanes = s := by
  rw [State.portTrain, if_pos (.inl h)]

/-- R328, R338: enough lanes: the port is trained on at most its most lanes and sends HELLO. -/
theorem State.portTrain_of_enough_lanes {lanes : Nat} (hmay : s.mayTrain p = true) (hen : s.rf (rPort p 4) 0 0 = 1)
    (hst : s.portState p < 2) (hpos : 0 < lanes) (hmin : laneMin p ≤ lanes) :
    s.portTrain p lanes =
      let u := ((s.setRf (rPort p 0) 2 0 1).setRf (rPort p 0) 6 3 (min lanes (laneMax p))).setPort p ((s.port p).fresh s.pool)
      let hi := u.ownFrame 0 0 0 (.hello s.pkgId p)
      u.sendNow p { u.port p with cr := ((u.port p).cr.spend hi).getD (u.port p).cr } hi := by
  have hgo : ¬ (s.mayTrain p = false ∨ s.rf (rPort p 4) 0 0 = 0 ∨ 2 ≤ s.portState p) := by
    simp [hmay, hen, hst]
  rw [State.portTrain, if_neg hgo, if_neg (by omega), if_neg (by omega)]

/-! ### HELLO (R338) -/

theorem State.withFrame_of_take {f : FBody → Bool} {fr : Frame} {x : Port} (go : State → Frame → State)
    (h : (s.port p).take (fun y => f y.body) = some (fr, x)) : s.withFrame p f go = go (s.setPort p x) fr := by
  rw [State.withFrame, h]

/-- R338: a training port takes the peer's HELLO: the peer is noted, and the port comes up or is misconnected. -/
theorem State.hello_of_training {fr : Frame} {x : Port} {id port : Nat}
    (ht : (s.port p).take (fun y => isHello y.body) = some (fr, x)) (hb : fr.body = .hello id port) (hst : s.portState p = 1) :
    s.hello p =
      let u := (((s.setPort p x).setRf (rPort p 0) 23 8 id).setRf (rPort p 0) 27 24 port).setFound p true
      if peerOk s.pkgId p id port then
        let v := (u.setRf (rPort p 0) 2 0 2).post { kind := 4, unit := p }
        v.pumpTx p (v.port p).txq.length
      else (u.setRf (rPort p 0) 2 0 3).post { kind := 4, unit := p } := by
  have hstate : ¬ (s.setPort p x).portState p ≠ 1 := fun hne => hne hst
  rw [State.hello, State.withFrame_of_take _ ht]
  simp only [hb, if_neg hstate]
  rfl

end Ports

/-! ### Mesh flits (R19, R367) -/

section Mesh
variable {s : State} {pos dir src : Nat}

theorem State.meshInject_eq_false (dir : Nat) (h : s.injArmed 8 (dieOfTile src) = false) : s.meshInject src dir = false := by
  rw [State.meshInject, h, Bool.and_false, Bool.false_and]

/-- No flit crosses a link that is out of service. -/
theorem State.meshFlit_of_linkOut (src : Nat) (ok : Bool) (h : linkOut ≤ Assoc.get s.mesh (pos * 4 + dir) 0) :
    s.meshFlit pos dir src ok = s := by
  rw [State.meshFlit, if_pos h]

/-- A flit that passes its CRC clears its link's count. -/
theorem State.meshFlit_of_crcOk (hin : Assoc.get s.mesh (pos * 4 + dir) 0 < linkOut) (hinj : s.injArmed 8 (dieOfTile src) = false) :
    s.meshFlit pos dir src true = { s with mesh := Assoc.put s.mesh (pos * 4 + dir) 0 0 } := by
  rw [State.meshFlit, if_neg (by omega), State.meshInject_eq_false dir hinj]
  rfl

/-- A flit that fails its CRC counts at its link and its die, with an event. -/
theorem State.meshFlit_of_crcBad (hn : Assoc.get s.mesh (pos * 4 + dir) 0 + 1 < linkOut) (hinj : s.injArmed 8 (dieOfTile src) = false) :
    s.meshFlit pos dir src false =
      let die := dieOfTile src
      let u := (s.count (0x0060400 + 4 * die) 15 0 1).post { kind := 2, det := 0x08, unit := die, ctag := s.dieTag die }
      { u with mesh := Assoc.put s.mesh (pos * 4 + dir) (Assoc.get s.mesh (pos * 4 + dir) 0 + 1) 0 } := by
  rw [State.meshFlit, if_neg (by omega), State.meshInject_eq_false dir hinj]
  simp [Nat.not_le.mpr hn]

/-- The last failure in a row: the link leaves service both ways, with the dies that need it. -/
theorem State.meshFlit_of_last_crcBad (hn : Assoc.get s.mesh (pos * 4 + dir) 0 + 1 = linkOut)
    (hinj : s.injArmed 8 (dieOfTile src) = false) :
    s.meshFlit pos dir src false =
      let die := dieOfTile src
      let u := (s.count (0x0060400 + 4 * die) 15 0 1).post { kind := 2, det := 0x08, unit := die, ctag := s.dieTag die }
      let both := Assoc.put (Assoc.put s.mesh (pos * 4 + dir) linkOut 0) (src * 4 + (dir + 2) % 4) linkOut 0
      (linkDies src pos).foldl (fun v d => v.dieLost d) { u with mesh := both } := by
  rw [State.meshFlit, if_neg (by omega), State.meshInject_eq_false dir hinj]
  simp [hn, State.dropLink]

end Mesh

/-! ### The commands -/

theorem exec_portTraining (p : Fin 8) (lanes : Nat) (s : State) : exec (.portTraining p lanes) s = .next (s.portTrain p lanes) := rfl

theorem exec_hello (p : Fin 8) (s : State) : exec (.hello p) s = .next (s.hello p) := rfl

/-- R328: a lane of a port that is up leaves service: it is counted off, and with too few left the link goes down. -/
theorem exec_laneErrorRetrain_of_up {p : Fin 8} {lane : Nat} {s : State} (hup : s.portUp p = true) (hlane : lane < laneMax p) :
    exec (.laneErrorRetrain p lane) s =
      let n := s.rf (rPort p 0) 6 3
      let u := s.setRf (rPort p 0) 6 3 (n - 1)
      .next (if n ≤ laneMin p then u.linkDown p else u) := by
  show execLaneErrorRetrain p lane s = _
  simp [execLaneErrorRetrain, hup, hlane]

/-- R367: a flit reaches a position from the neighbour that the direction names. -/
theorem exec_meshFlitReceive_of_from {pos : Fin 640} {dir : Fin 4} {src : Nat} (ok : Bool) (s : State)
    (h : meshFrom pos dir = some src) : exec (.meshFlitReceive pos dir ok) s = .next (s.meshFlit pos dir src ok) := by
  show execMeshFlitReceive pos dir ok s = _
  rw [execMeshFlitReceive, h]

end Sys2Proof.Machine
end

section
/-! PROOFS. R19, R328, R338, R367: port training, HELLO, lanes and mesh links. -/

namespace Sys2Proof.Machine

/-- Settles O26: each clause is one equation of State.portTrain, of the lane's command, of State.hello or of State.meshFlit. -/
theorem portsAndMesh : Obligations.PortsAndMesh := by
  unfold Obligations.PortsAndMesh
  refine ⟨fun p lanes s hen hst hpos hmin => ⟨fun hmay => ?_, fun hbar => ?_⟩, fun p lane s hup hlane => ?_,
    fun p s fr x id port ht hb hst => ⟨fun hok => ?_, fun hno => ?_⟩, fun pos dir s src hfrom hinj => ⟨fun hn => ?_, fun hn => ?_,
      fun hn => ?_, fun ok hn => ?_⟩⟩
  · rw [exec_portTraining, State.portTrain_of_enough_lanes hmay hen hst hpos hmin]
  · rw [exec_portTraining, State.portTrain_of_not_mayTrain lanes (State.mayTrain_eq_false hbar)]
  · exact exec_laneErrorRetrain_of_up hup hlane
  · rw [exec_hello, State.hello_of_training ht hb hst]
    simp only [if_pos hok]
  · rw [exec_hello, State.hello_of_training ht hb hst]
    simp only [hno, Bool.false_eq_true, if_false]
  · rw [exec_meshFlitReceive_of_from _ s hfrom, State.meshFlit_of_crcOk (Nat.lt_of_succ_le hn) hinj]
  · rw [exec_meshFlitReceive_of_from _ s hfrom, State.meshFlit_of_crcBad hn hinj]
  · rw [exec_meshFlitReceive_of_from _ s hfrom, State.meshFlit_of_last_crcBad hn hinj]
    rfl
  · rw [exec_meshFlitReceive_of_from ok s hfrom, State.meshFlit_of_linkOut src ok (Nat.le_of_lt_succ hn)]

end Sys2Proof.Machine
end

section
/-! PROOFS. R91 to R116, R120 to R122, R205, R264 to R267: QNT, DQT, ROT and OUTX. -/

namespace Sys2Proof.Machine

/-! ### An effect behind a TWIN comparison (R205)

The operands are read in the state that the visit leaves, and the effect is applied to the state that the comparison leaves:
`eff v u` is the effect on u of what v holds. -/

section Twinned
variable {d : Fin 4} {t : Fin 4096} {op : Nat} {w : IFields} {ups : List Upset} {s : State} {own : List (Option TFault)}
  {rds wrs eaten : List Rng}

/-- An instruction over withRanges whose TWIN comparison agrees in the end. -/
theorem issue_ranges_twinned (body : State → TC → TRes) (eff : State → State → State) (h : s.takes d t op w = true)
    (hc : s.clear (s.tc d t ⟨op, w, ups⟩) own rds wrs eaten = true)
    (hb : body s (s.tc d t ⟨op, w, ups⟩) = withRanges s (s.tc d t ⟨op, w, ups⟩) own rds wrs eaten (fun v =>
      twinned v (s.tc d t ⟨op, w, ups⟩) (fun u => .ok ⟨eff v u, paneOf rds, paneOf wrs, [], .plain, false, none⟩)))
    (ht : ((s.visited (s.tc d t ⟨op, w, ups⟩) rds wrs).twinCheck (s.tc d t ⟨op, w, ups⟩)).2 = true) :
    issue d t op w ups body s =
      (eff (s.visited (s.tc d t ⟨op, w, ups⟩) rds wrs)
        ((s.visited (s.tc d t ⟨op, w, ups⟩) rds wrs).twinCheck (s.tc d t ⟨op, w, ups⟩)).1).started d t
        (paneOf rds) (paneOf wrs) [] .plain :=
  issue_ranges body _ _ [] .plain h hc hb (twinned_agrees _ _ _ ht)

/-- The same over withStored. -/
theorem issue_stored_twinned {ts : List Tens} {recs : List Rng} {more : State → Option TFault} (body : State → TC → TRes)
    (eff : State → State → State) (h : s.takes d t op w = true)
    (hc : s.clearStored (s.tc d t ⟨op, w, ups⟩) own ts recs more rds wrs eaten = true)
    (hb : body s (s.tc d t ⟨op, w, ups⟩) = withStored s (s.tc d t ⟨op, w, ups⟩) own ts recs more rds wrs eaten (fun v =>
      twinned v (s.tc d t ⟨op, w, ups⟩) (fun u => .ok ⟨eff v u, paneOf rds, paneOf wrs, [], .plain, false, none⟩)))
    (ht : ((s.visited (s.tc d t ⟨op, w, ups⟩) rds wrs).twinCheck (s.tc d t ⟨op, w, ups⟩)).2 = true) :
    issue d t op w ups body s =
      (eff (s.visited (s.tc d t ⟨op, w, ups⟩) rds wrs)
        ((s.visited (s.tc d t ⟨op, w, ups⟩) rds wrs).twinCheck (s.tc d t ⟨op, w, ups⟩)).1).started d t
        (paneOf rds) (paneOf wrs) [] .plain :=
  issue_stored body _ _ [] .plain h hc hb (twinned_agrees _ _ _ ht)

end Twinned

/-! ### The courses and the commands -/

/-- R266: ROT takes the settings of the layer entry that its descriptor names. -/
theorem rotBody_of_layer {s : State} {k : TC} {n : Nat} (hn : s.layer k.d k.layLow = some n) :
    rotBody s k = withRanges s k (rotFaults s k) k.unaryRds k.tDst.wrRngs k.unaryRds (fun v =>
      twinned v k (fun u =>
        .ok ⟨u.putWide k k.tDst (v.rotLines k n), paneOf k.unaryRds, paneOf k.tDst.wrRngs, [], .plain, false, none⟩)) := by
  rw [rotBody, hn]
  rfl

/-- R267, R323: OUTX reads no poison in the elements that it adds to. -/
theorem outxBody_of_clean {s : State} {k : TC}
    (hclear : s.clearStored k (outxFaults s k) [] (k.outRecs s) k.outxHeld k.outxRds k.tDst.wrRngs k.outxEats = true)
    (hclean : (s.visited k k.outxRds k.tDst.wrRngs).rngPoison k ((s.visited k k.outxRds k.tDst.wrRngs).outxEls k) = none) :
    outxBody s k = .ok ⟨(s.visited k k.outxRds k.tDst.wrRngs).outxDo k, paneOf k.outxRds, paneOf k.tDst.wrRngs, [], .plain, false,
      none⟩ := by
  rw [outxBody, withStored_clear _ _ _ _ _ _ _ _ _ _ hclear]
  simp only [hclean]

theorem exec_qnt (d : Fin 4) (t : Fin 4096) (w : IFields) (ups : List Upset) (s : State) :
    exec (.qnt d t w ups) s = .next (issue d t 0x18 w ups qntBody s) := rfl

theorem exec_dqt (d : Fin 4) (t : Fin 4096) (w : IFields) (ups : List Upset) (s : State) :
    exec (.dqt d t w ups) s = .next (issue d t 0x19 w ups dqtBody s) := rfl

theorem exec_rot (d : Fin 4) (t : Fin 4096) (w : IFields) (ups : List Upset) (s : State) :
    exec (.rot d t w ups) s = .next (issue d t 0x1A w ups rotBody s) := rfl

theorem exec_outx (d : Fin 4) (t : Fin 4096) (w : IFields) (s : State) :
    exec (.outx d t w) s = .next (issue d t 0x1B w [] outxBody s) := rfl

/-- Settles O10: each instruction's course is withStored or withRanges before its effect. QNT, DQT and ROT come to the effect
through an agreeing TWIN comparison, OUTX through elements without poison. -/
theorem conversionsComplete : Obligations.ConversionsComplete := by
  unfold Obligations.ConversionsComplete
  refine fun d t w ups s => ⟨?qnt, ?dqt, ?rot, ?outx⟩
  case qnt =>
    intro k c u htakes hclear htwin
    rw [exec_qnt, issue_stored_twinned qntBody (fun v x => x.qput k c (v.qconv k c)) htakes hclear rfl htwin]
  case dqt =>
    intro k u htakes hclear htwin
    rw [exec_dqt, issue_stored_twinned dqtBody (fun v x => x.dqtDo k (v.readT k k.tA)) htakes hclear rfl htwin]
  case rot =>
    intro k u htakes hclear htwin n hn
    rw [exec_rot, issue_ranges_twinned rotBody (fun v x => x.putWide k k.tDst (v.rotLines k n)) htakes hclear
      (rotBody_of_layer hn) htwin]
  case outx =>
    intro k u htakes hclear hclean
    have hfree := clearStored_hazard s k _ _ _ _ _ _ _ hclear
    rw [exec_outx, issue_started d t 0x1B w [] outxBody s (u.outxDo k) _ _ [] .plain htakes (outxBody_of_clean hclear hclean) hfree]

end Sys2Proof.Machine
end

section
/-! SUPPORT. What leaves the casements and their logical tiles as they are: checks of memory, grants, events, frames sent (R291, R297,
R300, R305, R334, R417); and what a program keeps when it ends by a fault (R250, R359). -/

namespace Sys2Proof.Machine

/-! ### The same programs -/

/-- t has the casements and the logical tiles of s; all else may differ. -/
structure State.SamePrograms (s t : State) : Prop where
  cas : t.cas = s.cas
  lts : t.lts = s.lts

namespace State.SamePrograms
variable {s t u : State}

theorem refl (s : State) : s.SamePrograms s := ⟨rfl, rfl⟩

theorem trans (h : s.SamePrograms t) (h' : t.SamePrograms u) : s.SamePrograms u :=
  ⟨h'.cas.trans h.cas, h'.lts.trans h.lts⟩

theorem ite {c : Prop} [Decidable c] (ht : s.SamePrograms t) (hu : s.SamePrograms u) : s.SamePrograms (if c then t else u) := by
  split <;> assumption

/-- A further step that is not always made. -/
theorem thenIte (h : s.SamePrograms t) (c : Prop) [Decidable c] (hu : t.SamePrograms u) : s.SamePrograms (if c then t else u) :=
  ite h (h.trans hu)

theorem foldl {α : Type} {f : State → α → State} (hf : ∀ (s : State) a, s.SamePrograms (f s a)) (l : List α) (s : State) :
    s.SamePrograms (l.foldl f s) := by
  induction l generalizing s with
  | nil => exact refl s
  | cons a l ih => exact (hf s a).trans (ih _)

theorem foldPieces {f : State → Nat → List PByte → State} (hf : ∀ (s : State) a bs, s.SamePrograms (f s a bs)) (l : List (Nat × Nat))
    (bs : List PByte) (s : State) : s.SamePrograms (Machine.foldPieces f l bs s) := by
  induction l generalizing s bs with
  | nil => exact refl s
  | cons r l ih => exact (hf s r.1 _).trans (ih _ _)

end State.SamePrograms

theorem State.SameButRings.samePrograms {s t : State} (h : s.SameButRings t) : s.SamePrograms t := by
  obtain ⟨_, _, _, _, _, rfl⟩ := h
  exact ⟨rfl, rfl⟩

theorem State.samePrograms_post (s : State) (e : Ev) : s.SamePrograms (s.post e) := (s.sameButRings_post e).samePrograms

theorem State.samePrograms_setReg (s : State) (k : Nat) (v : Word) : s.SamePrograms (s.setReg k v) := ⟨s.setReg_cas k v, s.setReg_lts k v⟩

theorem State.samePrograms_draw (s : State) : s.SamePrograms s.draw := ⟨s.draw_cas, s.draw_lts⟩

theorem State.samePrograms_memories (s : State) (hbm cdata : Mem) (clines : List (Nat × Nat)) (cdirty : List Nat) :
    s.SamePrograms { s with hbm := hbm, cdata := cdata, clines := clines, cdirty := cdirty } := ⟨rfl, rfl⟩

theorem State.samePrograms_refuse (s : State) : s.SamePrograms s.refuse :=
  (s.samePrograms_setReg _ _).trans (State.samePrograms_draw _)

theorem State.samePrograms_injFire (s : State) : s.SamePrograms s.injFire :=
  ((s.samePrograms_setReg _ _).trans (State.samePrograms_setReg _ _ _)).trans (State.samePrograms_setReg _ _ _)

/-! ### HBM chunks (R290 to R292) -/

theorem State.samePrograms_hbmVisit (s : State) (k : Nat) : s.SamePrograms (s.hbmVisit k) := by
  unfold State.hbmVisit
  obtain ⟨m, r, lane, inj⟩ := s.hbm.rsVisit k
  have hmem : s.SamePrograms { s with hbm := m } := s.samePrograms_memories _ _ _ _
  simp only
  refine .ite hmem (.trans (.ite (.trans ?_ (State.samePrograms_setReg _ _ _)) ?_) (State.samePrograms_post _ _))
  all_goals
    exact (hmem.trans (.ite (State.samePrograms_setReg _ _ _) (State.samePrograms_setReg _ _ _))).trans (State.samePrograms_setReg _ _ _)

theorem State.samePrograms_hbmTouch (s : State) (key n : Nat) : s.SamePrograms (s.hbmTouch key n) := by
  unfold State.hbmTouch
  exact .ite (.refl s) (.ite s.samePrograms_refuse (.foldl State.samePrograms_hbmVisit _ s))

theorem State.samePrograms_hbmInject (s : State) (key n : Nat) : s.SamePrograms (s.hbmInject key n) := by
  unfold State.hbmInject
  simp only
  exact .ite ((s.samePrograms_memories _ _ _ _).trans (State.samePrograms_injFire _)) (.refl s)

theorem State.samePrograms_hbmPut (s : State) (key : Nat) (bs : List PByte) : s.SamePrograms (s.hbmPut key bs) := by
  unfold State.hbmPut
  simp only
  have hchecked := ((State.SamePrograms.refl s).thenIte (key % 32 = 0) (s.samePrograms_hbmTouch key 1)).thenIte
    ((key + bs.length) % 32 = 0 ∨ (key % 32 ≠ 0 ∧ key / 32 = (key + bs.length - 1) / 32))
    (State.samePrograms_hbmTouch _ (key + bs.length - 1) 1)
  exact .ite (.refl s) (.ite s.samePrograms_refuse
    ((hchecked.trans (State.samePrograms_memories _ _ _ _ _)).trans (State.samePrograms_hbmInject _ _ _)))

/-! ### Cached lines and grants (R297, R300, R305) -/

theorem State.samePrograms_trnCount (s : State) (sl r : Nat) (inj : Bool) : s.SamePrograms (s.trnCount sl r inj) := by
  unfold State.trnCount
  simp only
  exact .ite (.refl s) (.trans (.ite (s.samePrograms_setReg _ _) (s.samePrograms_setReg _ _)) (State.samePrograms_post _ _))

theorem State.samePrograms_lineTouch (s : State) (sl key n : Nat) : s.SamePrograms (s.lineTouch sl key n) := by
  unfold State.lineTouch
  refine .ite (.refl s) (.foldl (fun u k => ?_) _ s)
  obtain ⟨m, r, inj⟩ := u.cdata.secded k
  exact (u.samePrograms_memories _ _ _ _).trans (State.samePrograms_trnCount _ sl r inj)

theorem State.samePrograms_lineDrop (s : State) (l : Nat) : s.SamePrograms (s.lineDrop l) := by
  unfold State.lineDrop
  exact s.samePrograms_memories _ _ _ _

theorem State.samePrograms_lineBack (s : State) (sl l : Nat) : s.SamePrograms (s.lineBack sl l) := by
  unfold State.lineBack
  simp only
  exact .ite (((s.samePrograms_lineTouch _ _ _).trans (State.samePrograms_hbmPut _ _ _)).trans (State.samePrograms_lineDrop _ l))
    (s.samePrograms_lineDrop l)

theorem State.samePrograms_lineRoom (s : State) (sl l : Nat) : s.SamePrograms (s.lineRoom sl l) := by
  unfold State.lineRoom
  simp only
  exact .ite (.refl s) (.ite (.refl s) ((s.samePrograms_lineBack sl _).trans (State.samePrograms_draw _)))

theorem State.samePrograms_lineAlloc (s : State) (sl l : Nat) : s.SamePrograms (s.lineAlloc sl l) := by
  unfold State.lineAlloc
  simp only
  exact .ite (.refl s) ((s.samePrograms_lineRoom sl l).trans (State.samePrograms_memories _ _ _ _ _))

theorem State.samePrograms_lineFill (s : State) (sl l : Nat) : s.SamePrograms (s.lineFill sl l) := by
  unfold State.lineFill
  simp only
  exact .ite (.refl s) (((s.samePrograms_lineAlloc sl l).trans (State.samePrograms_hbmTouch _ _ _)).trans
    (State.samePrograms_memories _ _ _ _ _))

theorem State.samePrograms_lineReadTouch (s : State) (sl key n : Nat) : s.SamePrograms (s.lineReadTouch sl key n) := by
  unfold State.lineReadTouch
  exact .ite s.samePrograms_refuse (.ite (s.samePrograms_lineTouch sl key n) (.ite (s.samePrograms_hbmTouch key n)
    ((s.samePrograms_lineFill sl _).trans (State.samePrograms_lineTouch _ sl key n))))

theorem State.samePrograms_lineInject (s : State) (sl key n : Nat) : s.SamePrograms (s.lineInject sl key n) := by
  unfold State.lineInject
  simp only
  exact .ite ((s.samePrograms_memories _ _ _ _).trans (State.samePrograms_injFire _)) (.refl s)

theorem State.samePrograms_lineWrite (s : State) (sl key : Nat) (bs : List PByte) : s.SamePrograms (s.lineWrite sl key bs) := by
  unfold State.lineWrite
  simp only
  have hheld : s.SamePrograms (if key % 128 = 0 ∧ bs.length = 128 then s.lineAlloc sl (lineOf key) else s.lineFill sl (lineOf key)) :=
    .ite (s.samePrograms_lineAlloc sl _) (s.samePrograms_lineFill sl _)
  have hchecked := (hheld.thenIte (key % 8 = 0) (State.samePrograms_lineTouch _ sl key 1)).thenIte
    ((key + bs.length) % 8 = 0 ∨ (key % 8 ≠ 0 ∧ key / 8 = (key + bs.length - 1) / 8))
    (State.samePrograms_lineTouch _ sl (key + bs.length - 1) 1)
  exact .ite s.samePrograms_refuse (.ite (s.samePrograms_hbmPut key bs)
    ((hchecked.trans (State.samePrograms_memories _ _ _ _ _)).trans (State.samePrograms_lineInject _ _ _ _)))

theorem State.samePrograms_sliceGrant (s : State) (sl : Nat) (k : TKind) : s.SamePrograms (s.sliceGrant sl k) := by
  unfold State.sliceGrant State.unitGrant
  exact .ite (.refl s) ⟨rfl, rfl⟩

/-! ### Casement physical space and page tables (R301, R310) -/

theorem State.samePrograms_paTouch (s : State) (d x n : Nat) (k : TKind) : s.SamePrograms (s.paTouch d x n k) := by
  unfold State.paTouch
  exact .foldl (fun u _ => (u.samePrograms_sliceGrant _ k).trans (State.samePrograms_lineReadTouch _ _ _ _)) _ s

theorem State.samePrograms_paWrite (s : State) (d x : Nat) (bs : List PByte) (k : TKind) : s.SamePrograms (s.paWrite d x bs k) := by
  unfold State.paWrite
  exact .foldPieces (fun u _ _ => (u.samePrograms_sliceGrant _ k).trans (State.samePrograms_lineWrite _ _ _ _)) _ bs s

theorem State.samePrograms_putEntry (s : State) (d x e : Nat) : s.SamePrograms (s.putEntry d x e) := by
  unfold State.putEntry
  exact s.samePrograms_paWrite d x _ _

theorem State.samePrograms_paStale (s : State) (d x n : Nat) : s.SamePrograms (s.paStale d x n) := by
  unfold State.paStale
  exact (s.samePrograms_memories _ _ _ _).trans (State.samePrograms_draw _)

/-- Every use of f, for a casement d, has R d between the state before and the state after. -/
def State.Always (R : Nat → State → State → Prop) (f : State → Nat → Nat → State) : Prop := ∀ s d x, R d s (f s d x)

theorem State.Always.of_forall {R : Nat → State → State → Prop} {f : State → Nat → Nat → State} (h : ∀ s d x, R d s (f s d x)) :
    State.Always R f := h

/-- R310: the checks of a walk. The function is unfolded before it is applied, so that the kernel compares the definition's text with
itself: with its arguments in place it would run the walk to compare the results. -/
theorem State.always_walkTouch : State.Always (fun _ => State.SamePrograms) State.walkTouch := by
  delta State.walkTouch
  refine .of_forall fun s d va => ?_
  extract_lets root top
  have htop : s.SamePrograms top := s.samePrograms_paTouch _ _ _ _
  split
  · extract_lets entry mid
    have hmid : s.SamePrograms mid := htop.trans (State.samePrograms_paTouch _ _ _ _ _)
    split
    · exact hmid.trans (State.samePrograms_paTouch _ _ _ _ _)
    · exact hmid
  · exact htop

theorem State.samePrograms_walkTouch (s : State) (d va : Nat) : s.SamePrograms (s.walkTouch d va) := State.always_walkTouch s d va

/-! ### Frames sent (R329, R334, R342) -/

theorem State.samePrograms_setPort (s : State) (p : Nat) (x : Port) : s.SamePrograms (s.setPort p x) := ⟨s.setPort_cas p x, s.setPort_lts p x⟩

theorem State.samePrograms_emit (s : State) (o : Out) : s.SamePrograms (s.emit o) := ⟨s.emit_cas o, s.emit_lts o⟩

theorem State.samePrograms_sendNow (s : State) (p : Nat) (x : Port) (fr : Frame) : s.SamePrograms (s.sendNow p x fr) := by
  unfold State.sendNow
  simp only
  exact .trans (.trans (.ite s.samePrograms_injFire (.refl s)) (State.samePrograms_setPort _ _ _)) (State.samePrograms_emit _ _)

theorem State.samePrograms_pumpTx (s : State) (p n : Nat) : s.SamePrograms (s.pumpTx p n) := by
  induction n generalizing s with
  | zero => exact .refl s
  | succ n ih =>
    rw [State.pumpTx]
    refine .ite (.refl s) ?_
    split
    · exact (s.samePrograms_sendNow p _ _).trans (ih _)
    · exact .refl s

theorem State.samePrograms_sendTo (s : State) (dest ctag psn : Nat) (b : FBody) : s.SamePrograms (s.sendTo dest ctag psn b).1 := by
  unfold State.sendTo State.tx
  simp only
  split
  · exact (s.samePrograms_setPort _ _).trans (State.samePrograms_pumpTx _ _ _)
  · exact .refl s

/-! ### The logical tiles of a casement, each changed -/

theorem State.casement_mapIdxLts (s : State) (d e : Nat) (f : Nat → LTile → LTile) :
    (s.mapIdxLts d f).casement e = s.casement e := by
  have h : ∀ (l : List Nat) (u : State), (l.foldl (fun u t => u.setLt d t (f t (u.lt d t))) u).casement e = u.casement e := by
    intro l
    induction l with
    | nil => exact fun _ => rfl
    | cons t l ih => exact fun u => ih _
  exact h _ s

theorem State.lt_mapIdxLts (s : State) (d i : Nat) (f : Nat → LTile → LTile) :
    (s.mapIdxLts d f).lt d i = if i < (s.casement d).nlt then f i (s.lt d i) else s.lt d i := by
  have h : ∀ n, ((List.range n).foldl (fun u t => u.setLt d t (f t (u.lt d t))) s).lt d i = if i < n then f i (s.lt d i) else s.lt d i := by
    intro n
    induction n with
    | zero => rfl
    | succ n ih =>
      rw [List.range_succ, List.foldl_append, List.foldl_cons, List.foldl_nil]
      by_cases hi : i = n
      · subst hi
        rw [State.lt_setLt_self, ih, if_neg (Nat.lt_irrefl i), if_pos (Nat.lt_succ_self i)]
      · rw [State.lt_setLt_ne _ _ (by unfold ltKey; omega), ih]
        by_cases hlt : i < n
        · rw [if_pos hlt, if_pos (Nat.lt_succ_of_lt hlt)]
        · rw [if_neg hlt, if_neg (by omega)]
  exact h _

/-! ### The same count of steps -/

/-- Casement d has as many logical tiles in t as in s, as many STEPs stand, and they are the same tiles' (R138, R281). -/
structure State.SameSteps (d : Nat) (s t : State) : Prop where
  nlt : (t.casement d).nlt = (s.casement d).nlt
  steps : (t.casement d).steps = (s.casement d).steps
  stepOpen : ∀ i, (t.lt d i).stepOpen = (s.lt d i).stepOpen

namespace State.SameSteps
variable {d : Nat} {s t u : State}

theorem refl (d : Nat) (s : State) : s.SameSteps d s := ⟨rfl, rfl, fun _ => rfl⟩

theorem trans (h : State.SameSteps d s t) (h' : State.SameSteps d t u) : State.SameSteps d s u :=
  ⟨h'.nlt.trans h.nlt, h'.steps.trans h.steps, fun i => (h'.stepOpen i).trans (h.stepOpen i)⟩

theorem foldl {α : Type} {f : State → α → State} (hf : ∀ s a, State.SameSteps d s (f s a)) (l : List α) (s : State) :
    State.SameSteps d s (l.foldl f s) := by
  induction l generalizing s with
  | nil => exact refl d s
  | cons a l ih => exact (hf s a).trans (ih _)

end State.SameSteps

theorem State.SamePrograms.sameSteps {s t : State} (h : s.SamePrograms t) (d : Nat) : State.SameSteps d s t := by
  have hc : t.casement d = s.casement d := by rw [State.casement, h.cas, State.casement]
  exact ⟨by rw [hc], by rw [hc], fun i => by rw [State.lt, h.lts, State.lt]⟩

theorem State.sameSteps_setCas (s : State) (d : Nat) {c : Cas} (hn : c.nlt = (s.casement d).nlt) (hs : c.steps = (s.casement d).steps) :
    State.SameSteps d s (s.setCas d c) :=
  ⟨by rw [State.casement_setCas_self, hn], by rw [State.casement_setCas_self, hs], fun _ => rfl⟩

theorem State.sameSteps_mapIdxLts (s : State) (d : Nat) {f : Nat → LTile → LTile} (hf : ∀ i x, (f i x).stepOpen = x.stepOpen) :
    State.SameSteps d s (s.mapIdxLts d f) :=
  ⟨by rw [State.casement_mapIdxLts], by rw [State.casement_mapIdxLts], fun i => by
    rw [State.lt_mapIdxLts]
    split
    · exact hf i _
    · rfl⟩

/-! ### A program's end, HOLD and a fault (R250, R359, R360) -/

theorem LTile.stepOpen_stop (x : LTile) : x.stop.stepOpen = x.stepOpen := by unfold LTile.stop; split <;> rfl

theorem LTile.stepOpen_holdStop (f : Fab) (t : Nat) (x : LTile) : (x.holdStop f t).stepOpen = x.stepOpen := by
  unfold LTile.holdStop; split <;> rfl

theorem State.sameSteps_endBy (s : State) (d n : Nat) {f : Nat → LTile → LTile} (hf : ∀ i x, (f i x).stepOpen = x.stepOpen) :
    State.SameSteps d s (s.endBy f d n) := by
  have hstop : State.SameSteps d s ((s.mapIdxLts d f).setCas d { s.casement d with phase := .stopped, quiesce := false, start := none }) :=
    (s.sameSteps_mapIdxLts d hf).trans
      (State.sameSteps_setCas _ d (by rw [State.casement_mapIdxLts]) (by rw [State.casement_mapIdxLts]))
  unfold State.endBy
  simp only
  split
  · split
    · exact hstop.trans (State.SamePrograms.sameSteps ⟨State.setFn_cas _ _ _, State.setFn_lts _ _ _⟩ d)
    · exact hstop
  · exact .refl d s

theorem State.sameSteps_enterHold (s : State) (d cause n : Nat) : State.SameSteps d s (s.enterHold d cause n) := by
  unfold State.enterHold
  simp only
  split
  · refine .trans (State.SamePrograms.sameSteps ?_ d) (State.sameSteps_endBy _ d _ fun i x => LTile.stepOpen_holdStop _ i x)
    refine .trans (.trans ?_ (.foldl (fun u m => u.samePrograms_sendTo m _ _ _) _ _)) (State.samePrograms_post _ _)
    exact ((s.samePrograms_setReg _ _).trans (State.samePrograms_setReg _ _ _)).trans ⟨State.setFab_cas _ _ _, State.setFab_lts _ _ _⟩
  · exact .refl d s

/-- R250: a fault of a tile changes neither the number of STEPs that stand nor whose they are. -/
theorem State.sameSteps_raiseFault (s : State) (d t : Nat) (f : TFault) (iaddr iword : Nat) :
    State.SameSteps d s (s.raiseFault d t f iaddr iword) := by
  unfold State.raiseFault State.endProgram
  simp only
  exact (((s.samePrograms_post _).sameSteps d).trans (State.sameSteps_endBy _ d _ fun _ x => x.stepOpen_stop)).trans
    (State.sameSteps_enterHold _ d 5 0)

end Sys2Proof.Machine
end

section
/-! PROOFS. R138, R281: the numeric commit and the ladder. -/

namespace Sys2Proof.Machine

/-! ### The parts of a commit -/

theorem State.samePrograms_unstage (s : State) (k : Nat) : s.SamePrograms (s.unstage k) := by
  unfold State.unstage
  split
  · exact ⟨s.setReg_cas k (s.merged k), s.setReg_lts k (s.merged k)⟩
  · exact .refl s

theorem State.samePrograms_commitStaged (s : State) (n : Nat) : s.SamePrograms (s.commitStaged n) := by
  unfold State.commitStaged
  exact .foldl State.samePrograms_unstage _ s

theorem State.samePrograms_publishMean (s : State) (k num den : Nat) : s.SamePrograms (s.publishMean k num den) := by
  unfold State.publishMean
  exact .ite ((s.samePrograms_setReg _ _).trans (State.samePrograms_draw _)) (s.samePrograms_setReg _ _)

theorem State.samePrograms_setLay (s : State) (n : Nat) (x : Lay) : s.SamePrograms (s.setLay n x) := ⟨s.setLay_cas n x, s.setLay_lts n x⟩

theorem State.samePrograms_commitLadder (s : State) (d n : Nat) : s.SamePrograms (s.commitLadder d n) := by
  unfold State.commitLadder
  simp only
  have hregs := fun a b c => ((s.samePrograms_setReg (rLay n 0) a).trans (State.samePrograms_setReg _ (rLay n 0xC) b)).trans
    (State.samePrograms_setReg _ (rLay n 0x10) c)
  exact .ite (.refl s) (((((hregs _ _ _).trans (State.samePrograms_publishMean _ _ _ _)).trans
    (State.samePrograms_publishMean _ _ _ _)).trans (State.samePrograms_publishMean _ _ _ _)).trans (State.samePrograms_setLay _ _ _))

theorem State.samePrograms_commitUpdate (s : State) (d n : Nat) : s.SamePrograms (s.commitUpdate d n) := by
  unfold State.commitUpdate
  simp only
  exact (((s.samePrograms_setReg _ _).trans (State.samePrograms_setReg _ _ _)).trans (State.samePrograms_setReg _ _ _)).trans
    (State.samePrograms_setReg _ _ _)

theorem State.samePrograms_commitClear (s : State) (n : Nat) : s.SamePrograms (s.commitClear n) := by
  unfold State.commitClear
  exact s.samePrograms_setLay _ _

/-- R138, R142: one layer's part of a commit. -/
theorem State.samePrograms_commitLayer (s : State) (d n : Nat) :
    s.SamePrograms (((s.commitLadder d n).commitUpdate d n).commitClear n) :=
  ((s.samePrograms_commitLadder d n).trans (State.samePrograms_commitUpdate _ d n)).trans (State.samePrograms_commitClear _ n)

theorem Cas.nlt_give (c : Cas) (l : List Nat) (h : Nat) : ({ c with orefs := l }.give h).nlt = c.nlt := by
  unfold Cas.give; split <;> rfl

theorem Cas.steps_give (c : Cas) (l : List Nat) (h : Nat) : ({ c with orefs := l }.give h).steps = c.steps := by
  unfold Cas.give; split <;> rfl

/-- R319: a STEPS page's part of the commit. As with State.always_walkTouch, the function is unfolded before it is applied. -/
theorem State.always_stepsPage : State.Always State.SameSteps State.stepsPage := by
  delta State.stepsPage
  refine .of_forall fun s d v => ?_
  extract_lets +onlyGivenNames u
  have hu : State.SameSteps d s u := (s.samePrograms_walkTouch d (v * frameBytes)).sameSteps d
  refine hu.trans ?_
  clear_value u
  split
  · split
    · exact .refl d u
    · split
      · exact (u.samePrograms_paStale d _ _).sameSteps d
      · split
        · exact .refl d u
        · exact (u.sameSteps_setCas d (Cas.nlt_give (u.casement d) _ _) (Cas.steps_give (u.casement d) _ _)).trans
            ((State.samePrograms_putEntry _ d _ _).sameSteps d)
  · exact .refl d u

theorem State.sameSteps_stepsPage (s : State) (d v : Nat) : State.SameSteps d s (s.stepsPage d v) := State.always_stepsPage s d v

/-- No STEP stands for casement d, and none of its tiles 0 to n - 1 waits at one. -/
def State.NoStepOpen (d n : Nat) (s : State) : Prop := (s.casement d).steps = 0 ∧ ∀ i, i < n → (s.lt d i).stepOpen = false

theorem State.SameSteps.noStepOpen {d n : Nat} {s t : State} (h : State.SameSteps d s t) (hs : State.NoStepOpen d n s) :
    State.NoStepOpen d n t :=
  ⟨h.steps.trans hs.1, fun i hi => (h.stepOpen i).trans (hs.2 i hi)⟩

/-- R281: the casement's count starts again and its tiles' STEPs are answered; the trace of its pages starts again (R319). -/
theorem State.noStepOpen_answered (s : State) (d : Nat) (trace recent outs : List Nat) (traceOn : Bool) (ptr : Nat) :
    State.NoStepOpen d (s.casement d).nlt ((s.setCas d { s.casement d with
      steps := 0, trace := trace, recent := recent, traceOn := traceOn, ptr := ptr, outs := outs }).mapLts d LTile.committed) := by
  refine ⟨?_, fun i hi => ?_⟩
  · rw [State.mapLts, State.casement_mapIdxLts, State.casement_setCas_self]
  · rw [State.mapLts, State.lt_mapIdxLts, State.casement_setCas_self, if_pos hi]
    rfl

/-- R138, R281: after a commit no STEP stands, and every tile's is answered. -/
theorem State.noStepOpen_commit (s : State) (d : Nat) : State.NoStepOpen d (s.casement d).nlt (s.commit d) := by
  unfold State.commit
  extract_lets s1 ls s2 s3 s4 s5 c s6
  have hregs : s.SamePrograms s1 := .foldl State.samePrograms_unstage _ s
  have hstaged : s1.SamePrograms s2 := .foldl State.samePrograms_commitStaged ls s1
  have hlayers : s2.SamePrograms s3 := .foldl (fun u n => u.samePrograms_commitLayer d n) ls s2
  have hcount : s3.SamePrograms s4 := s3.samePrograms_setReg _ _
  have hpages : State.SameSteps d s4 s5 := by
    refine .foldl ?_ (s4.casement d).stepPages s4
    exact fun u v => u.sameSteps_stepsPage d v
  have hbefore : State.SameSteps d s s5 := ((((hregs.trans hstaged).trans hlayers).trans hcount).sameSteps d).trans hpages
  have hclosed : State.NoStepOpen d (s5.casement d).nlt s6 := s5.noStepOpen_answered d _ _ _ _ _
  rw [hbefore.nlt] at hclosed
  split
  · exact State.SameSteps.noStepOpen (s6.sameSteps_raiseFault d 0 _ 0 0) hclosed
  · exact hclosed

theorem exec_numCommit (d : Fin 4) (s : State) :
    exec (.numCommit d) s = .next (if s.commitReady d && !s.blkDown clsBlock 7 then (s.commit d).pumpAll d else s) := rfl

/-! ### The ladder -/

/-- R138: the new level is the level asked for, brought between FLOOR and CEIL; SET_EN asks for SET_LEVEL, and the sums ask for a rung
up, a rung down or the level in force. -/
theorem ladderDecide_level (cfg thr : Word) (auto : Bool) (last : Nat) (l : Lay) :
    ∃ v, (ladderDecide cfg thr auto last l).level = max (min 5 (rfld cfg 5 3)) (min (min 5 (rfld cfg 8 6)) (min v 5)) ∧
      (if rfld cfg 13 13 = 1 then v = rfld cfg 12 10 else v ≤ rfld cfg 2 0 + 1 ∧ rfld cfg 2 0 ≤ v + 1) := by
  unfold ladderDecide
  refine ⟨_, rfl, ?_⟩
  split
  case isTrue => rfl
  case isFalse =>
    split
    case isTrue => dsimp only; omega
    case isFalse =>
      split
      case isTrue => dsimp only; omega
      case isFalse =>
        split
        case isTrue => dsimp only; split <;> (dsimp only; omega)
        case isFalse => dsimp only; omega

/-- Settles O18: what a commit does before it answers the STEPs, and the fault that a poisoned entry raises after it, leave the count
of steps and the tiles' STEPs as they are; a fenced NUM block commits nothing (log 51). The ladder's level is a level asked for, brought
between FLOOR and CEIL. -/
theorem commitAndLadder : Obligations.CommitAndLadder := by
  unfold Obligations.CommitAndLadder
  refine ⟨fun d s => ⟨fun hready hup => ⟨?_, s.noStepOpen_commit d⟩, fun hnot => ?_⟩, fun cfg thr auto last l => ?_⟩
  · rw [exec_numCommit, hready, clsBlock, hup]
    rfl
  · rw [exec_numCommit, clsBlock]
    rcases hnot with hready | hdown
    · rw [hready]; rfl
    · rw [hdown, Bool.not_true, Bool.and_false]; rfl
  · intro floor ceil lev r hfc hc
    obtain ⟨v, hlevel, hasked⟩ := ladderDecide_level cfg thr auto last l
    have hr : r.level = max floor (min ceil v) := hlevel.trans (by omega)
    refine ⟨⟨by omega, by omega⟩, fun hset hfl hlc => ?_, fun hset hfl hlc => ?_⟩
    · rw [if_neg (by omega)] at hasked
      omega
    · rw [if_pos hset] at hasked
      omega

end Sys2Proof.Machine
end

section
/-! PROOFS. R158 to R165, R205, R268 to R273: RNG, SMP, EWO and RED. -/

namespace Sys2Proof.Machine

/-! ### The courses by form -/

/-- R269: the forms of SMP that sample. -/
theorem smpBody_of_sampling {s : State} {k : TC} (h : k.w.fmt ≠ 2#4) :
    smpBody s k = withRanges s k (smpFaults s k) k.tA.lineAll [k.smpOut] k.tA.lineAll (fun v =>
      .ok ⟨v.smpDo k, paneOf k.tA.lineAll, paneOf [k.smpOut], [], .plain, false, none⟩) :=
  if_neg (fun hf => h (BitVec.eq_of_toNat_eq hf))

/-- R269: the form MERGE of SMP. -/
theorem smpBody_of_merge {s : State} {k : TC} (h : k.w.fmt = 2#4) :
    smpBody s k = withRanges s k [smpAlign k] [k.pairsDst, k.pairsA] [k.pairsDst] [k.pairsDst, k.pairsA] (fun v =>
      .ok ⟨v.mergeDo k, paneOf [k.pairsDst, k.pairsA], paneOf [k.pairsDst], [], .plain, false, none⟩) :=
  if_pos (congrArg BitVec.toNat h)

/-- R272: the forms of RED over lines. -/
theorem redBody_of_lines {s : State} {k : TC} (h : k.w.fmt ≠ 8#4) :
    redBody s k = withRanges s k (redFaults s k) k.unaryRds k.tDst.wrRngs k.unaryRds (fun v => twinned v k (fun u =>
      .ok ⟨u.putWide k k.tDst (v.redResult k), paneOf k.unaryRds, paneOf k.tDst.wrRngs, [], .plain, false, none⟩)) :=
  if_neg (fun hf => h (BitVec.eq_of_toNat_eq hf))

/-- R273: the tree form of RED. -/
theorem redBody_of_tree {s : State} {k : TC} (h : k.w.fmt = 8#4) :
    redBody s k = withRanges s k (treeFaults s k) k.treeRds k.treeWrs k.treeRds (fun v =>
      .ok ⟨v.stallWith k (.red (v.treeOp k)), paneOf k.treeRds, paneOf k.treeWrs, [], .red (v.treeOp k), false, none⟩) :=
  if_pos (congrArg BitVec.toNat h)

/-! ### The commands -/

theorem exec_rng (d : Fin 4) (t : Fin 4096) (w : IFields) (s : State) :
    exec (.rng d t w) s = .next (issue d t 0x20 w [] rngBody s) := rfl

theorem exec_smp (d : Fin 4) (t : Fin 4096) (w : IFields) (s : State) :
    exec (.smp d t w) s = .next (issue d t 0x21 w [] smpBody s) := rfl

theorem exec_ewo (d : Fin 4) (t : Fin 4096) (w : IFields) (ups : List Upset) (s : State) :
    exec (.ewo d t w ups) s = .next (issue d t 0x28 w ups ewoBody s) := rfl

theorem exec_red (d : Fin 4) (t : Fin 4096) (w : IFields) (ups : List Upset) (s : State) :
    exec (.red d t w ups) s = .next (issue d t 0x29 w ups redBody s) := rfl

/-- Settles O11: each instruction's course is withRanges before its effect. EWO and the line forms of RED come to the effect through
an agreeing TWIN comparison; the tree form of RED joins the incomplete instructions with its partial as their kind. -/
theorem vectorComplete : Obligations.VectorComplete := by
  unfold Obligations.VectorComplete
  refine fun d t w ups s => ⟨?rng, ?smp, ?ewo, ?red⟩
  case rng =>
    intro k htakes hclear
    rw [exec_rng, issue_ranges rngBody _ _ [] .plain htakes hclear rfl rfl]
  case smp =>
    intro k htakes
    refine ⟨fun hfmt hclear => ?sample, fun hfmt hclear => ?merge⟩
    case sample => rw [exec_smp, issue_ranges smpBody _ _ [] .plain htakes hclear (smpBody_of_sampling hfmt) rfl]
    case merge => rw [exec_smp, issue_ranges smpBody _ _ [] .plain htakes hclear (smpBody_of_merge hfmt) rfl]
  case ewo =>
    intro k u htakes hclear htwin
    rw [exec_ewo, issue_ranges_twinned ewoBody (fun v x => x.putWide k k.tDst (v.ewoLines k)) htakes hclear rfl htwin]
  case red =>
    intro k htakes
    refine ⟨?lines, ?tree⟩
    case lines =>
      intro hfmt hclear u htwin
      rw [exec_red, issue_ranges_twinned redBody (fun v x => x.putWide k k.tDst (v.redResult k)) htakes hclear
        (redBody_of_lines hfmt) htwin]
    case tree =>
      intro hfmt hclear u
      rw [exec_red, issue_ranges redBody _ _ [] _ htakes hclear (redBody_of_tree hfmt) rfl]

end Sys2Proof.Machine
end

section
/-! SUPPORT. Hardened registers with rules of their own: the rule and the refusal of keys, of SPW and of the injection control (R152,
R298, R304, R370), and an unlocked write of each. -/

namespace Sys2Proof.Machine

theorem within_eq_true {o a n : Nat} : within o a n = true ↔ a ≤ o ∧ o < a + n := decide_eq_true_iff

theorem within_eq_false {o a n : Nat} (h : o < a ∨ a + n ≤ o) : within o a n = false := decide_eq_false (by omega)

theorem bit_toNat (v : BitVec 32) (n : Nat) : bit v.toNat n = v.getLsbD n := by rw [bit_eq, BitVec.testBit_toNat]

/-! ### The registers' rules -/

/-- R152: a write of a key register follows the keys' rule. -/
theorem State.wrAt_of_key (s : State) (rq : Req) {off : Nat} (v n : Nat) (u : During) (h : within off 0x0070400 0x20 = true) :
    s.wrAt rq off v n u = s.keyWr off v := by
  obtain ⟨hlo, hhi⟩ := within_eq_true.mp h
  simp (disch := omega) only [State.wrAt, isRstBit, within_eq_false, h, if_neg, Bool.false_and, Bool.false_eq_true, if_false, if_true]

/-- R298, R304: a write of a casement's SPW follows the rule of the ways. -/
theorem State.wrAt_of_spw (s : State) (rq : Req) {off : Nat} (v n : Nat) (u : During) (h : within off 0x0180000 0x10 = true) :
    s.wrAt rq off v n u = s.spwWr off v := by
  obtain ⟨hlo, hhi⟩ := within_eq_true.mp h
  simp (disch := omega) only [State.wrAt, isRstBit, within_eq_false, h, if_neg, Bool.false_and, Bool.false_eq_true, if_false, if_true]

/-- R370: ARM written to the injection control arms the injection. -/
theorem State.wrAt_injCtl (s : State) (rq : Req) (v n : Nat) (u : During) :
    s.wrAt rq 0x0060100 v n u = if bit v 8 then (s.wrGen 0x0060100 v true).setRf 0x006010C 0 0 1 else s.wrGen 0x0060100 v true := by
  simp (disch := omega) only [State.wrAt, isRstBit, within_eq_false, if_neg, Bool.false_and, Bool.false_eq_true, if_false, if_true]

/-- R152: a key is in force at once when the casement is quiet. -/
theorem State.keyWr_of_quiet {s : State} {off : Nat} (v : Word) (h : s.casQuiet ((off - 0x0070400) / 8) = true) :
    s.keyWr off v.toNat = { s.setReg off v with staged := Assoc.put s.staged off none none } := by
  rw [State.keyWr, if_pos h, BitVec.ofNat_toNat, BitVec.setWidth_eq]

/-- R152: a key waits for the next commit while an instruction of the casement is incomplete. -/
theorem State.keyWr_of_busy {s : State} {off : Nat} (v : Word) (h : s.casQuiet ((off - 0x0070400) / 8) = false) :
    s.keyWr off v.toNat = s.stage off v := by
  rw [State.keyWr, h, if_neg Bool.false_ne_true, BitVec.ofNat_toNat, BitVec.setWidth_eq]

/-- R298: ways that keep their use keep their lines. -/
theorem State.spwWr_of_same {s : State} {off v : Nat} (h : min 16 (fld v 4 0) = min 16 (s.rf off 4 0)) :
    s.spwWr off v = s.wrGen off v true := if_pos h

/-- Log 14: ways that change their use lose their lines first. -/
theorem State.spwWr_of_change {s : State} {off v : Nat} (h : ¬ min 16 (fld v 4 0) = min 16 (s.rf off 4 0)) :
    s.spwWr off v = (s.flushSlices ((off - 0x0180000) / 4)).wrGen off v true := if_neg h

/-! ### Refusals -/

/-- No rule refuses a write of a key. -/
theorem State.refuses_key (s : State) {off : Nat} (v : Nat) (h : within off 0x0070400 0x20 = true) : s.refuses off v = false := by
  obtain ⟨hlo, hhi⟩ := within_eq_true.mp h
  simp (disch := omega) only [State.refuses, isEntry, within_eq_false, if_neg, decide_eq_true_eq, Bool.false_eq_true,
    if_false]

/-- R304: SPW is refused while a program is loaded. -/
theorem State.refuses_spw (s : State) {off : Nat} (v : Nat) (h : within off 0x0180000 0x10 = true) :
    s.refuses off v = ((s.casement ((off - 0x0180000) / 4)).phase != .idle) := by
  rw [State.refuses, if_pos h]

/-- R370: ARM is refused while an injection is armed. -/
theorem State.refuses_injCtl (s : State) (v : Nat) : s.refuses 0x0060100 v = (bit v 8 && s.rf 0x006010C 0 0 == 1) := rfl

/-! ### What a write that takes its turn leaves as it was -/

@[simp] theorem State.placed_rf (s : State) (rq : Req) (off k hi lo : Nat) : (s.placed rq off).rf k hi lo = s.rf k hi lo := by
  rw [State.rf, State.placed_reg, State.rf]

@[simp] theorem State.placed_casement (s : State) (rq : Req) (off d : Nat) : (s.placed rq off).casement d = s.casement d := by
  obtain ⟨l, h⟩ := s.placed_eq_grant rq off
  rw [h]; rfl

@[simp] theorem State.placed_casQuiet (s : State) (rq : Req) (off d : Nat) : (s.placed rq off).casQuiet d = s.casQuiet d := by
  obtain ⟨l, h⟩ := s.placed_eq_grant rq off
  rw [h]; rfl

/-! ### Unlocked writes (R375) -/

section Write
variable {s : State} {rq : Req} {off : Nat} {v : BitVec 32} {u : During}

/-- An unlocked write of a 32-bit value that no rule refuses. -/
theorem State.wr32_of_accepted (hw : s.writesHard rq off = true) (h : (s.placed rq off).refuses off v.toNat = false)
    (hwdt : off ≠ 0x0010020) : s.wr32 rq off v.toNat u =
      (((s.placed rq off).wrAt rq off v.toNat (s.arbN (arbReg off)) u).heal off).windowUse rq := by
  have hv : v.toNat % 2 ^ 32 = v.toNat := Nat.mod_eq_of_lt v.isLt
  rw [State.wr32_of_writesHard v.toNat u hw (hv.symm ▸ h) (fun ho => absurd ho hwdt), hv]

/-- An unlocked write of a 32-bit value that a rule refuses. -/
theorem State.wr32_of_refused_value (hw : s.writesHard rq off = true) (h : (s.placed rq off).refuses off v.toNat = true) :
    s.wr32 rq off v.toNat u = (s.placed rq off).accEv rq off (s.arbN (arbReg off)) := by
  obtain ⟨ht, hm, -⟩ := (s.writesHard_iff rq off).mp hw
  have hv : v.toNat % 2 ^ 32 = v.toNat := Nat.mod_eq_of_lt v.isLt
  exact State.wr32_of_refused v.toNat u ht hm (.inr (hv.symm ▸ h))

/-- R152: an unlocked write of a key follows the keys' rule. -/
theorem State.wr32_key (hk : within off 0x0070400 0x20 = true) (hw : s.writesHard rq off = true) :
    s.wr32 rq off v.toNat u = (((s.placed rq off).keyWr off v.toNat).heal off).windowUse rq := by
  have hlo := (within_eq_true.mp hk).1
  rw [State.wr32_of_accepted hw (State.refuses_key _ _ hk) (by omega), State.wrAt_of_key _ _ _ _ _ hk]

/-- R298, R304: an unlocked write of the SPW of a casement without a program follows the rule of the ways. -/
theorem State.wr32_spw_of_idle (hk : within off 0x0180000 0x10 = true) (hw : s.writesHard rq off = true)
    (hidle : (s.casement ((off - 0x0180000) / 4)).phase = .idle) :
    s.wr32 rq off v.toNat u = (((s.placed rq off).spwWr off v.toNat).heal off).windowUse rq := by
  have hlo := (within_eq_true.mp hk).1
  have hok : (s.placed rq off).refuses off v.toNat = false := by
    rw [State.refuses_spw _ _ hk, State.placed_casement, hidle]; rfl
  rw [State.wr32_of_accepted hw hok (by omega), State.wrAt_of_spw _ _ _ _ _ hk]

end Write

end Sys2Proof.Machine
end

section
/-! PROOFS. R152, R298, R304, R370: writes of keys, of SPW and of the injection control. -/

namespace Sys2Proof.Machine

theorem exec_keyWrite (rq : Req) (d : Fin 4) (hi : Bool) (v : BitVec 32) (s : State) :
    exec (.keyWrite rq d hi v) s = .next (s.wr32 rq (0x0070400 + 8 * d + 4 * b2n hi) v.toNat .none) := rfl

theorem exec_spwWrite (rq : Req) (d : Fin 4) (v : BitVec 32) (s : State) :
    exec (.spwWrite rq d v) s = .next (s.wr32 rq (0x0180000 + 4 * d) v.toNat .none) := rfl

theorem exec_injArm (rq : Req) (v : BitVec 32) (s : State) :
    exec (.injArm rq v) s = .next (s.wr32 rq 0x0060100 v.toNat .none) := rfl

/-- Settles O35: each write is State.wr32 with the register's rule. A key's rule asks whether the casement is quiet, that of SPW
whether the ways change their use; SPW of a casement that is not idle and ARM behind an armed injection are refused. -/
theorem guardedWrites : Obligations.GuardedWrites := by
  unfold Obligations.GuardedWrites
  refine fun rq v s => ⟨fun d hi => ?key, fun d => ?spw, ?inj⟩
  case key =>
    intro off hw u now later
    have hbit : b2n hi ≤ 1 := by cases hi <;> decide
    have hk : within off 0x0070400 0x20 = true := within_eq_true.mpr (by omega)
    have hd : (off - 0x0070400) / 8 = d := by omega
    rw [exec_keyWrite, State.wr32_key hk hw]
    refine ⟨fun hquiet => ?quiet, fun hbusy => ?busy⟩
    case quiet => rw [State.keyWr_of_quiet v (by rw [hd, State.placed_casQuiet, hquiet])]
    case busy =>
      rw [State.keyWr_of_busy v (by rw [hd, State.placed_casQuiet, hbusy])]
      rfl
  case spw =>
    intro off hw u same
    have hk : within off 0x0180000 0x10 = true := within_eq_true.mpr (by omega)
    have hd : (off - 0x0180000) / 4 = d := by omega
    refine ⟨fun hidle hsame => ?same, fun hidle hchange => ?change, fun hloaded => ?loaded⟩
    case same =>
      rw [exec_spwWrite, State.wr32_spw_of_idle hk hw (hd ▸ hidle), State.spwWr_of_same (by rw [State.placed_rf]; exact hsame)]
    case change =>
      rw [exec_spwWrite, State.wr32_spw_of_idle hk hw (hd ▸ hidle), State.spwWr_of_change (by rw [State.placed_rf]; exact hchange), hd]
    case loaded =>
      have hrefused : u.refuses off v.toNat = true := by
        rw [State.refuses_spw _ _ hk, hd, State.placed_casement]
        exact bne_iff_ne.mpr hloaded
      rw [exec_spwWrite, State.wr32_of_refused_value hw hrefused]
  case inj =>
    intro hw _ u w
    have hrefuses : u.refuses 0x0060100 v.toNat = (v.getLsbD 8 && s.rf 0x006010C 0 0 == 1) := by
      rw [State.refuses_injCtl, State.placed_rf, bit_toNat]
    rw [exec_injArm]
    refine ⟨fun harm hfree => ?arm, fun hnoarm => ?noarm, fun harm harmed => ?armed⟩
    case arm =>
      rw [State.wr32_of_accepted hw (by rw [hrefuses, harm, hfree]; rfl) (by decide), State.wrAt_injCtl, bit_toNat,
        if_pos harm]
    case noarm =>
      rw [State.wr32_of_accepted hw (by rw [hrefuses, hnoarm]; rfl) (by decide), State.wrAt_injCtl, bit_toNat,
        hnoarm, if_neg Bool.false_ne_true]
    case armed => rw [State.wr32_of_refused_value hw (by rw [hrefuses, harm, harmed]; rfl)]

end Sys2Proof.Machine
end

section
/-! PROOFS. R173 to R177, R205, R274: OPT. -/

namespace Sys2Proof.Machine

/-! ### The update of a visited state -/

/-- OPT's settings when its operands are read in v (R173). -/
def TC.optParIn (k : TC) (c : OptCase) (v : State) : OptPar := v.optPar k c.n (optRec c.rcd) c.hyp

/-- OPT's effect on u of the elements that it computes from v: the operands are read before a TWIN comparison, the planes and the
record are written after it (R176, R205). -/
def TC.optEffect (k : TC) (c : OptCase) (v u : State) : State :=
  u.optDo k c (k.optParIn c v) (v.optRows k (optRec c.rcd) (k.optParIn c v))

/-- R201, R274: the records as the visit of their words finds them fix the ranges; the ranges are checked and visited, then the update
is computed, compared and written. -/
theorem optBody_eq_withRanges (s : State) (k : TC) {c : OptCase} (hc : c = (s.optVisit k).optCase k) :
    optBody s k = withRanges s k (optAllFaults s k c) (k.optRds c) (k.optWrs c) (k.optRds c) (fun v => twinned v k (fun u =>
      .ok ⟨k.optEffect c v u, paneOf (k.optRds c), paneOf (k.optWrs c), [], .plain, false, none⟩)) := by
  subst hc
  rfl

theorem exec_opt (d : Fin 4) (t : Fin 4096) (w : IFields) (ups : List Upset) (s : State) :
    exec (.opt d t w ups) s = .next (issue d t 0x2A w ups optBody s) := rfl

/-- Settles O12: the course of OPT is withRanges over the ranges that its records name, and its effect comes through an agreeing TWIN
comparison. -/
theorem updateCompletes : Obligations.UpdateCompletes := by
  unfold Obligations.UpdateCompletes
  intro d t w ups s k c u htakes hclear htwin
  have hissue : issue d t 0x2A w ups optBody s =
      (k.optEffect c u (u.twinCheck k).1).started d t (paneOf (k.optRds c)) (paneOf (k.optWrs c)) [] .plain :=
    issue_ranges_twinned optBody (k.optEffect c) htakes hclear (optBody_eq_withRanges s k rfl) htwin
  rw [exec_opt, hissue, TC.optEffect, TC.optParIn]

end Sys2Proof.Machine
end

section
/-! SUPPORT. Fields of instruction words, checks before an effect, and the course of an instruction that changes its logical tile, waits
in the buffer, or joins the incomplete ones without a range of the Pane. -/

namespace Sys2Proof.Machine

/-! ### Words and fields -/

/-- A field by division. -/
theorem fld_eq_div_mod (x hi lo : Nat) : fld x hi lo = x / 2 ^ lo % 2 ^ (hi + 1 - lo) := by rw [fld, Nat.shiftRight_eq_div_pow]

theorem fld_low (x hi : Nat) : fld x hi 0 = x % 2 ^ (hi + 1) := by rw [fld_eq_div_mod, Nat.pow_zero, Nat.div_one, Nat.sub_zero]

theorem sext_toNat (v : Word) : sext v.toNat 32 = v.toInt := by
  have hv := v.isLt
  rw [sext, Nat.mod_eq_of_lt hv, BitVec.toInt_eq_toNat_cond]
  split <;> split <;> omega

theorem wrap_eq_ofInt (z : Int) : wrap z 64 = (BitVec.ofInt 64 z).toNat := (BitVec.toNat_ofInt z).symm

/-- R284: a target is the pc moved by whole instructions, modulo 2^64. -/
theorem branchTo_eq_ofInt (pc : Nat) (off : Word) :
    branchTo pc off.toNat = (BitVec.ofInt 64 ((pc : Int) + 16 * off.toInt)).toNat := by
  rw [branchTo, wrap_eq_ofInt, sext_toNat]

/-! ### Checks -/

theorem guarded_of_fault {s : State} {f : Option TFault} {g : TFault} (h : f = some g) (go : Unit → TRes) :
    guarded s f go = .fault s g := by
  rw [h]; rfl

theorem guarded_of_good {s : State} {f : Option TFault} (h : f = none) (go : Unit → TRes) : guarded s f go = go () := by
  rw [h]; rfl

theorem need_of_true {b : Bool} (h : b = true) (code slot : Nat) : need b code slot = some ⟨code, slot, 0⟩ := by rw [h]; rfl

theorem need_of_false {b : Bool} (h : b = false) (code slot : Nat) : need b code slot = none := by rw [h]; rfl

/-! ### Issue -/

/-- An instruction that changes its logical tile to y, which stays where it is, and completes at its issue. -/
theorem issue_quick_setLt {d : Fin 4} {t : Fin 4096} {op : Nat} {w : IFields} {ups : List Upset} {body : State → TC → TRes}
    {s u : State} (y : LTile) (htakes : s.takes d t op w = true) (hbody : body s (s.tc d t ⟨op, w, ups⟩) = quickly (u.setLt d t y))
    (hphys : y.phys = (u.lt d t).phys) : issue d t op w ups body s = u.issuedAs d t { y with pc := y.pc + 16 } := by
  rw [issue_quick d t op w ups body s _ htakes hbody, State.passed, State.issuedAs, State.issuedAs, State.lt_setLt_self,
    State.setLt_setLt, ← hphys]

/-- R207: a tile that takes an instruction has nothing in its buffer. -/
theorem State.ibuf_of_takes {s : State} {d t op : Nat} {w : IFields} (h : s.takes d t op w = true) : (s.lt d t).ibuf = [] := by
  simp only [State.takes, State.looks, Bool.and_eq_true, List.isEmpty_iff] at h
  obtain ⟨⟨⟨⟨⟨_, hibuf⟩, _⟩, _⟩, _⟩, _⟩ := h
  exact hibuf

/-- R207: the first instruction that waits is the whole of the buffer. -/
theorem State.hold_of_takes {s : State} {d t op : Nat} {w : IFields} (h : s.takes d t op w = true) (ib : IBuf) :
    s.hold d t ib = s.setLt d t { s.lt d t with ibuf := [ib] } := by
  rw [State.hold, State.ibuf_of_takes h, List.nil_append]

/-- An instruction that joins the incomplete ones without a range of the Pane. -/
theorem issue_started_rangeless {d : Fin 4} {t : Fin 4096} {op : Nat} {w : IFields} {ups : List Upset} {body : State → TC → TRes}
    {s u : State} {kind : IKind} (h : s.takes d t op w = true)
    (hb : body s (s.tc d t ⟨op, w, ups⟩) = .ok ⟨u, [], [], [], kind, false, none⟩) :
    issue d t op w ups body s = u.started d t [] [] [] kind :=
  issue_started d t op w ups body s u [] [] [] kind h hb (takes_hazard s d t op w h)

end Sys2Proof.Machine
end

section
/-! SUPPORT. What BLKEND reads (R217, R221, R283): live entries, wait words, the next block's address; and the faults it finds. -/

namespace Sys2Proof.Machine

/-! ### BLKEND's operands -/

theorem LTile.lreg_lt (x : LTile) (n : Nat) : x.lreg n < 2 ^ 32 := (Assoc.get x.lr n 0).isLt

theorem LTile.sreg_lt (x : LTile) (n : Nat) : x.sreg n < 2 ^ 32 := (Assoc.get x.sregs n 0).isLt

/-- R217: an entry of the live region table breaks the rule when its reserved bits are set or its blocks run past the Pane. -/
theorem liveBad_iff {e : Nat} (he : e < 2 ^ 32) :
    liveBad e = true ↔ 2 ^ 21 ≤ e ∨ 1024 < e % 1024 + e / 1024 % 2048 := by
  simp only [liveBad, fld_eq_div_mod, Bool.or_eq_true, bne_iff_ne, decide_eq_true_eq]
  omega

/-- R221: a wait word breaks the rule when it counts something and its reserved bits are set. -/
theorem waitBad_iff {c : Nat} (hc : c < 2 ^ 32) :
    (fld c 15 0 != 0 && fld c 31 20 != 0) = true ↔ c % 2 ^ 16 ≠ 0 ∧ 2 ^ 20 ≤ c := by
  simp only [fld_eq_div_mod, Bool.and_eq_true, bne_iff_ne]
  omega

/-- R283: the words of the conditions are those of SRCA and the three registers after it. -/
theorem waitWords_eq (k : TC) : waitWords k = if opNone k.w.srca then [] else
    [(k.x.word k.w.srca).toNat, k.x.sreg (opIdx k.w.srca + 1), k.x.sreg (opIdx k.w.srca + 2), k.x.sreg (opIdx k.w.srca + 3)] := by
  unfold waitWords
  by_cases h : opNone k.w.srca = true
  · rw [if_pos h, if_pos h]
  · rw [if_neg h, if_neg h, LTile.word, if_neg h]
    rfl

theorem waitWords_lt {k : TC} {c : Nat} (hc : c ∈ waitWords k) : c < 2 ^ 32 := by
  unfold waitWords at hc
  split at hc
  · exact absurd hc List.not_mem_nil
  · obtain ⟨n, -, rfl⟩ := List.mem_map.mp hc
    exact k.x.sreg_lt n

/-- R221: conditions merged by counter, in the fields' arithmetic. -/
theorem mergeWaits_eq (l : List Nat) : mergeWaits l = ((List.range 16).map (fun n =>
    (n, ((l.filter (fun c => c / 2 ^ 16 % 16 == n)).map (· % 2 ^ 16)).sum))).filter (fun c => c.2 != 0) := by
  have hcount : (fun c => fld c 15 0) = (· % 2 ^ 16) := funext fun c => fld_low c 15
  have hcounter : ∀ n, (fun c => fld c 19 16 == n) = (fun c => c / 2 ^ 16 % 16 == n) := fun n => funext fun c =>
    congrArg (· == n) (fld_eq_div_mod c 19 16)
  refine congrArg (List.filter fun c : Nat × Nat => c.2 != 0) (List.map_congr_left fun n _ => ?_)
  rw [hcount, hcounter, List.sum_eq_foldl]

/-- R283: the offset to the next block, where 0 names the following instruction. -/
theorem TC.nextBlock_eq (k : TC) :
    k.nextBlock = (BitVec.ofInt 64 ((k.x.pc : Int) +
      (16 : Int) * (if (k.w.imm >>> 16).setWidth 32 = 0#32 then (1 : Int) else ((k.w.imm >>> 16).setWidth 32).toInt))).toNat := by
  have hoff : fld k.imm 47 16 = ((k.w.imm >>> 16).setWidth 32).toNat := by
    rw [fld, TC.imm, BitVec.toNat_setWidth, BitVec.toNat_ushiftRight]
  unfold TC.nextBlock
  rw [hoff]
  by_cases h : (k.w.imm >>> 16).setWidth 32 = 0#32
  · rw [if_pos h, h]
    exact branchTo_eq_ofInt k.x.pc 1#32
  · have hne : ((k.w.imm >>> 16).setWidth 32).toNat ≠ 0 := fun h0 => h (BitVec.eq_of_toNat_eq h0)
    rw [if_neg h, if_neg hne, branchTo_eq_ofInt]

/-! ### BLKEND's faults -/

/-- R217: BLKEND keeps live bytes by an entry that breaks the rule. -/
def TC.liveBroken (k : TC) : Prop :=
  ∃ n, n < 16 ∧ k.w.imm.getLsbD n = true ∧ (2 ^ 21 ≤ k.x.lreg n ∨ 1024 < k.x.lreg n % 1024 + k.x.lreg n / 1024 % 2048)

/-- R221: a wait word of BLKEND breaks the rule. -/
def TC.waitBroken (k : TC) : Prop := ∃ c ∈ waitWords k, c % 2 ^ 16 ≠ 0 ∧ 2 ^ 20 ≤ c

theorem TC.any_liveBad_iff (k : TC) :
    (List.range 16).any (fun n => bit (fld k.imm 15 0) n && liveBad (k.x.lreg n)) = true ↔ k.liveBroken := by
  simp only [List.any_eq_true, List.mem_range, Bool.and_eq_true, liveBad_iff (k.x.lreg_lt _)]
  refine exists_congr fun n => and_congr_right fun hn => and_congr_left fun _ => ?_
  rw [bit_eq, testBit_fld, decide_eq_true (by omega), Bool.true_and, Nat.zero_add, TC.imm, BitVec.testBit_toNat]

theorem TC.any_waitBad_iff (k : TC) :
    (waitWords k).any (fun c => fld c 15 0 != 0 && fld c 31 20 != 0) = true ↔ k.waitBroken := by
  rw [List.any_eq_true]
  exact exists_congr fun c => and_congr_right fun hc => waitBad_iff (waitWords_lt hc)

/-- R251: of BLKEND's two faults the live-region fault, whose code is the lower, comes first. -/
theorem blkendFault_of_liveBroken {k : TC} (h : k.liveBroken) : blkendFault k = some ⟨0x0C, 7, 0⟩ := by
  unfold blkendFault
  rw [k.any_liveBad_iff.mpr h]
  cases (waitWords k).any (fun c => fld c 15 0 != 0 && fld c 31 20 != 0) <;> rfl

theorem blkendFault_of_not_liveBroken {k : TC} (h : ¬ k.liveBroken) :
    blkendFault k = need ((waitWords k).any (fun c => fld c 15 0 != 0 && fld c 31 20 != 0)) 0x0D 2 := by
  unfold blkendFault
  rw [Bool.eq_false_iff.mpr (mt k.any_liveBad_iff.mp h)]
  cases (waitWords k).any (fun c => fld c 15 0 != 0 && fld c 31 20 != 0) <;> rfl

theorem blkendFault_of_waitBroken {k : TC} (hl : ¬ k.liveBroken) (hw : k.waitBroken) : blkendFault k = some ⟨0x0D, 2, 0⟩ := by
  rw [blkendFault_of_not_liveBroken hl, k.any_waitBad_iff.mpr hw]
  rfl

theorem blkendFault_of_good {k : TC} (hl : ¬ k.liveBroken) (hw : ¬ k.waitBroken) : blkendFault k = none := by
  rw [blkendFault_of_not_liveBroken hl, Bool.eq_false_iff.mpr (mt k.any_waitBad_iff.mp hw)]
  rfl

end Sys2Proof.Machine
end

section
/-! PROOFS. R217, R221, R283: BLKEND. -/

namespace Sys2Proof.Machine

theorem exec_blkend (d : Fin 4) (t : Fin 4096) (w : IFields) (s : State) :
    exec (.blkend d t w) s = .next (issue d t 0x43 w [] blkendBody s) := rfl

/-- Settles O4: BLKEND's body by its faults; a good one changes the logical tile and completes at its issue. -/
theorem blockEnd : Obligations.BlockEnd := by
  unfold Obligations.BlockEnd
  intro d t w s x ws off liveBroken waitBroken htakes
  let k := s.tc d t ⟨0x43, w, []⟩
  have hws : waitWords k = ws := waitWords_eq k
  have hlive : liveBroken ↔ k.liveBroken := Iff.rfl
  have hwait : waitBroken ↔ k.waitBroken := by rw [TC.waitBroken, hws]
  rw [exec_blkend, hlive, hwait]
  refine ⟨fun hl => ?_, fun hl hw => ?_, fun hl hw => ?_⟩
  · rw [issue_fault d t 0x43 w [] blkendBody s s _ htakes (guarded_of_fault (blkendFault_of_liveBroken hl) _)]
  · rw [issue_fault d t 0x43 w [] blkendBody s s _ htakes (guarded_of_fault (blkendFault_of_waitBroken hl hw) _)]
  · rw [issue_quick_setLt { x with
      phase := .ended, live := fld k.imm 15 0, waits := mergeWaits (waitWords k), next := k.nextBlock, haltReq := bit k.imm 48 }
      htakes (guarded_of_good (blkendFault_of_good hl hw) _) rfl]
    rw [mergeWaits_eq, hws, TC.nextBlock_eq, fld_low, bit_eq, TC.imm, BitVec.testBit_toNat]
    rfl

end Sys2Proof.Machine
end

section
/-! SUPPORT. Arrivals (R220, R222): what a stall's event leaves as it was, and one arrival by whether its counter is full. -/

namespace Sys2Proof.Machine

/-! ### The same programs -/

theorem State.SamePrograms.lt_eq {s t : State} (h : s.SamePrograms t) (d i : Nat) : t.lt d i = s.lt d i := by
  rw [State.lt, h.lts, State.lt]

theorem State.samePrograms_grant (s : State) (a : Nat) : s.SamePrograms (s.grant a) := ⟨s.grant_cas a, s.grant_lts a⟩

theorem State.samePrograms_postArb (s : State) (a : Nat) (e : Ev) : s.SamePrograms (s.postArb a e) :=
  (s.samePrograms_grant a).trans (State.samePrograms_post _ _)

/-- R222: the event of a stall changes no program. -/
theorem State.samePrograms_stallEdge (s u : State) (d : Nat) : u.SamePrograms (s.stallEdge u d) := by
  unfold State.stallEdge State.stallCheck
  exact .ite (.refl u) (.ite (u.samePrograms_postArb _ _) (.refl u))

/-! ### A stall (R222) -/

/-- R222: the event is raised when the step brings the stall about. -/
theorem State.stallEdge_eq (s u : State) (d : Nat) : s.stallEdge u d =
    if s.stalled d = false ∧ u.stalled d = true then u.postArb (arbPlace d) { kind := 4, unit := d, ctag := u.tagOf d } else u := by
  unfold State.stallEdge State.stallCheck
  cases s.stalled d
  · simp only [Bool.false_eq_true, if_false, true_and]
  · simp only [if_true, Bool.true_eq_false, false_and, if_false]

/-! ### One arrival (R220) -/

/-- The logical tile with one arrival more at counter n. -/
def LTile.arrived (x : LTile) (n : Nat) : LTile := { x with ac := Assoc.put x.ac n (BitVec.ofNat 32 (x.acnt n + 1)) 0#32 }

theorem LTile.acnt_arrived (x : LTile) {n : Nat} (h : x.acnt n < 2 ^ 32 - 1) : (x.arrived n).acnt n = x.acnt n + 1 := by
  have hmod : (x.acnt n + 1) % 2 ^ 32 = x.acnt n + 1 := Nat.mod_eq_of_lt (by omega)
  show (Assoc.get (Assoc.put x.ac n (BitVec.ofNat 32 (x.acnt n + 1)) 0) n 0).toNat = x.acnt n + 1
  rw [Assoc.get_put_self, BitVec.toNat_ofNat, hmod]

theorem State.arrive_of_room {s : State} {d t n : Nat} (h : (s.lt d t).acnt n < 2 ^ 32 - 1) :
    s.arrive d t n = s.stallEdge ((s.grant (arbPlace (s.dispOf d t))).setLt d t ((s.lt d t).arrived n)) d := by
  have hne : (s.lt d t).acnt n ≠ 2 ^ 32 - 1 := by omega
  unfold State.arrive
  exact if_neg hne

theorem State.arrive_of_full {s : State} {d t n : Nat} (h : (s.lt d t).acnt n = 2 ^ 32 - 1) :
    s.arrive d t n = s.postArb (arbPlace (s.dispOf d t))
      { kind := 4, unit := (s.lt d t).phys.getD 0, ctag := s.tagOf d, info := t + n * 2 ^ 12 } := by
  unfold State.arrive
  exact if_pos h

/-- R220: the counter of a tile that takes an arrival. -/
theorem State.lt_arrive_of_room {s : State} {d t n : Nat} (h : (s.lt d t).acnt n < 2 ^ 32 - 1) :
    (s.arrive d t n).lt d t = (s.lt d t).arrived n := by
  rw [State.arrive_of_room h, (State.samePrograms_stallEdge _ _ _).lt_eq, State.lt_setLt_self]

theorem State.lt_arrive_of_full {s : State} {d t n : Nat} (h : (s.lt d t).acnt n = 2 ^ 32 - 1) :
    (s.arrive d t n).lt d t = s.lt d t := by
  rw [State.arrive_of_full h, (State.samePrograms_postArb _ _ _).lt_eq]

end Sys2Proof.Machine
end

section
/-! PROOFS. R220, R222, R277: arrivals and the delivery of a SEND. -/

namespace Sys2Proof.Machine

theorem exec_sendDelivery_of_send {d : Fin 4} {t : Fin 4096} {id : Nat} {s : State} {i : Inc} {x : SendOp}
    (hfind : (s.lt d t).inc.find? (fun j => j.id == id) = some i) (hkind : i.kind = .send x) :
    exec (.sendDelivery d t id) s = .next ((s.sendDeliver d t x).setInc d t id .plain) := by
  show execSendDelivery d t id s = _
  rw [execSendDelivery, hfind]
  dsimp only
  rw [hkind]

/-- Settles O6: an arrival by whether its counter is full; a SEND's delivery finds its instruction among the incomplete ones. -/
theorem arrivals : Obligations.Arrivals := by
  unfold Obligations.Arrivals
  refine ⟨fun d t n s _ => ⟨fun hroom => ⟨?_, ?_⟩, fun hfull => ⟨?_, ?_⟩⟩, fun d t id s i x => exec_sendDelivery_of_send⟩
  · rw [State.arrive_of_room hroom, State.stallEdge_eq]
    rfl
  · rw [State.lt_arrive_of_room hroom, LTile.acnt_arrived _ hroom]
  · rw [State.lt_arrive_of_full hfull, hfull]
  · rw [State.arrive_of_full hfull]
    rfl

end Sys2Proof.Machine
end

section
/-! SUPPORT. FENCE, RECV, SYNC and EPOCH (R278, R279, R281, R282, R352): each body by its case. -/

namespace Sys2Proof.Machine

/-! ### Instructions that wait -/

theorem State.lt_latchPwr (s : State) (p d t : Nat) : (s.latchPwr p).lt d t = s.lt d t := rfl

/-- R207: what the logical tile of an instruction that waits becomes. -/
theorem State.lt_started (s : State) (d t : Nat) (rds wrs : List (Nat × Nat)) (regs : List Nat) (kind : IKind) :
    (s.started d t rds wrs regs kind).lt d t = { s.lt d t with
      pc := (s.lt d t).pc + 16
      nextId := (s.lt d t).nextId + 1
      inc := (s.lt d t).inc ++ [⟨(s.lt d t).nextId, rds, wrs, regs, kind⟩] } := by
  rw [State.started, State.issuedAs, State.lt_latchPwr, State.lt_setLt_self]

/-- R222: the check for a stall leaves the tile of the instruction as it was. -/
theorem State.lt_stallWith (s : State) (k : TC) (kind : IKind) : (s.stallWith k kind).lt k.d k.t = s.lt k.d k.t := by
  unfold State.stallWith State.onLt
  rw [State.lt_setLt_self, (State.samePrograms_stallEdge _ _ _).lt_eq, State.lt_setLt_self]
  dsimp only
  rw [List.dropLast_concat]

/-! ### FENCE (R282) -/

theorem fenceBody_of_drained {s : State} {k : TC} (h : k.x.inc = []) : fenceBody s k = quickly s := by
  rw [fenceBody, h]
  rfl

theorem fenceBody_of_incomplete {s : State} {k : TC} (h : k.x.inc ≠ []) : fenceBody s k = .wait := by
  rw [fenceBody, if_neg (mt List.isEmpty_iff.mp h)]

/-! ### RECV (R278) -/

/-- R278: the counter and the count that RECV's immediate names. -/
theorem recvBody_eq (s : State) (k : TC) : recvBody s k =
    let n := k.w.imm.toNat % 16
    let c := k.w.imm.toNat / 16 % 2 ^ 16
    if c ≤ k.x.acnt n then quickly ((s.onLt k (fun x => x.setAc n (x.acnt n - c))).grant (arbPlace (s.dispOf k.d k.t)))
    else .ok ⟨s.stallWith k (.recv n c), [], [], [], .recv n c, false, none⟩ := by
  have hn : fld k.imm 3 0 = k.w.imm.toNat % 16 := fld_low _ _
  have hc : fld k.imm 19 4 = k.w.imm.toNat / 16 % 2 ^ 16 := fld_eq_div_mod _ _ _
  rw [recvBody, hn, hc]

/-! ### SYNC (R279) -/

/-- R279: the tiles and the counter that SYNC's immediate names. -/
theorem syncBody_eq (s : State) (k : TC) : syncBody s k =
    let first := k.w.imm.toNat % 2 ^ 12
    let count := k.w.imm.toNat / 2 ^ 12 % 2 ^ 13
    let n := k.w.imm.toNat / 2 ^ 25 % 16
    guarded s (need (decide ((s.casement k.d).nlt < first + count)) 0x0B 5) (fun _ =>
      quickly ((List.range count).foldl (fun u i => u.arrive k.d (first + i) n) s)) := by
  have hfirst : fld k.imm 11 0 = k.w.imm.toNat % 2 ^ 12 := fld_low _ _
  have hcount : fld k.imm 24 12 = k.w.imm.toNat / 2 ^ 12 % 2 ^ 13 := fld_eq_div_mod _ _ _
  have hn : fld k.imm 28 25 = k.w.imm.toNat / 2 ^ 25 % 16 := fld_eq_div_mod _ _ _
  rw [syncBody, hfirst, hcount, hn]
  simp only [rangeFrom, List.foldl_map]

/-! ### EPOCH (R281, R352) -/

/-- R281: what a STEP leaves of the casement's count and of its tile. -/
def State.stepped (s : State) (d t : Nat) : State :=
  (s.setCas d { s.casement d with steps := (s.casement d).steps + 1 }).setLt d t
    { s.lt d t with stepOpen := true, stepAt := (s.lt d t).nextId }

theorem stepBody_of_closed (s : State) {d t : Nat} {ib : IBuf} (h : (s.lt d t).stepOpen = false) :
    stepBody s (s.tc d t ib) =
      if ib.w.imm.getLsbD 0 then .ok ⟨s.stepped d t, [], [], [], .step, false, none⟩ else quickly (s.stepped d t) := by
  have hopen : ¬ (s.tc d t ib).x.stepOpen = true := Bool.eq_false_iff.mp h
  have hwait : bit (s.tc d t ib).imm 0 = ib.w.imm.getLsbD 0 := by
    rw [bit_eq, TC.imm, BitVec.testBit_toNat]
    rfl
  rw [stepBody, if_neg hopen, hwait]
  rfl

theorem tokenBody_of_bad {s : State} {k : TC} (hbad : s.tokenBad k = true) : tokenBody s k = .fault s ⟨0x0E, 0, 0⟩ := by
  rw [tokenBody, guarded_of_fault (need_of_true hbad _ _)]

/-- R352: a TOKEN of the master with no token out: it passes at once in a group of one, and otherwise leaves for the next member. -/
theorem tokenBody_of_good {s : State} {k : TC} (hbad : s.tokenBad k = false) (hout : (s.fab k.d).tokOut = none) :
    tokenBody s k =
      if (s.members k.d).length ≤ 1 then quickly ((s.setReg (rFab k.d 0x10) (s.reg (rFab k.d 0x10) + 1#32)).ripen k.d)
      else
        let u := s.setFab k.d { s.fab k.d with tokOut := some (k.t, k.x.nextId) }
        .ok ⟨(u.sendTo (u.successor k.d) (u.fabTag k.d) 0 (.token (s.reg (rFab k.d 0x10) + 1#32).toNat)).1,
          [], [], [], .token, false, none⟩ := by
  have hnat : (s.reg (rFab k.d 0x10) + 1#32).toNat = ((s.reg (rFab k.d 0x10)).toNat + 1) % 2 ^ 32 := BitVec.toNat_add _ _
  have hword : BitVec.ofNat 32 ((s.reg (rFab k.d 0x10)).toNat + 1) = s.reg (rFab k.d 0x10) + 1#32 := by
    refine BitVec.eq_of_toNat_eq ?_
    rw [BitVec.toNat_ofNat, hnat]
  have hfree : ¬ (s.fab k.d).tokOut.isSome = true := by rw [hout]; exact Bool.false_ne_true
  rw [tokenBody, guarded_of_good (need_of_false hbad _ _), if_neg hfree, hword, hnat]

end Sys2Proof.Machine
end

section
/-! PROOFS. R222, R278, R279, R281, R282, R351, R352: FENCE, RECV, SYNC and EPOCH. -/

namespace Sys2Proof.Machine

theorem exec_fence (d : Fin 4) (t : Fin 4096) (w : IFields) (s : State) :
    exec (.fence d t w) s = .next (issue d t 0x42 w [] fenceBody s) := rfl

theorem exec_recv (d : Fin 4) (t : Fin 4096) (w : IFields) (s : State) :
    exec (.recv d t w) s = .next (issue d t 0x39 w [] recvBody s) := rfl

theorem exec_sync (d : Fin 4) (t : Fin 4096) (w : IFields) (s : State) :
    exec (.sync d t w) s = .next (issue d t 0x40 w [] syncBody s) := rfl

theorem exec_epochStep {w : IFields} (h : w.fmt ≠ 1#4) (d : Fin 4) (t : Fin 4096) (s : State) :
    exec (.epochStep d t w) s = .next (issue d t 0x41 w [] stepBody s) := if_neg h

theorem exec_epochToken {w : IFields} (h : w.fmt = 1#4) (d : Fin 4) (t : Fin 4096) (s : State) :
    exec (.epochToken d t w) s = .next (issue d t 0x41 w [] tokenBody s) := if_pos h

section Instruction
variable {d : Fin 4} {t : Fin 4096} {w : IFields} {s : State}

/-- R278: RECV finds its arrivals and takes them. -/
theorem exec_recv_of_arrived (h : s.takes d t 0x39 w = true)
    (hc : w.imm.toNat / 16 % 2 ^ 16 ≤ (s.lt d t).acnt (w.imm.toNat % 16)) :
    exec (.recv d t w) s = .next ((s.grant (arbPlace (s.dispOf d t))).issuedAs d t { s.lt d t with
      ac := Assoc.put (s.lt d t).ac (w.imm.toNat % 16)
        (BitVec.ofNat 32 ((s.lt d t).acnt (w.imm.toNat % 16) - w.imm.toNat / 16 % 2 ^ 16)) 0#32
      pc := (s.lt d t).pc + 16 }) := by
  have hbody := (recvBody_eq s (s.tc d t ⟨0x39, w, []⟩)).trans (if_pos hc)
  exact congrArg _ (issue_quick_setLt (u := s.grant (arbPlace (s.dispOf d t)))
    ((s.lt d t).setAc (w.imm.toNat % 16) ((s.lt d t).acnt (w.imm.toNat % 16) - w.imm.toNat / 16 % 2 ^ 16)) h hbody rfl)

/-- R278: RECV waits for its arrivals among the incomplete instructions. -/
theorem exec_recv_of_awaited (h : s.takes d t 0x39 w = true)
    (hc : (s.lt d t).acnt (w.imm.toNat % 16) < w.imm.toNat / 16 % 2 ^ 16) :
    exec (.recv d t w) s = .next
      ((s.stallWith (s.tc d t ⟨0x39, w, []⟩) (.recv (w.imm.toNat % 16) (w.imm.toNat / 16 % 2 ^ 16))).started
        d t [] [] [] (.recv (w.imm.toNat % 16) (w.imm.toNat / 16 % 2 ^ 16))) := by
  have hbody := (recvBody_eq s (s.tc d t ⟨0x39, w, []⟩)).trans (if_neg (Nat.not_le.mpr hc))
  exact congrArg _ (issue_started_rangeless h hbody)

end Instruction

/-- Settles O5: each instruction's body by its case, which completes at once, waits, faults or joins the incomplete instructions. -/
theorem syncForms : Obligations.SyncForms := by
  unfold Obligations.SyncForms
  refine ⟨fun d t w s => ⟨fun h hinc => ?_, fun h hinc => ?_, fun h => ⟨exec_recv_of_arrived h, fun hc => ?_⟩,
    fun h => ⟨fun hfit => ?_, fun hout => ?_⟩⟩, fun d t w s h => ⟨fun hstep hclosed => ?_, fun htok hbad => ?_,
    fun htok hgood hout => ⟨fun hone => ?_, fun hmany => ?_⟩⟩⟩
  · rw [exec_fence, issue_quick d t 0x42 w [] fenceBody s s h (fenceBody_of_drained hinc)]
  · rw [exec_fence, issue_wait d t 0x42 w [] fenceBody s h (fenceBody_of_incomplete hinc), State.hold_of_takes h]
  · refine ⟨_, exec_recv_of_awaited h hc, ?_⟩
    have hlt : ∀ kind, (s.stallWith (s.tc d t ⟨0x39, w, []⟩) kind).lt d t = s.lt d t := s.lt_stallWith _
    rw [State.lt_started, hlt]
  · have hgood := need_of_false (decide_eq_false (Nat.not_lt.mpr hfit)) 0x0B 5
    rw [exec_sync, issue_quick d t 0x40 w [] syncBody s _ h ((syncBody_eq s _).trans (guarded_of_good hgood _))]
    rfl
  · have hbad := need_of_true (decide_eq_true hout) 0x0B 5
    rw [exec_sync, issue_fault d t 0x40 w [] syncBody s s _ h ((syncBody_eq s _).trans (guarded_of_fault hbad _))]
  · rw [exec_epochStep hstep]
    have hbody := stepBody_of_closed s (ib := ⟨0x41, w, []⟩) hclosed
    cases hwait : w.imm.getLsbD 0
    · have hquick := hbody.trans (if_neg (Bool.eq_false_iff.mp hwait))
      rw [issue_quick d t 0x41 w [] stepBody s _ h hquick]
      rfl
    · rw [issue_started_rangeless h (hbody.trans (if_pos hwait))]
      rfl
  · rw [exec_epochToken htok, issue_fault d t 0x41 w [] tokenBody s s _ h (tokenBody_of_bad hbad)]
  · have hbody := (tokenBody_of_good hgood hout).trans (if_pos hone)
    rw [exec_epochToken htok, issue_quick d t 0x41 w [] tokenBody s _ h hbody]
    rfl
  · have hbody := (tokenBody_of_good hgood hout).trans (if_neg (Nat.not_le.mpr hmany))
    rw [exec_epochToken htok, issue_started_rangeless h hbody]
    rfl

end Sys2Proof.Machine
end

section
/-! PROOFS. R215, R218, R221, R222, R228, R238: block boundaries and block starts. -/

namespace Sys2Proof.Machine

/-! ### Block boundaries (R215, R228 to R230) -/

theorem exec_blockBoundary {p : Nat} (d : Fin 4) (t : Fin 4096) (rng crc mig : Bool) {s : State} (hp : (s.lt d t).phys = some p) :
    exec (.blockBoundary d t rng crc mig) s =
      .next (if (s.casement d).phase = .running ∧ (s.lt d t).phase = .ended ∧ (s.lt d t).inc.isEmpty = true then
        s.boundary d t p rng crc mig else s) := by
  show execBlockBoundary d t rng crc mig s = _
  rw [execBlockBoundary, hp]

/-- R149, R366: a known-answer check that neither fails nor meets an injection leaves the state as it was. -/
theorem State.known_of_good {s : State} {p det : Nat} (h : s.injArmed det p = false) : s.known p det false = s := by
  unfold State.known
  rw [h]
  rfl

/-- R228: without a ready tile outside the array nobody changes places. -/
theorem State.exchange_of_none_waiting {s : State} {d : Nat} (h : s.waiting d = none) (t : Nat) : s.exchange d t = s := by
  unfold State.exchange
  rw [h]
  cases (s.lt d t).phys <;> rfl

/-- R222: without a ready tile outside the array the Dispatcher is not stalled. -/
theorem State.not_stalled_of_none_waiting {s : State} {d : Nat} (h : s.waiting d = none) : s.stalled d = false := by
  rw [State.waiting, Option.map_eq_none_iff, List.find?_eq_none] at h
  have hany : (s.ltList d).any (fun x => x.2.phys.isNone && x.2.ready) = false := List.any_eq_false.mpr h
  unfold State.stalled
  dsimp only
  rw [hany, Bool.and_false]

/-- R229, R380: a place that neither fails nor is due stays, when the host asks for no migration. -/
theorem State.place3_of_healthy {s : State} {d t p : Nat} (hfail : (s.tile p).failing = false) (hdue : s.isDue p = false) :
    s.place3 d t p false = s := by
  unfold State.place3
  rw [hfail, hdue]
  rfl

/-- R215: the tile at its boundary, or halted, and one boundary more at its place. -/
def State.bounded (s : State) (d t p : Nat) : State :=
  (s.setTile p { s.tile p with bounds := (s.tile p).bounds + 1 }).setLt d t
    { s.lt d t with phase := if (s.lt d t).haltReq then .halted else .boundary }

theorem State.failing_bounded (s : State) (d t p : Nat) : ((s.bounded d t p).tile p).failing = (s.tile p).failing := by
  have h : (s.bounded d t p).tile p = { s.tile p with bounds := (s.tile p).bounds + 1 } := State.tile_setTile_self s p _
  rw [h]

/-- R215: a boundary of a healthy tile, with no ready tile waiting for a place. -/
theorem State.boundary_of_healthy {s : State} {d t p : Nat} (hrng : s.injArmed 3 p = false) (hcrc : s.injArmed 4 p = false)
    (hfail : (s.tile p).failing = false) (harr : s.arrBad p = false) (hdue : (s.bounded d t p).isDue p = false)
    (hwait : (s.bounded d t p).waiting d = none) : s.boundary d t p false false false = s.bounded d t p := by
  have hknown : (s.known p 3 false).known p 4 false = s := by rw [State.known_of_good hrng, State.known_of_good hcrc]
  have hplace := State.place3_of_healthy (d := d) (t := t) ((s.failing_bounded d t p).trans hfail) hdue
  have hquiet : s.stallEdge (s.bounded d t p) d = s.bounded d t p := by
    rw [State.stallEdge_eq, State.not_stalled_of_none_waiting hwait, if_neg (fun h => Bool.false_ne_true h.2)]
  unfold State.boundary
  extract_lets s1 x s2 y s3 s4
  have hs3 : s3 = s.bounded d t p := by
    simp only [s3, y, s2, x, s1, hknown, harr, Bool.or_false]
    rfl
  have hs4 : s4 = s.bounded d t p := by simp only [s4, hs3, hplace]
  rw [hs4, State.exchange_of_none_waiting hwait, hquiet, ite_self]

/-! ### Block starts (R218, R221, R238) -/

/-- Log 27: the exchanges of a running program come first. -/
theorem exec_blockStart_of_ready {d : Fin 4} {t : Fin 4096} {s : State} (hrun : (s.casement d).phase = .running)
    (hready : (s.exchanges d).canStart d t = true) : exec (.blockStart d t) s = .next ((s.exchanges d).blockStart d t) := by
  show execBlockStart d t s = _
  unfold execBlockStart
  dsimp only
  rw [if_pos hrun, if_pos hready]

theorem State.samePrograms_paneStale (s : State) (p : Nat) (live : List (Nat × Nat)) :
    s.SamePrograms (s.paneStale p live) := ⟨rfl, rfl⟩

section Scan
variable {s u : State} {d t p : Nat} {x : LTile} (hx : s.lt d t = x) (hp : x.phys.getD 0 = p)
include hx hp

/-- R218, R221: the search finds the block's BLKEND. -/
theorem State.blockStart_of_found {e : Nat} (h : s.scan d p (s.casement d) 1024 x.next = (u, .found e)) :
    s.blockStart d t = ((u.grant (arbPlace (dieOfTile p))).paneStale p x.liveRanges).setLt d t
      { (u.lt d t).takeWaits with phase := .running, pc := x.next, bstart := x.next, bend := e } := by
  have hlt := ((u.samePrograms_grant (arbPlace (dieOfTile p))).trans (State.samePrograms_paneStale _ p x.liveRanges)).lt_eq d t
  unfold State.blockStart
  dsimp only
  rw [hx, hp, h]
  dsimp only
  rw [hlt]

/-- R238: the search meets a fault of the fetch. -/
theorem State.blockStart_of_fault {f : TFault} (h : s.scan d p (s.casement d) 1024 x.next = (u, .fault f)) :
    s.blockStart d t = u.raiseFault d t f x.next 0 := by
  unfold State.blockStart
  dsimp only
  rw [hx, hp, h]

end Scan

/-- Settles O16: the boundary by whether the block has ended and drained, and that of a healthy tile; the start, after the exchanges
of log 27, by what the search for the block's BLKEND finds. -/
theorem blockEdges : Obligations.BlockEdges := by
  unfold Obligations.BlockEdges
  refine ⟨?boundary, ?start⟩
  case boundary =>
    intro d t rng crc mig p s x u hp hrun
    refine ⟨fun hnot => ?_, fun hended hdrained => ?_, fun hended hdrained hrng hcrc hfail harr hdue hwait => ?_⟩
    · have hstays : ¬ ((s.casement d).phase = .running ∧ x.phase = .ended ∧ x.inc.isEmpty = true) :=
        fun ⟨_, hended, hdrained⟩ => hnot.elim (fun h => h hended) (fun h => h (List.isEmpty_iff.mp hdrained))
      rw [exec_blockBoundary d t rng crc mig hp, if_neg hstays]
    · rw [exec_blockBoundary d t rng crc mig hp, if_pos ⟨hrun, hended, List.isEmpty_iff.mpr hdrained⟩]
    · have hu : s.boundary d t p false false false = u := State.boundary_of_healthy hrng hcrc hfail harr hdue hwait
      rw [exec_blockBoundary d t false false false hp, if_pos ⟨hrun, hended, List.isEmpty_iff.mpr hdrained⟩, hu]
  case start =>
    intro d t s u v x p hrun hready
    refine ⟨fun e hscan => ?_, fun f hscan => ?_⟩
    · rw [exec_blockStart_of_ready hrun hready, State.blockStart_of_found rfl rfl hscan]
    · rw [exec_blockStart_of_ready hrun hready, State.blockStart_of_fault rfl rfl hscan]

end Sys2Proof.Machine
end

section
/-! SUPPORT. A command on a casement that may execute (R403, R404, R490), by what it comes to. -/

namespace Sys2Proof.Machine

section Front
variable {s u : State} {f : Nat} {k : Cmd} {ty : Nat} {go : State → Cmd → CmdOut}

/-- R413: the front command completes. -/
theorem State.runCmd_of_done {st res : Nat} (hk : s.frontCmd f = some k) (hty : k.type = ty) (hgo : go s k = .done u st res) :
    s.runCmd f (· == ty) go = u.finish f k st res := by
  unfold State.runCmd
  rw [hk]
  dsimp only
  rw [if_pos (beq_iff_eq.mpr hty), hgo]

/-- R403: the front command goes on. -/
theorem State.runCmd_of_wait (hk : s.frontCmd f = some k) (hty : k.type = ty) (hgo : go s k = .wait u) :
    s.runCmd f (· == ty) go = u.setFn f { u.fn f with busy := true } := by
  unfold State.runCmd
  rw [hk]
  dsimp only
  rw [if_pos (beq_iff_eq.mpr hty), hgo]

end Front

/-- R404, R490: a command on a casement that passes its checks does what it names. -/
theorem State.casCmd_of_casRun {s : State} {f : Nat} {k : Cmd} {ty mask : Nat} {any ok : Bool} {xs : List CPhase} {d : Nat}
    (h : s.casRun f k ty mask any xs d) (hok : ok = true) (go : State → Nat → CmdOut) :
    s.casCmd f k mask ok false any xs go = go s d := by
  obtain ⟨-, -, hplain, hnamed, hphase⟩ := h
  unfold State.casCmd
  rw [hplain, hok, hnamed]
  dsimp only
  rw [if_pos hphase]
  rfl

end Sys2Proof.Machine
end

section
/-! PROOFS. R234, R235, R410: contexts are saved and restored. -/

namespace Sys2Proof.Machine

/-! ### The commands -/

section Commands
variable {f : Fin 16} {s u : State} {k : Cmd} {d : Nat}

theorem exec_ctxSave_of_done {st res : Nat}
    (hrun : s.casRun f k 0x22 (maskOf [(63, 0), (127, 64), (128, 128)]) false [.running, .loaded] d) (halign : k.f 63 0 % 2 ^ 21 = 0)
    (h : s.ctxSave d k = .done u st res) : exec (.ctxSave f) s = .next (u.finish f k st res) := by
  have ⟨hfront, htype, _⟩ := hrun
  have hok : (k.f 63 0 % frameBytes == 0) = true := beq_iff_eq.mpr halign
  have hcmd := (State.casCmd_of_casRun hrun hok fun s d => s.ctxSave d k).trans h
  exact congrArg _ (State.runCmd_of_done hfront htype hcmd)

theorem exec_ctxSave_of_wait
    (hrun : s.casRun f k 0x22 (maskOf [(63, 0), (127, 64), (128, 128)]) false [.running, .loaded] d) (halign : k.f 63 0 % 2 ^ 21 = 0)
    (h : s.ctxSave d k = .wait u) : exec (.ctxSave f) s = .next (u.setFn f { u.fn f with busy := true }) := by
  have ⟨hfront, htype, _⟩ := hrun
  have hok : (k.f 63 0 % frameBytes == 0) = true := beq_iff_eq.mpr halign
  have hcmd := (State.casCmd_of_casRun hrun hok fun s d => s.ctxSave d k).trans h
  exact congrArg _ (State.runCmd_of_wait hfront htype hcmd)

theorem exec_ctxRestore_of_done {st res : Nat} (hrun : s.casRun f k 0x23 (maskOf [(63, 0)]) false [.loaded] d)
    (h : s.ctxRestore d (k.f 63 0) = .done u st res) : exec (.ctxRestore f) s = .next (u.finish f k st res) := by
  have ⟨hfront, htype, _⟩ := hrun
  have hcmd := (State.casCmd_of_casRun hrun rfl fun s d => s.ctxRestore d (k.f 63 0)).trans h
  exact congrArg _ (State.runCmd_of_done hfront htype hcmd)

end Commands

/-! ### CTX_SAVE (R410) -/

/-- A range of the host is reached when its pages are mapped and no access of it ends in an error. -/
theorem reached_iff {mapped err : Bool} : ¬ (!mapped || err) = true ↔ mapped = true ∧ err = false := by
  cases mapped <;> cases err <;> decide

theorem not_reached_iff {mapped err : Bool} : (!mapped || err) = true ↔ ¬ (mapped = true ∧ err = false) :=
  (Decidable.not_not (p := _ = true)).symm.trans (not_congr reached_iff)

section Save
variable {s : State} {d : Nat} {k : Cmd}

/-- R359: a casement in HOLD saves no context. -/
theorem State.ctxSave_of_held (h : s.fabState d = 2) : s.ctxSave d k = .done s 0x04 0 := if_pos h

theorem State.ctxSave_of_short (hlive : s.fabState d ≠ 2) (h : k.f 127 64 < imgLen (s.casement d).nlt) :
    s.ctxSave d k = .done s 0x08 0 := (if_neg hlive).trans (if_pos h)

/-- The image's pages can be written. -/
def State.canSave (s : State) (d : Nat) (k : Cmd) : Prop :=
  s.hostRange d (k.f 63 0) (k.f 127 64) true = true ∧ s.hostErr d (k.f 63 0) (imgLen (s.casement d).nlt) 1 = false

theorem State.ctxSave_of_unreached (hlive : s.fabState d ≠ 2) (hlong : imgLen (s.casement d).nlt ≤ k.f 127 64)
    (h : ¬ s.canSave d k) : s.ctxSave d k = .done s 0x07 0 :=
  (if_neg hlive).trans ((if_neg (Nat.not_lt.mpr hlong)).trans (if_pos (not_reached_iff.mpr h)))

/-- R410: the program stops at a boundary first. -/
theorem State.ctxSave_of_moving (hlive : s.fabState d ≠ 2) (hlong : imgLen (s.casement d).nlt ≤ k.f 127 64) (hreach : s.canSave d k)
    (hrunning : (s.casement d).phase = .running) (hmoving : s.allStill d = false) :
    s.ctxSave d k = .wait (s.setCas d { s.casement d with quiesce := true }) :=
  (if_neg hlive).trans ((if_neg (Nat.not_lt.mpr hlong)).trans ((if_neg (reached_iff.mpr hreach)).trans
    (if_pos ⟨hrunning, hmoving⟩)))

/-- R410: the context is saved; the program goes on, or is held. -/
theorem State.ctxSave_of_still (hlive : s.fabState d ≠ 2) (hlong : imgLen (s.casement d).nlt ≤ k.f 127 64) (hreach : s.canSave d k)
    (hstill : (s.casement d).phase = .loaded ∨ s.allStill d = true) : s.ctxSave d k =
      let u := s.saveImage d (k.f 63 0)
      if k.f 128 128 = 1 then .done (u.setCas d { u.casement d with quiesce := false }) 0x00 (imgLen (s.casement d).nlt)
      else .done (u.holdCtx d) 0x00 (imgLen (s.casement d).nlt) := by
  have hstopped : ¬ ((s.casement d).phase = .running ∧ s.allStill d = false) := by
    rintro ⟨hrunning, hmoving⟩
    rcases hstill with hloaded | hstill
    · exact absurd (hrunning.symm.trans hloaded) (by decide)
    · exact Bool.false_ne_true (hmoving.symm.trans hstill)
  exact (if_neg hlive).trans ((if_neg (Nat.not_lt.mpr hlong)).trans ((if_neg (reached_iff.mpr hreach)).trans (if_neg hstopped)))

/-- R410: a held context is loaded and bound to no tile. -/
theorem State.casement_holdCtx (s : State) (d : Nat) :
    ((s.holdCtx d).casement d).phase = .loaded ∧ ((s.holdCtx d).casement d).held = true := by
  unfold State.holdCtx
  dsimp only
  rw [State.casement_setCas_self]
  exact ⟨rfl, rfl⟩

end Save

/-! ### CTX_RESTORE (R235, R410) -/

/-- The logical tile that entry t of an image gives, whose header is hd and whose record is b. -/
def imageTile (hd : List Nat) (n t : Nat) (b : List PByte) : LTile :=
  LTile.fromImage (pvals b) (bit (leAt hd (512 + t / 8) 1) (t % 8)) (bit (leAt hd (1024 + t / 8) 1) (t % 8)) (n + 4 * t)

theorem imageTile_phase (hd : List Nat) (n t : Nat) (b : List PByte) :
    (imageTile hd n t b).phase = if bit (leAt hd (512 + t / 8) 1) (t % 8) then .halted else .boundary := rfl

/-- R217: whether a tile's live bytes fit the Pane is told by its record. -/
theorem imageTile_liveFits (hd : List Nat) (n t : Nat) (b : List PByte) :
    (imageTile hd n t b).liveFits = (LTile.fromImage (pvals b) false false 0).liveFits := rfl

/-- The logical tiles of an image of n records. -/
def State.imageTiles (s : State) (d sva n : Nat) (hd : List Nat) : List LTile := (s.imgTiles d sva n).mapIdx (imageTile hd s.free)

/-- R217, R235: the tiles' live bytes fit when those of the records do. -/
theorem State.liveFits_imageTiles {s : State} {d sva n : Nat} (hd : List Nat)
    (h : (s.imgTiles d sva n).all (fun b => (LTile.fromImage (pvals b) false false 0).liveFits) = true) :
    (s.imageTiles d sva n hd).all LTile.liveFits = true := by
  refine List.all_eq_true.mpr fun x hx => ?_
  obtain ⟨t, ht, rfl⟩ := List.mem_mapIdx.mp hx
  rw [imageTile_liveFits]
  exact List.all_eq_true.mp h _ (List.getElem_mem ht)

/-- A host that answers every request leaves no live byte of an image unread. -/
theorem State.liveErr_of_answered {s : State} {d : Nat} (h : ∀ a n, s.hostErr d a n 1 = false) (sva : Nat) (xs : List LTile) :
    ¬ (xs.mapIdx (fun t x => x.liveRanges.any (fun r =>
      s.hostErr d (sva + imgHeader + t * slotBytes + 2560 + r.1) r.2 1))).any id = true := by
  intro hany
  obtain ⟨_, hmem, herr⟩ := List.any_eq_true.mp hany
  obtain ⟨t, _, rfl⟩ := List.mem_mapIdx.mp hmem
  obtain ⟨r, -, hr⟩ := List.any_eq_true.mp herr
  exact Bool.false_ne_true ((h _ _).symm.trans hr)

/-- R235: what a good image leaves. -/
def State.restored (s : State) (d sva n : Nat) (hd : List Nat) : State :=
  let xs := s.imageTiles d sva n hd
  let s1 := ({ s with free := s.free + 4 * n }.loadImage d sva xs).putKey d (leAt hd 16 8)
  let s2 := s1.setReg (0x0070260 + 4 * d) (BitVec.ofNat 32 (leAt hd 12 4))
  s2.setCas d { s2.casement d with
    gx := leAt hd 4 4, gy := n / leAt hd 4 4, held := true, steps := (xs.filter (·.stepOpen)).length }

/-- R235: the header at sva is sound and of casement d's size. -/
def State.goodHeader (s : State) (d sva : Nat) : Prop :=
  ppsn (s.imgRead d sva imgHeader) = false ∧ leAt (pvals (s.imgRead d sva imgHeader)) 0 4 = (s.casement d).nlt ∧
    leAt (pvals (s.imgRead d sva imgHeader)) 4 4 ≠ 0 ∧ (s.casement d).nlt % leAt (pvals (s.imgRead d sva imgHeader)) 4 4 = 0

/-- R235: the header at sva can be read. -/
def State.canReadHeader (s : State) (d sva : Nat) : Prop :=
  s.hostRange d sva imgHeader false = true ∧ s.hostErr d sva imgHeader 1 = false

theorem goodHeader_iff {psn : Bool} {nlt gx m : Nat} :
    ¬ (psn || nlt != m || gx == 0 || m % gx != 0) = true ↔ psn = false ∧ nlt = m ∧ gx ≠ 0 ∧ m % gx = 0 := by
  simp only [Bool.or_eq_true, bne_iff_ne, beq_iff_eq, not_or, Decidable.not_not, Bool.not_eq_true, and_assoc, ne_eq]

theorem not_goodHeader_iff {psn : Bool} {nlt gx m : Nat} :
    (psn || nlt != m || gx == 0 || m % gx != 0) = true ↔ ¬ (psn = false ∧ nlt = m ∧ gx ≠ 0 ∧ m % gx = 0) :=
  (Decidable.not_not (p := _ = true)).symm.trans (not_congr goodHeader_iff)

section Restore
variable {s w : State} {d sva : Nat}

theorem State.ctxRestore_of_unreached (h : s.hostRange d sva imgHeader false = false) : s.ctxRestore d sva = .done s 0x07 0 := by
  unfold State.ctxRestore
  exact if_pos (not_reached_iff.mpr fun ⟨hreach, _⟩ => Bool.false_ne_true (h.symm.trans hreach))

theorem State.ctxRestore_of_badHeader (hread : s.canReadHeader d sva) (h : ¬ s.goodHeader d sva) :
    s.ctxRestore d sva = .done s 0x06 0 := by
  unfold State.ctxRestore
  exact (if_neg (reached_iff.mpr hread)).trans (if_pos (not_goodHeader_iff.mpr h))

theorem State.ctxRestore_of_cut (hread : s.canReadHeader d sva) (hgood : s.goodHeader d sva)
    (h : s.hostRange d sva (imgLen (s.casement d).nlt) false = false) : s.ctxRestore d sva = .done s 0x07 0 := by
  have hcut : (!s.hostRange d sva (imgLen (s.casement d).nlt) false) = true := by rw [h]; rfl
  unfold State.ctxRestore
  exact (if_neg (reached_iff.mpr hread)).trans ((if_neg (goodHeader_iff.mpr hgood)).trans (if_pos hcut))

/-- R235: an image w whose records are sound and whose live bytes fit, and which the host answers whole, is restored. -/
theorem State.ctxRestore_of_fits (hread : s.canReadHeader d sva) (hgood : s.goodHeader d sva)
    (hrange : s.hostRange d sva (imgLen (s.casement d).nlt) false = true)
    (hw : w = s.hostAskRange d sva (imgLen (s.casement d).nlt)) (hhost : ∀ a n, w.hostErr d a n 1 = false)
    (hsound : (w.imgTiles d sva (s.casement d).nlt).any ppsn = false)
    (hfits : (w.imageTiles d sva (s.casement d).nlt (pvals (s.imgRead d sva imgHeader))).all LTile.liveFits = true) :
    s.ctxRestore d sva =
      .done (w.restored d sva (s.casement d).nlt (pvals (s.imgRead d sva imgHeader))) 0x00 0 := by
  have hwhole : ¬ (!s.hostRange d sva (imgLen (s.casement d).nlt) false) = true := by rw [hrange]; exact Bool.false_ne_true
  have hrecords : ¬ (List.range (s.casement d).nlt).any (fun t => w.hostErr d (sva + imgHeader + t * slotBytes) 2560 1) = true :=
    fun h => by
      obtain ⟨t, -, ht⟩ := List.any_eq_true.mp h
      exact Bool.false_ne_true ((hhost _ _).symm.trans ht)
  have hlive := w.liveErr_of_answered hhost sva (w.imageTiles d sva (s.casement d).nlt (pvals (s.imgRead d sva imgHeader)))
  have haccept : ¬ ((w.imgTiles d sva (s.casement d).nlt).any ppsn ||
      !(w.imageTiles d sva (s.casement d).nlt (pvals (s.imgRead d sva imgHeader))).all LTile.liveFits) = true := by
    rw [hsound, hfits]
    exact Bool.false_ne_true
  subst hw
  unfold State.ctxRestore
  exact (if_neg (reached_iff.mpr hread)).trans ((if_neg (goodHeader_iff.mpr hgood)).trans ((if_neg hwhole).trans
    ((if_neg hrecords).trans ((if_neg haccept).trans (if_neg hlive)))))

end Restore

/-! ### What a restored image leaves -/

theorem State.samePrograms_heldWrite (s : State) (d t a : Nat) (bs : List PByte) : s.SamePrograms (s.heldWrite d t a bs) := ⟨rfl, rfl⟩

/-- R235: each tile of an image takes its state. -/
theorem State.lt_loadImage (s : State) (d sva : Nat) (xs : List LTile) {t : Nat} {x : LTile} (h : xs[t]? = some x) :
    (s.loadImage d sva xs).lt d t = x := by
  unfold State.loadImage
  dsimp only
  induction hn : xs.length generalizing xs with
  | zero =>
    rw [List.eq_nil_of_length_eq_zero hn] at h
    exact absurd h (Option.some_ne_none x).symm
  | succ n ih =>
    obtain rfl | ⟨ys, y, rfl⟩ := List.eq_nil_or_concat xs
    · exact absurd h (Option.some_ne_none x).symm
    rw [List.concat_eq_append] at h hn ⊢
    rw [List.length_append, List.length_singleton] at hn
    rw [List.mapIdx_concat, List.foldl_append, List.foldl_cons, List.foldl_nil,
      (State.SamePrograms.foldl (fun (u : State) (r : Nat × Nat) => u.samePrograms_heldWrite d _ r.1 _) _ _).lt_eq]
    by_cases ht : t = ys.length
    · subst ht
      rw [List.getElem?_concat_length] at h
      rw [State.lt_setLt_self]
      exact Option.some.inj h
    · have hlt : t < ys.length := by
        have hle := (List.getElem?_eq_some_iff.mp h).1
        rw [List.length_append, List.length_singleton] at hle
        omega
      rw [List.getElem?_append_left hlt] at h
      rw [State.lt_setLt_ne _ _ (by unfold ltKey; omega), ih ys h (by omega)]

theorem State.imageTiles_getElem? (s : State) (d sva : Nat) (hd : List Nat) {n t : Nat} (h : t < n) :
    ∃ b, (s.imageTiles d sva n hd)[t]? = some (imageTile hd s.free t b) := by
  refine ⟨s.imgRead d (sva + imgHeader + t * slotBytes) 2560, ?_⟩
  rw [State.imageTiles, List.getElem?_mapIdx, State.imgTiles, List.getElem?_map, List.getElem?_range h]
  rfl

section Restored
variable (s : State) (d sva n : Nat) (hd : List Nat)

theorem State.casement_restored : ((s.restored d sva n hd).casement d).held = true ∧
    ((s.restored d sva n hd).casement d).gx = leAt hd 4 4 ∧ ((s.restored d sva n hd).casement d).gy = n / leAt hd 4 4 := by
  unfold State.restored
  dsimp only
  rw [State.casement_setCas_self]
  exact ⟨rfl, rfl, rfl⟩

/-- R234: the step counter is the image's. -/
theorem State.reg_restored : ((s.restored d sva n hd).reg (0x0070260 + 4 * d)).toNat = leAt hd 12 4 % 2 ^ 32 := by
  unfold State.restored
  dsimp only
  rw [State.setCas_reg, State.reg_setReg_self, BitVec.toNat_ofNat]

theorem State.phase_restored {t : Nat} (h : t < n) : ((s.restored d sva n hd).lt d t).phase =
    if bit (leAt hd (512 + t / 8) 1) (t % 8) then .halted else .boundary := by
  obtain ⟨b, hb⟩ := s.imageTiles_getElem? d sva hd h
  have hlt : (s.restored d sva n hd).lt d t = imageTile hd s.free t b :=
    State.lt_loadImage { s with free := s.free + 4 * n } d sva (s.imageTiles d sva n hd) hb
  rw [hlt, imageTile_phase]

end Restored

/-- Settles O47: each command by the first of its checks that fails; a context that is saved is held or goes on, and one that is
restored has its tiles from the image. -/
theorem contextLife : Obligations.ContextLife := by
  unfold Obligations.ContextLife
  refine ⟨?save, ?restore⟩
  case save =>
    intro f s k d _ hrun halign n reach
    refine ⟨fun hheld => ?_, fun hlive hshort => ?_, fun hlive hlong hout => ?_, fun hlive hlong hreach hrunning hmoving => ?_,
      fun hlive hlong hreach hstill => ?_⟩
    · exact exec_ctxSave_of_done hrun halign (State.ctxSave_of_held hheld)
    · exact exec_ctxSave_of_done hrun halign (State.ctxSave_of_short hlive hshort)
    · exact exec_ctxSave_of_done hrun halign (State.ctxSave_of_unreached hlive hlong hout)
    · refine ⟨_, exec_ctxSave_of_wait hrun halign (State.ctxSave_of_moving hlive hlong hreach hrunning hmoving), ?_, ?_⟩
      · exact State.casement_setCas_self s d _
      · exact State.fn_setFn_self _ f _
    · have hsave := State.ctxSave_of_still hlive hlong hreach hstill
      refine ⟨fun hgo => ?_, fun hstop => ⟨?_, State.casement_holdCtx _ d⟩⟩
      · exact exec_ctxSave_of_done hrun halign (hsave.trans (if_pos hgo))
      · exact exec_ctxSave_of_done hrun halign (hsave.trans (if_neg (by rw [hstop]; decide)))
  case restore =>
    intro f s k d _ hrun sva c h w recs fits good
    refine ⟨fun hout => ?_, fun hrange herr hbad => ?_, fun hrange herr hgood hcut => ?_,
      fun hrange hwhole hhost herr hgood ⟨hsound, hfits⟩ => ?_⟩
    · exact exec_ctxRestore_of_done hrun (State.ctxRestore_of_unreached hout)
    · exact exec_ctxRestore_of_done hrun (State.ctxRestore_of_badHeader ⟨hrange, herr⟩ hbad)
    · exact exec_ctxRestore_of_done hrun (State.ctxRestore_of_cut ⟨hrange, herr⟩ hgood hcut)
    · obtain ⟨hheld, hgx, hgy⟩ := w.casement_restored d sva c.nlt h
      exact ⟨_, exec_ctxRestore_of_done hrun (State.ctxRestore_of_fits ⟨hrange, herr⟩ hgood hwhole rfl hhost hsound
        (State.liveFits_imageTiles h hfits)), hheld, hgx, hgy,
        w.reg_restored d sva c.nlt h, fun t ht => w.phase_restored d sva c.nlt h ht⟩

end Sys2Proof.Machine
end

section
/-! SUPPORT. Scalar operands, and a range of the Pane in the checks before an effect (R247, R251, R252, R323): its address fault, its
poison, its visit. -/

namespace Sys2Proof.Machine

/-! ### The course of checks -/

theorem withRanges_of_hazard {s : State} {k : TC} {rds wrs : List Rng} (h : s.rngHazard k rds wrs = true)
    (own : List (Option TFault)) (eaten : List Rng) (go : State → TRes) : withRanges s k own rds wrs eaten go = .wait := if_pos h

theorem withRanges_of_fault {s : State} {k : TC} {own : List (Option TFault)} {rds wrs : List Rng} {f : TFault}
    (hfree : s.rngHazard k rds wrs = false) (hf : s.rngFault k own rds wrs = some f) (eaten : List Rng) (go : State → TRes) :
    withRanges s k own rds wrs eaten go = .fault (s.faulted k rds wrs f) f := by
  rw [withRanges, if_neg (Bool.eq_false_iff.mp hfree), hf]

/-- An effect under withRanges whose Pane ranges, which need not be those that it checks, meet no incomplete instruction. -/
theorem issue_ranges_with_pane {d : Fin 4} {t : Fin 4096} {op : Nat} {w : IFields} {ups : List Upset} {s : State}
    {own : List (Option TFault)} {rds wrs eaten : List Rng} (body : State → TC → TRes) (go : State → TRes) (u : State)
    (prd pwr : List (Nat × Nat)) (kind : IKind) (htakes : s.takes d t op w = true)
    (hclear : s.clear (s.tc d t ⟨op, w, ups⟩) own rds wrs eaten = true)
    (hbody : body s (s.tc d t ⟨op, w, ups⟩) = withRanges s (s.tc d t ⟨op, w, ups⟩) own rds wrs eaten go)
    (hgo : go (s.visited (s.tc d t ⟨op, w, ups⟩) rds wrs) = .ok ⟨u, prd, pwr, [], kind, false, none⟩)
    (hfree : hazard (s.lt d t).inc prd pwr [] = false) : issue d t op w ups body s = u.started d t prd pwr [] kind :=
  issue_started d t op w ups body s u prd pwr [] kind htakes
    (by rw [hbody, withRanges_clear s _ own rds wrs eaten go hclear, hgo]) hfree

/-! ### Operands -/

/-- R245: a scalar operand by the word that it reads. -/
theorem TC.sc_eq_word (k : TC) (b : BitVec 8) : k.sc b = (k.x.word b).toNat := by
  unfold TC.sc LTile.word
  split <;> rfl

theorem TC.sc_lt (k : TC) (b : BitVec 8) : k.sc b < 2 ^ 32 := by
  rw [TC.sc_eq_word]
  exact BitVec.isLt _

/-! ### A range of the Pane -/

theorem detailOf_pane {a : Nat} (h : a < 2 ^ 48) : detailOf 0 a = a := by
  rw [detailOf, Nat.mod_eq_of_lt h, Nat.zero_mul, Nat.add_zero]

/-- R247, R252: the address fault of the range [a, a + n) of the Pane, which names the first byte outside. -/
def paneFault (slot a n : Nat) : Option TFault := need (decide (524288 < a + n)) 4 slot (max a 524288)

theorem paneFault_of_fits {a n : Nat} (h : a + n ≤ 524288) (slot : Nat) : paneFault slot a n = none :=
  if_neg (by rw [decide_eq_false (Nat.not_lt.mpr h)]; exact Bool.false_ne_true)

theorem paneFault_of_outside {a n : Nat} (h : 524288 < a + n) (slot : Nat) : paneFault slot a n = some ⟨4, slot, max a 524288⟩ :=
  if_pos (decide_eq_true h)

theorem State.spCheck_pane (s : State) (d a : Nat) {n : Nat} (hn : n ≠ 0) (wr : Bool) :
    s.spCheck d 0 a n wr = if a + n ≤ 524288 then .ok else .addr (max a 524288) := if_neg hn

/-- R247: what the address check finds in a range of the Pane; it waits for no page. -/
theorem State.rngCheck_pane (s : State) (k : TC) (wr : Bool) (slot : Nat) {a n : Nat} (hn : n ≠ 0) (ha : a < 2 ^ 32) :
    s.rngCheck k wr [⟨slot, 0, a, n⟩] = (paneFault slot a n, false) := by
  unfold State.rngCheck
  simp only [List.foldl_cons, List.foldl_nil]
  rw [State.spCheck_pane s k.d a hn wr]
  by_cases h : a + n ≤ 524288
  · rw [if_pos h, paneFault_of_fits h]
  · have hmax : max a 524288 < 2 ^ 48 := by omega
    rw [if_neg h, paneFault_of_outside (Nat.not_le.mp h)]
    dsimp only [lowest]
    rw [detailOf_pane hmax]

/-- R313: ranges that touch no page of HBM want no frame. -/
theorem State.frameFault_of_no_pages (s : State) (k : TC) {l : List Rng} (h : rngPages l = []) : s.frameFault k l = none := by
  rw [State.frameFault, h]
  rfl

/-- R324: ranges that touch no page of HBM bring about no page-out. -/
theorem State.framePoison_of_no_pages (s : State) (k : TC) {l : List Rng} (h : rngPages l = []) : s.framePoison k l = none := by
  rw [State.framePoison, h]
  simp only [List.filter_nil, List.drop_nil]

section Range
variable {s : State} {k : TC} {own : List (Option TFault)} {slot a n : Nat}

/-- R251, R313: a range of the Pane that is read adds its address fault to an instruction's own and needs no frame. -/
theorem State.rngFault_paneRead (hn : n ≠ 0) (ha : a < 2 ^ 32) :
    s.rngFault k own [⟨slot, 0, a, n⟩] [] = lowest (own ++ [paneFault slot a n, none, none, none]) := by
  rw [State.rngFault, State.rngCheck_pane s k false slot hn ha, State.frameFault_of_no_pages s k rfl,
    State.framePoison_of_no_pages s k rfl]
  rfl

/-- The same of a range that is written. -/
theorem State.rngFault_paneWrite (hn : n ≠ 0) (ha : a < 2 ^ 32) :
    s.rngFault k own [] [⟨slot, 0, a, n⟩] = lowest (own ++ [none, paneFault slot a n, none, none]) := by
  rw [State.rngFault, State.rngCheck_pane s k true slot hn ha, State.frameFault_of_no_pages s k rfl,
    State.framePoison_of_no_pages s k rfl]
  rfl

/-- R313: a fault of an instruction that touches no page of HBM leaves the state as it was. -/
theorem State.faulted_of_no_pages {rds wrs : List Rng} (h : rngPages (rds ++ wrs) = []) (f : TFault) :
    s.faulted k rds wrs f = s := by
  rw [State.faulted, State.frameFault_of_no_pages s k h]
  rfl

/-- An instruction whose fault is found with a range of the Pane that it reads. -/
theorem withRanges_fault_paneRead (hfree : hazard (s.lt k.d k.t).inc [(a, n)] [] [] = false) (hn : n ≠ 0) (ha : a < 2 ^ 32) {f : TFault}
    (hf : lowest (own ++ [paneFault slot a n, none, none, none]) = some f) (eaten : List Rng) (go : State → TRes) :
    withRanges s k own [⟨slot, 0, a, n⟩] [] eaten go = .fault s f := by
  have hz : s.rngHazard k [⟨slot, 0, a, n⟩] [] = false := hfree
  rw [withRanges_of_fault hz ((State.rngFault_paneRead hn ha).trans hf), State.faulted_of_no_pages rfl]

/-- An instruction whose fault is found with a range of the Pane that it writes. -/
theorem withRanges_fault_paneWrite (hfree : hazard (s.lt k.d k.t).inc [] [(a, n)] [] = false) (hn : n ≠ 0) (ha : a < 2 ^ 32)
    {f : TFault} (hf : lowest (own ++ [none, paneFault slot a n, none, none]) = some f) (eaten : List Rng) (go : State → TRes) :
    withRanges s k own [] [⟨slot, 0, a, n⟩] eaten go = .fault s f := by
  have hz : s.rngHazard k [] [⟨slot, 0, a, n⟩] = false := hfree
  rw [withRanges_of_fault hz ((State.rngFault_paneWrite hn ha).trans hf), State.faulted_of_no_pages rfl]

theorem State.visited_paneRead : s.visited k [⟨slot, 0, a, n⟩] [] = s.paneTouch k.p a n := rfl

theorem State.visited_paneWrite : s.visited k [] [⟨slot, 0, a, n⟩] = s := rfl

theorem firstPoison_of_clean {l : List PByte} (h : ppsn l = false) (a : Nat) : firstPoison a l = none := by
  induction l generalizing a with
  | nil => rfl
  | cons b r ih =>
    obtain ⟨hb, hr⟩ : b.2 = false ∧ ppsn r = false := Bool.or_eq_false_iff.mp h
    rw [firstPoison, if_neg (Bool.eq_false_iff.mp hb), ih hr]

/-- R323: a range of the Pane without poison. -/
theorem State.rngPoison_pane_of_clean (h : ppsn (s.paneRead k.p a n) = false) : s.rngPoison k [⟨slot, 0, a, n⟩] = none := by
  have hnone : firstPoison a (s.spRead k.d k.p 0 a n) = none := firstPoison_of_clean h a
  simp only [State.rngPoison, List.map_cons, List.map_nil, hnone]
  rfl

/-- Nothing stands against a range of the Pane that is read and consumed: it fits and holds no poison when it has been visited. -/
theorem State.clear_paneRead (hfree : hazard (s.lt k.d k.t).inc [(a, n)] [] [] = false) (hn : n ≠ 0) (ha : a < 2 ^ 32)
    (hown : lowest (own ++ [none, none, none, none]) = none) (hfits : a + n ≤ 524288)
    (hclean : ppsn ((s.paneTouch k.p a n).paneRead k.p a n) = false) :
    s.clear k own [⟨slot, 0, a, n⟩] [] [⟨slot, 0, a, n⟩] = true := by
  have hfault : s.rngFault k own [⟨slot, 0, a, n⟩] [] = none := by
    rw [State.rngFault_paneRead hn ha, paneFault_of_fits hfits, hown]
  have hwait : s.rngWaits k [⟨slot, 0, a, n⟩] [] = false := by
    rw [State.rngWaits, State.rngCheck_pane s k false slot hn ha]
    rfl
  have hz : s.rngHazard k [⟨slot, 0, a, n⟩] [] = false := hfree
  rw [State.clear, hfault, hwait, State.visited_paneRead, State.rngPoison_pane_of_clean hclean, hz]
  rfl

/-- Nothing stands against a range of the Pane that is written: it fits. -/
theorem State.clear_paneWrite (hfree : hazard (s.lt k.d k.t).inc [] [(a, n)] [] = false) (hn : n ≠ 0) (ha : a < 2 ^ 32)
    (hown : lowest (own ++ [none, none, none, none]) = none) (hfits : a + n ≤ 524288) :
    s.clear k own [] [⟨slot, 0, a, n⟩] [] = true := by
  have hfault : s.rngFault k own [] [⟨slot, 0, a, n⟩] = none := by
    rw [State.rngFault_paneWrite hn ha, paneFault_of_fits hfits, hown]
  have hwait : s.rngWaits k [] [⟨slot, 0, a, n⟩] = false := by
    rw [State.rngWaits, State.rngCheck_pane s k true slot hn ha]
    rfl
  have hz : s.rngHazard k [] [⟨slot, 0, a, n⟩] = false := hfree
  rw [State.clear, hfault, hwait, hz]
  rfl

end Range

end Sys2Proof.Machine
end

section
/-! PROOFS. R246, R257: TDLD, TDST and TDADJ. -/

namespace Sys2Proof.Machine

/-! ### TDLD and TDST -/

/-- R257: the alignment fault of a stored descriptor's address, which is a scalar. -/
theorem tdAlign_of_unaligned {a : Nat} (h : a % 32 ≠ 0) (ha : a < 2 ^ 32) (slot : Nat) : tdAlign a slot = some ⟨3, slot, a⟩ := by
  have hdetail : detailOf 0 a = a := detailOf_pane (by omega)
  rw [tdAlign, hdetail]
  exact if_pos (bne_iff_ne.mpr h)

theorem tdAlign_of_aligned {a : Nat} (h : a % 32 = 0) (slot : Nat) : tdAlign a slot = none := by
  rw [tdAlign, h]
  rfl

/-- R251: the alignment fault comes before the address fault of the range, read or written, whose code is higher. -/
theorem lowest_align {a slot : Nat} (h : a % 32 ≠ 0) (ha : a < 2 ^ 32) :
    lowest ([tdAlign a slot] ++ [paneFault slot a 32, none, none, none]) = some ⟨3, slot, a⟩ ∧
    lowest ([tdAlign a slot] ++ [none, paneFault slot a 32, none, none]) = some ⟨3, slot, a⟩ := by
  rw [tdAlign_of_unaligned h ha]
  by_cases hfits : a + 32 ≤ 524288
  · rw [paneFault_of_fits hfits]
    exact ⟨rfl, rfl⟩
  · rw [paneFault_of_outside (Nat.not_le.mp hfits)]
    exact ⟨rfl, rfl⟩

/-- R257: TDLD's descriptor as the state v holds it. -/
def TC.loadTd (k : TC) (a : Nat) (v : State) : TRes :=
  .ok ⟨v.onLt k (fun x => x.setTd (opIdx k.w.dst) (BitVec.ofNat 256 (leNat (pvals (v.paneRead k.p a 32))))),
    [(a, 32)], [], [32 + opIdx k.w.dst], .plain, false, none⟩

/-- R257: TDST's descriptor written to the Pane. -/
def TC.storeTd (k : TC) (a : Nat) (v : State) : TRes :=
  .ok ⟨v.paneWrite k.p a (clean (leBytes 32 (k.x.td (opIdx k.w.srca)).toNat)), [], [(a, 32)], [], .plain, false, none⟩

theorem tdldBody_eq (s : State) (k : TC) {a : Nat} (ha : a = (k.x.word k.w.srca).toNat) :
    tdldBody s k = withRanges s k [tdAlign a 2] [⟨2, 0, a, 32⟩] [] [⟨2, 0, a, 32⟩] (k.loadTd a) := by
  rw [ha, tdldBody, TC.sc_eq_word]
  rfl

theorem tdstBody_eq (s : State) (k : TC) {a : Nat} (ha : a = (k.x.word k.w.dst).toNat) :
    tdstBody s k = withRanges s k [tdAlign a 1] [] [⟨1, 0, a, 32⟩] [] (k.storeTd a) := by
  rw [ha, tdstBody, TC.sc_eq_word]
  rfl

/-- R207: TDLD waits for the 32 bytes that an incomplete instruction writes. -/
theorem tdldBody_of_hazard {s : State} {k : TC} {a : Nat} (ha : a = (k.x.word k.w.srca).toNat)
    (hz : hazard (s.lt k.d k.t).inc [(a, 32)] [] [] = true) : tdldBody s k = .wait := by
  have hwait : s.rngHazard k [⟨2, 0, a, 32⟩] [] = true := hz
  rw [tdldBody_eq s k ha, withRanges_of_hazard hwait]

/-- R207: TDST waits for the 32 bytes that an incomplete instruction touches. -/
theorem tdstBody_of_hazard {s : State} {k : TC} {a : Nat} (ha : a = (k.x.word k.w.dst).toNat)
    (hz : hazard (s.lt k.d k.t).inc [] [(a, 32)] [] = true) : tdstBody s k = .wait := by
  have hwait : s.rngHazard k [] [⟨1, 0, a, 32⟩] = true := hz
  rw [tdstBody_eq s k ha, withRanges_of_hazard hwait]

section Load
variable {s : State} {k : TC} {a : Nat} (ha : a = (k.x.word k.w.srca).toNat)
  (hfree : hazard (s.lt k.d k.t).inc [(a, 32)] [] [] = false)
include ha hfree

theorem tdldBody_of_unaligned (h : a % 32 ≠ 0) : tdldBody s k = .fault s ⟨3, 2, a⟩ := by
  have hlt : a < 2 ^ 32 := ha ▸ BitVec.isLt _
  rw [tdldBody_eq s k ha, withRanges_fault_paneRead hfree (by decide) hlt (lowest_align h hlt).1]

theorem tdldBody_of_outside (h : a % 32 = 0) (hout : 524288 < a + 32) : tdldBody s k = .fault s ⟨4, 2, max a 524288⟩ := by
  have hlow : lowest ([tdAlign a 2] ++ [paneFault 2 a 32, none, none, none]) = some ⟨4, 2, max a 524288⟩ := by
    rw [tdAlign_of_aligned h, paneFault_of_outside hout]
    rfl
  rw [tdldBody_eq s k ha, withRanges_fault_paneRead hfree (by decide) (ha ▸ BitVec.isLt _) hlow]

/-- R247, R323: TDLD meets nothing when its 32 bytes lie in the Pane and hold no poison. -/
theorem clear_tdld (h : a % 32 = 0) (hfits : a + 32 ≤ 524288) (hclean : ppsn ((s.paneTouch k.p a 32).paneRead k.p a 32) = false) :
    s.clear k [tdAlign a 2] [⟨2, 0, a, 32⟩] [] [⟨2, 0, a, 32⟩] = true := by
  rw [tdAlign_of_aligned h]
  exact State.clear_paneRead hfree (by decide) (ha ▸ BitVec.isLt _) rfl hfits hclean

end Load

section Store
variable {s : State} {k : TC} {a : Nat} (ha : a = (k.x.word k.w.dst).toNat)
  (hfree : hazard (s.lt k.d k.t).inc [] [(a, 32)] [] = false)
include ha hfree

theorem tdstBody_of_unaligned (h : a % 32 ≠ 0) : tdstBody s k = .fault s ⟨3, 1, a⟩ := by
  have hlt : a < 2 ^ 32 := ha ▸ BitVec.isLt _
  rw [tdstBody_eq s k ha, withRanges_fault_paneWrite hfree (by decide) hlt (lowest_align h hlt).2]

theorem tdstBody_of_outside (h : a % 32 = 0) (hout : 524288 < a + 32) : tdstBody s k = .fault s ⟨4, 1, max a 524288⟩ := by
  have hlow : lowest ([tdAlign a 1] ++ [none, paneFault 1 a 32, none, none]) = some ⟨4, 1, max a 524288⟩ := by
    rw [tdAlign_of_aligned h, paneFault_of_outside hout]
    rfl
  rw [tdstBody_eq s k ha, withRanges_fault_paneWrite hfree (by decide) (ha ▸ BitVec.isLt _) hlow]

/-- R247: TDST meets nothing when its 32 bytes lie in the Pane. -/
theorem clear_tdst (h : a % 32 = 0) (hfits : a + 32 ≤ 524288) :
    s.clear k [tdAlign a 1] [] [⟨1, 0, a, 32⟩] [] = true := by
  rw [tdAlign_of_aligned h]
  exact State.clear_paneWrite hfree (by decide) (ha ▸ BitVec.isLt _) rfl hfits

end Store

/-! ### TDADJ -/

theorem adjField_bounds (fmt : Nat) : (adjField fmt).2 ≤ (adjField fmt).1 + 1 ∧ (adjField fmt).1 < 256 := by
  unfold adjField
  split <;> decide

/-- R257: the descriptor that TDADJ makes of o. -/
def adjusted (o : Desc) (fmt : Nat) (n : Word) : Desc := BitVec.ofNat 256 (adjDesc o.toNat fmt n.toNat)

theorem adjusted_toNat (o : Desc) (fmt : Nat) (n : Word) : (adjusted o fmt n).toNat =
    setFld o.toNat (adjField fmt).1 (adjField fmt).2
      (wrap ((fld o.toNat (adjField fmt).1 (adjField fmt).2 : Int) + n.toInt) ((adjField fmt).1 + 1 - (adjField fmt).2)) := by
  obtain ⟨hlo, hhi⟩ := adjField_bounds fmt
  rw [adjusted, BitVec.toNat_ofNat, adjDesc, sext_toNat, Nat.mod_eq_of_lt (setFld_lt _ hlo o.isLt hhi)]

/-- R257: the selected field has the scalar added, modulo its width. -/
theorem fld_adjusted (o : Desc) (fmt : Nat) (n : Word) :
    (fld (adjusted o fmt n).toNat (adjField fmt).1 (adjField fmt).2 : Int) =
      (fld o.toNat (adjField fmt).1 (adjField fmt).2 + n.toInt) % 2 ^ ((adjField fmt).1 + 1 - (adjField fmt).2) := by
  have hpos : ((2 ^ ((adjField fmt).1 + 1 - (adjField fmt).2) : Nat) : Int) ≠ 0 :=
    Int.natCast_ne_zero.mpr (Nat.ne_of_gt (Nat.two_pow_pos _))
  rw [adjusted_toNat, fld_setFld_self _ _ (adjField_bounds fmt).1, wrap, Int.natCast_emod, Int.toNat_of_nonneg (Int.emod_nonneg _ hpos),
    Int.emod_emod_of_dvd _ (Int.dvd_refl _), Int.natCast_pow]
  rfl

/-- R257: every bit outside the selected field stays. -/
theorem getLsbD_adjusted (o : Desc) (fmt : Nat) (n : Word) {i : Nat} (h : i < (adjField fmt).2 ∨ (adjField fmt).1 < i) :
    (adjusted o fmt n).getLsbD i = o.getLsbD i := by
  rw [← BitVec.testBit_toNat, adjusted_toNat, testBit_setFld _ _ _ _ _ (adjField_bounds fmt).1, if_neg (by omega), BitVec.testBit_toNat]

theorem tdadjBody_eq (s : State) (d t : Nat) (ib : IBuf) : tdadjBody s (s.tc d t ib) =
    quickly (s.setLt d t ((s.lt d t).setTd (opIdx ib.w.dst)
      (adjusted ((s.lt d t).td (opIdx ib.w.dst)) ib.w.fmt.toNat ((s.lt d t).word ib.w.srca)))) := by
  rw [tdadjBody, TC.sc_eq_word]
  rfl

/-! ### The commands -/

theorem exec_tdld (d : Fin 4) (t : Fin 4096) (w : IFields) (s : State) :
    exec (.tdld d t w) s = .next (issue d t 0x04 w [] tdldBody s) := rfl

theorem exec_tdst (d : Fin 4) (t : Fin 4096) (w : IFields) (s : State) :
    exec (.tdst d t w) s = .next (issue d t 0x05 w [] tdstBody s) := rfl

theorem exec_tdadj (d : Fin 4) (t : Fin 4096) (w : IFields) (s : State) :
    exec (.tdadj d t w) s = .next (issue d t 0x06 w [] tdadjBody s) := rfl

/-- Settles O2: TDLD and TDST by the hazard, the alignment and the place of the 32 bytes that they touch; TDADJ changes its logical tile
and completes at its issue. -/
theorem descriptorMoves : Obligations.DescriptorMoves := by
  unfold Obligations.DescriptorMoves
  intro d t w s x p
  refine ⟨fun htakes => ?load, fun htakes => ?store, fun htakes => ?adjust⟩
  case load =>
    intro a u
    have ha : a = ((s.tc d t ⟨0x04, w, []⟩).x.word w.srca).toNat := rfl
    rw [exec_tdld]
    refine ⟨fun hz => ?_, fun hfree hbad => ?_, fun hfree halign hout => ?_, fun halign hfits hclean hfree => ?_⟩
    · rw [issue_wait d t 0x04 w [] tdldBody s htakes (tdldBody_of_hazard ha hz)]
    · rw [issue_fault d t 0x04 w [] tdldBody s s _ htakes (tdldBody_of_unaligned ha hfree hbad)]
    · rw [issue_fault d t 0x04 w [] tdldBody s s _ htakes (tdldBody_of_outside ha hfree halign hout)]
    · rw [issue_ranges tdldBody _ _ _ _ htakes (clear_tdld ha hfree halign hfits hclean) (tdldBody_eq s _ ha) rfl]
      rfl
  case store =>
    intro a
    have ha : a = ((s.tc d t ⟨0x05, w, []⟩).x.word w.dst).toNat := rfl
    rw [exec_tdst]
    refine ⟨fun hz => ?_, fun hfree hbad => ?_, fun hfree halign hout => ?_, fun halign hfits hfree => ?_⟩
    · rw [issue_wait d t 0x05 w [] tdstBody s htakes (tdstBody_of_hazard ha hz)]
    · rw [issue_fault d t 0x05 w [] tdstBody s s _ htakes (tdstBody_of_unaligned ha hfree hbad)]
    · rw [issue_fault d t 0x05 w [] tdstBody s s _ htakes (tdstBody_of_outside ha hfree halign hout)]
    · rw [issue_ranges tdstBody _ _ _ _ htakes (clear_tdst ha hfree halign hfits) (tdstBody_eq s _ ha) rfl]
      rfl
  case adjust =>
    refine ⟨adjusted (x.td (opIdx w.dst)) w.fmt.toNat (x.word w.srca), ?_, fld_adjusted _ _ _, fun i => getLsbD_adjusted _ _ _⟩
    rw [exec_tdadj, issue_quick_setLt _ htakes (tdadjBody_eq s d t ⟨0x06, w, []⟩) rfl]
    rfl

end Sys2Proof.Machine
end

section
/-! PROOFS. R242, R252, R284: BR. -/

namespace Sys2Proof.Machine

/-- R284: a branch inside its block goes to its target. -/
theorem issue_jump {d : Fin 4} {t : Fin 4096} {op : Nat} {w : IFields} {ups : List Upset} {body : State → TC → TRes} {s : State}
    {a : Nat} (h : s.takes d t op w = true)
    (hb : body s (s.tc d t ⟨op, w, ups⟩) = .ok ⟨s, [], [], [], .plain, true, some a⟩) :
    issue d t op w ups body s = s.jumped d t a := by
  have hfree := takes_hazard s d t op w h
  rw [issue_takes d t op w ups body s h, hb]
  dsimp only
  rw [if_neg (Bool.eq_false_iff.mp hfree)]
  rfl

/-- R284: BR by its target, which is the offset's whole instructions from its own address. -/
theorem brBody_eq (s : State) (k : TC) {tgt : Nat}
    (htgt : tgt = (BitVec.ofInt 64 ((k.x.pc : Int) + 16 * (k.w.imm.setWidth 32).toInt)).toNat) : brBody s k =
    guarded s (need (decide (tgt < k.x.bstart ∨ k.x.bend < tgt)) 0x0D 5) (fun _ => .ok ⟨s, [], [], [], .plain, true, some tgt⟩) := by
  have hoff : fld k.imm 31 0 = (k.w.imm.setWidth 32).toNat := by
    rw [fld_low, TC.imm, BitVec.toNat_setWidth]
  rw [brBody, hoff, branchTo_eq_ofInt, htgt]

theorem exec_br (d : Fin 4) (t : Fin 4096) (w : IFields) (s : State) :
    exec (.br d t w) s = .next (issue d t 0x44 w [] brBody s) := rfl

/-- Settles O3: BR by whether its target lies in its block; one whose predicate is false lets the pc pass. -/
theorem branchTarget : Obligations.BranchTarget := by
  unfold Obligations.BranchTarget
  intro d t w s x tgt
  have hbody := brBody_eq s (s.tc d t ⟨0x44, w, []⟩) (tgt := tgt) rfl
  rw [exec_br]
  refine ⟨fun htakes hlow hhigh => ?_, fun htakes hout => ?_, fun hlooks henc hfree hpred => ?_⟩
  · have hin := need_of_false (decide_eq_false (p := tgt < x.bstart ∨ x.bend < tgt) (by omega)) 0x0D 5
    rw [issue_jump htakes (hbody.trans (guarded_of_good hin _))]
  · have hbad := need_of_true (decide_eq_true hout) 0x0D 5
    rw [issue_fault d t 0x44 w [] brBody s s _ htakes (hbody.trans (guarded_of_fault hbad _))]
  · rw [issue_skipped d t 0x44 w [] brBody s hlooks henc hfree hpred]

end Sys2Proof.Machine
end

section
/-! PROOFS. R254 to R256: LD, ST and MOV. -/

namespace Sys2Proof.Machine

theorem inPane_eq_none_iff (t : Tens) : inPane t = none ↔ t.sp = 0 := by
  unfold inPane need
  by_cases h : t.sp = 0 <;> simp [h]

/-- R255, R488: a movement that nothing stands against finds the operand that must lie in the Pane there. -/
theorem pane_of_move_clear {s : State} {k : TC} {t : Tens} {rds wrs eaten : List Rng}
    (h : s.clear k (moveFaults s k (inPane t)) rds wrs eaten = true) : t.sp = 0 := by
  have hall := lowest_none _ (clear_own s k _ rds wrs eaten h)
  exact (inPane_eq_none_iff t).mp (hall (inPane t) (List.mem_append_left _ (List.mem_cons_self ..)))

/-- R255: a movement that nothing stands against copies its lines and joins the incomplete instructions. -/
theorem issue_move {d : Fin 4} {t : Fin 4096} {op : Nat} {w : IFields} {s : State} (pane : TC → Option TFault)
    (htakes : s.takes d t op w = true)
    (hclear : s.clear (s.tc d t ⟨op, w, []⟩) (moveFaults s (s.tc d t ⟨op, w, []⟩) (pane (s.tc d t ⟨op, w, []⟩)))
      (s.tc d t ⟨op, w, []⟩).moveRds (s.tc d t ⟨op, w, []⟩).moveWrs [] = true) :
    issue d t op w [] (moveBody pane) s =
      ((s.visited (s.tc d t ⟨op, w, []⟩) (s.tc d t ⟨op, w, []⟩).moveRds (s.tc d t ⟨op, w, []⟩).moveWrs).moveLines
        (s.tc d t ⟨op, w, []⟩)).started d t (paneOf (s.tc d t ⟨op, w, []⟩).moveRds) (paneOf (s.tc d t ⟨op, w, []⟩).moveWrs) []
        .plain :=
  issue_ranges (moveBody pane) _ _ [] .plain htakes hclear rfl rfl

theorem exec_ld (d : Fin 4) (t : Fin 4096) (w : IFields) (s : State) :
    exec (.ld d t w) s = .next (issue d t 0x01 w [] (moveBody (fun k => inPane k.tDst)) s) := rfl

theorem exec_st (d : Fin 4) (t : Fin 4096) (w : IFields) (s : State) :
    exec (.st d t w) s = .next (issue d t 0x02 w [] (moveBody (fun k => inPane k.tA)) s) := rfl

theorem exec_mov (d : Fin 4) (t : Fin 4096) (w : IFields) (s : State) :
    exec (.mov d t w) s = .next (issue d t 0x03 w [] (moveBody (fun _ => none)) s) := rfl

/-- Settles O7: the three movements have one course, and differ in the operand that must lie in the Pane. -/
theorem movementsComplete : Obligations.MovementsComplete := by
  unfold Obligations.MovementsComplete
  intro d t w s done
  refine ⟨?ld, ?st, ?mov⟩
  case ld =>
    intro k htakes hclear
    exact ⟨pane_of_move_clear hclear, by rw [exec_ld, issue_move (fun k => inPane k.tDst) htakes hclear]⟩
  case st =>
    intro k htakes hclear
    exact ⟨pane_of_move_clear hclear, by rw [exec_st, issue_move (fun k => inPane k.tA) htakes hclear]⟩
  case mov =>
    intro k htakes hclear
    rw [exec_mov, issue_move (fun _ => none) htakes hclear]

end Sys2Proof.Machine
end

section
/-! PROOFS. R275, R276, R388, R390: CRC and DGST. -/

namespace Sys2Proof.Machine

/-! ### The courses by form -/

/-- R275: the combine forms of CRC read no memory. -/
theorem crcBody_of_combine (s : State) {k : TC} (h : 8 ≤ k.w.fmt.toNat) : crcBody s k =
    .ok ⟨s.onLt k (fun x => x.setCrc (crcPoly (k.w.fmt.toNat % 4)) (opIdx k.w.dst)
        (k.crcJoin (crcPoly (k.w.fmt.toNat % 4)) (k.sc k.w.srcc))),
      [], [], crcRegs (crcPoly (k.w.fmt.toNat % 4)) (opIdx k.w.dst), .plain, false, none⟩ := if_pos h

/-- R275: the feed forms of CRC read the range of the Pane that SRCB and SRCC name. -/
theorem crcBody_of_feed (s : State) {k : TC} (h : k.w.fmt.toNat < 8) : crcBody s k =
    withRanges s k [] [⟨3, 0, k.sc k.w.srcb, k.sc k.w.srcc⟩] [] [⟨3, 0, k.sc k.w.srcb, k.sc k.w.srcc⟩] (fun v =>
      .ok ⟨v.onLt k (fun x => x.setCrc (crcPoly (k.w.fmt.toNat % 4)) (opIdx k.w.dst)
          (crcFeeds (crcPoly (k.w.fmt.toNat % 4)) (k.crcVal (crcPoly (k.w.fmt.toNat % 4)) k.w.srca)
            (pvals (v.paneRead k.p (k.sc k.w.srcb) (k.sc k.w.srcc))))),
        [(k.sc k.w.srcb, k.sc k.w.srcc)], [], crcRegs (crcPoly (k.w.fmt.toNat % 4)) (opIdx k.w.dst), .plain, false, none⟩) :=
  if_neg (Nat.not_le.mpr h)

/-- R247, R252: a feed whose bytes run past the Pane. -/
theorem crcBody_of_outside {s : State} {k : TC} (h : k.w.fmt.toNat < 8)
    (hfree : hazard (s.lt k.d k.t).inc [(k.sc k.w.srcb, k.sc k.w.srcc)] [] [] = false) (hn : k.sc k.w.srcc ≠ 0)
    (hout : 524288 < k.sc k.w.srcb + k.sc k.w.srcc) : crcBody s k = .fault s ⟨4, 3, max (k.sc k.w.srcb) 524288⟩ := by
  have hlow : lowest ([] ++ [paneFault 3 (k.sc k.w.srcb) (k.sc k.w.srcc), none, none, none]) =
      some ⟨4, 3, max (k.sc k.w.srcb) 524288⟩ := by
    rw [paneFault_of_outside hout]
    rfl
  rw [crcBody_of_feed s h, withRanges_fault_paneRead hfree hn (k.sc_lt _) hlow]

/-- R276: DGST reads every line of its tensor, and the record. -/
theorem dgstBody_eq (s : State) (k : TC) : dgstBody s k =
    withRanges s k [k.tA.check, s.planeCheck k k.tA] k.tA.lineAll [] k.tA.lineAll (fun v =>
      .ok ⟨v.onLt k (fun x => x.setPair (opIdx k.w.dst) (crcFeeds (crcPoly 2) (k.crcVal (crcPoly 2) k.w.srcb) (v.canonical k k.tA))),
        paneOf k.tA.lineAll, [], [opIdx k.w.dst, opIdx k.w.dst + 1], .plain, false, none⟩) := rfl

/-! ### The commands -/

theorem exec_crc (d : Fin 4) (t : Fin 4096) (w : IFields) (s : State) :
    exec (.crc d t w) s = .next (issue d t 0x30 w [] crcBody s) := rfl

theorem exec_dgst (d : Fin 4) (t : Fin 4096) (w : IFields) (s : State) :
    exec (.dgst d t w) s = .next (issue d t 0x31 w [] dgstBody s) := rfl

/-- Settles O8: a combine touches no memory; a feed and DGST are withRanges before their effect, and a feed that runs past the Pane
raises the address fault. -/
theorem checkValues : Obligations.CheckValues := by
  unfold Obligations.CheckValues
  refine fun d t w s => ⟨fun htakes => ?crc, fun htakes => ?dgst⟩
  case crc =>
    intro k p i n a
    rw [exec_crc]
    refine ⟨fun hfmt => ?combine, fun hfmt hclear => ?feed, fun hfmt hfree hn hout => ?outside⟩
    case combine =>
      rw [issue_started d t 0x30 w [] crcBody s _ _ _ _ _ htakes (crcBody_of_combine s hfmt) (takes_hazard s d t 0x30 w htakes)]
      rfl
    case feed =>
      rw [issue_ranges crcBody _ _ _ _ htakes hclear (crcBody_of_feed s hfmt) rfl]
      rfl
    case outside => rw [issue_fault d t 0x30 w [] crcBody s s ⟨4, 3, max a 524288⟩ htakes (crcBody_of_outside hfmt hfree hn hout)]
  case dgst =>
    intro k rds i hclear u
    rw [exec_dgst, issue_ranges dgstBody _ _ [i, i + 1] .plain htakes hclear (dgstBody_eq s k) rfl]
    rfl

end Sys2Proof.Machine
end

section
/-! PROOFS. R191 to R193, R258 to R263: MMQ, MMW and LRC. -/

namespace Sys2Proof.Machine

/-- R191: a product whose checksums agree in the end is written. -/
theorem prodGo_of_agrees {k : TC} {x : ProdRun} {u : State} (h : (u.prodCheck k x).2.2 = []) (rds wrs : List Rng) :
    prodGo k x rds wrs u =
      .ok ⟨(u.prodCheck k x).1.prodOut k x (u.liveRow k) (u.prodCheck k x).2.1, paneOf rds, paneOf wrs, [], .plain, false, none⟩ := by
  unfold prodGo
  split
  · rename_i v bumps hv
    rw [hv]
  · rename_i v bumps bad hne hv
    rw [hv] at h
    exact absurd h (by simpa using hne)

/-- R258 to R263: a product over withStored whose operands are good: its run x, compared in the state u, is written when the checksums
agree in the end. -/
theorem issue_product {d : Fin 4} {t : Fin 4096} {op : Nat} {w : IFields} {ups : List Upset} {s : State} {own : List (Option TFault)}
    {ts : List Tens} {rds wrs : List Rng} (body : State → TC → TRes) (go : State → TRes) (u : State) (x : ProdRun)
    (htakes : s.takes d t op w = true)
    (hclear : s.clearStored (s.tc d t ⟨op, w, ups⟩) own ts [] (fun _ => none) rds wrs rds = true)
    (hbody : body s (s.tc d t ⟨op, w, ups⟩) = withStored s (s.tc d t ⟨op, w, ups⟩) own ts [] (fun _ => none) rds wrs rds go)
    (hgo : go (s.visited (s.tc d t ⟨op, w, ups⟩) rds wrs) = prodGo (s.tc d t ⟨op, w, ups⟩) x rds wrs u)
    (hagree : (u.prodCheck (s.tc d t ⟨op, w, ups⟩) x).2.2 = []) :
    issue d t op w ups body s =
      ((u.prodCheck (s.tc d t ⟨op, w, ups⟩) x).1.prodOut (s.tc d t ⟨op, w, ups⟩) x (u.liveRow (s.tc d t ⟨op, w, ups⟩))
        (u.prodCheck (s.tc d t ⟨op, w, ups⟩) x).2.1).started d t (paneOf rds) (paneOf wrs) [] .plain :=
  issue_stored body go _ [] .plain htakes hclear hbody (hgo.trans (prodGo_of_agrees hagree rds wrs))

/-- R119, R258: MMQ's run is formed of the visited state, and compared in the state that its level's mismatch leaves. -/
theorem mmqBody_eq (s : State) (k : TC) {c : MCase} (hc : c = s.mmqCase k) :
    mmqBody s k = withStored s k (mmqFaults s k) [k.tA, k.tB] [] (fun _ => none) (k.mmqRds c) k.tDst.wrRngs (k.mmqRds c) (fun v =>
      prodGo k (v.mmqRun k c) (k.mmqRds c) k.tDst.wrRngs (v.mismatch k.lsel c.entry (decide (c.lev < c.asked)))) := by
  subst hc
  rfl

/-- R119, R263: LRC by the level asked of its layer entry. -/
theorem lrcBody_of_layer {s : State} {k : TC} {n : Nat} (hn : s.layer k.d k.layIdx = some n) :
    lrcBody s k = if s.levelOf k.lsel n < 3 then quickly s else lrcRun3 s k [] n (s.levelOf k.lsel n) := by
  rw [lrcBody, hn]

/-- R263: LRC at level 3, with no faults beside its own. -/
theorem lrcBody_of_level3 {s : State} {k : TC} {n : Nat} (hn : s.layer k.d k.layIdx = some n) (hlev : 3 ≤ s.levelOf k.lsel n) :
    lrcBody s k = withStored s k (lrcFaults s k) [k.tA] [] (fun _ => none) k.lrcRds k.tDst.wrRngs k.lrcRds (fun v =>
      prodGo k (v.lrcRun k) k.lrcRds k.tDst.wrRngs (v.mismatch k.lsel n (decide (3 < s.levelOf k.lsel n)))) := by
  rw [lrcBody_of_layer hn, if_neg (Nat.not_lt.mpr hlev), lrcRun3, List.append_nil]

theorem exec_mmq (d : Fin 4) (t : Fin 4096) (w : IFields) (ups : List Upset) (s : State) :
    exec (.mmq d t w ups) s = .next (issue d t 0x10 w ups mmqBody s) := rfl

theorem exec_mmw (d : Fin 4) (t : Fin 4096) (w : IFields) (ups : List Upset) (s : State) :
    exec (.mmw d t w ups) s = .next (issue d t 0x11 w ups mmwBody s) := rfl

theorem exec_lrc (d : Fin 4) (t : Fin 4096) (w : IFields) (ups : List Upset) (s : State) :
    exec (.lrc d t w ups) s = .next (issue d t 0x12 w ups lrcBody s) := rfl

/-- Settles O9: each product's course is withStored before its checksums, and agreeing checksums come to its output. LRC below level 3
completes at its issue. -/
theorem productsComplete : Obligations.ProductsComplete := by
  unfold Obligations.ProductsComplete
  intro d t w ups s done
  refine ⟨?mmq, ?mmw, ?lrc⟩
  case mmq =>
    intro k c v u htakes hclear hagree
    rw [exec_mmq, issue_product mmqBody _ u (v.mmqRun k c) htakes hclear (mmqBody_eq s k rfl) rfl hagree]
  case mmw =>
    intro k u htakes hclear hagree
    rw [exec_mmw, issue_product mmwBody _ u (u.mmwRun k) htakes hclear rfl rfl hagree]
  case lrc =>
    intro k htakes n hn
    have hbody := lrcBody_of_layer (k := k) hn
    rw [exec_lrc]
    refine ⟨fun hlow => ?low, fun hlev hclear => ?level3⟩
    case low => rw [issue_quick d t 0x12 w ups lrcBody s s htakes (hbody.trans (if_pos hlow))]
    case level3 =>
      intro v u hagree
      rw [issue_product lrcBody _ u (v.lrcRun k) htakes hclear (lrcBody_of_level3 (k := k) hn hlev) rfl hagree]

end Sys2Proof.Machine
end

section
/-! PROOFS. R277, R280, R354: SEND and ARED at their issue. -/

namespace Sys2Proof.Machine

/-- R277: what SEND keeps for its delivery. -/
theorem sendBody_eq (s : State) (k : TC) : sendBody s k = withRanges s k (sendFaults s k) k.tA.lineAll [] [] (fun v =>
    .ok ⟨v, k.tA.pane, if k.sc k.w.srcb = k.t then k.tDst.pane else [], [],
      .send ⟨k.x.td (opIdx k.w.srca), k.x.td (opIdx k.w.dst), k.sc k.w.srcb, k.w.imm.toNat % 16⟩, false, none⟩) := by
  have hcounter : fld k.imm 3 0 = k.w.imm.toNat % 16 := fld_low _ _
  rw [sendBody, hcounter]

theorem exec_send (d : Fin 4) (t : Fin 4096) (w : IFields) (s : State) :
    exec (.send d t w) s = .next (issue d t 0x38 w [] sendBody s) := rfl

theorem exec_ared (d : Fin 4) (t : Fin 4096) (w : IFields) (ups : List Upset) (s : State) :
    exec (.ared d t w ups) s = .next (issue d t 0x3A w ups aredBody s) := rfl

/-- Settles O13: SEND and ARED are withRanges over the lines that they read, and join the incomplete instructions with the whole of
their tensors in the Pane. -/
theorem collectsStart : Obligations.CollectsStart := by
  unfold Obligations.CollectsStart
  refine fun d t w ups s => ⟨?send, ?ared⟩
  case send =>
    intro k tgt dst htakes hclear hfree
    rw [exec_send, issue_ranges_with_pane sendBody _ _ k.tA.pane dst _ htakes hclear (sendBody_eq s k) rfl hfree]
    rfl
  case ared =>
    intro k htakes hclear hfree
    rw [exec_ared, issue_ranges_with_pane aredBody _ _ k.tA.pane [] .ared htakes hclear rfl rfl hfree]

end Sys2Proof.Machine
end

section
/-! PROOFS. R306: the grant windows. -/

namespace Sys2Proof.Machine

/-! ### The louvre rule (R306) -/

section Window
variable {l : Louvre} {c st b : Bool}

/-- Class B is due: the grants left in the window are at most what its floor lacks. -/
def Louvre.bDue (l : Louvre) (b : Bool) : Prop := b = true ∧ 64 - l.n ≤ l.floor - l.b

theorem Louvre.choose_of_bDue (h : l.bDue b) : l.choose c st b = 2 := by
  simp [Louvre.choose, h.1, h.2]

theorem Louvre.choose_of_not_bDue (h : ¬ l.bDue b) :
    l.choose c st b = if c && decide (l.c < l.cap) then 0 else if st then 1 else if b then 2 else 0 :=
  if_neg (by simpa [Louvre.bDue] using h)

theorem Louvre.choose_of_cBelowCap (h : ¬ l.bDue b) (hc : c = true ∧ l.c < l.cap) : l.choose c st b = 0 := by
  rw [Louvre.choose_of_not_bDue h, if_pos (by simpa using hc)]

theorem Louvre.choose_of_not_cBelowCap (h : ¬ l.bDue b) (hc : ¬ (c = true ∧ l.c < l.cap)) :
    l.choose c st b = if st then 1 else if b then 2 else 0 := by
  rw [Louvre.choose_of_not_bDue h, if_neg (by simpa using hc)]

/-- A grant within the window counts up. -/
theorem Louvre.took_of_open (h : l.n < 63) (k : Nat) :
    l.took k = { l with n := l.n + 1, c := l.c + b2n (k == 0), b := l.b + b2n (k == 2) } := by
  have hn : (l.n + 1) % 64 = l.n + 1 := Nat.mod_eq_of_lt (by omega)
  simp only [Louvre.took, hn, if_neg (Nat.ne_of_lt h)]

/-- The 64th grant ends the window. -/
theorem Louvre.took_of_last (h : l.n = 63) (k : Nat) : l.took k = { l with n := 0, c := 0, b := 0 } := by
  simp [Louvre.took, h]

end Window

/-- Settles O21: the choice by whether class B is due and whether class C is below its cap; the count by whether the window ends. -/
theorem windowRule : Obligations.WindowRule := by
  unfold Obligations.WindowRule
  refine fun l c st b _ => ⟨Louvre.choose_of_bDue, fun hdue hc hcap => Louvre.choose_of_cBelowCap hdue ⟨hc, hcap⟩,
    fun hdue hc => ?rest, fun k _ hn => Louvre.took_of_open hn k, fun k _ hn => Louvre.took_of_last hn k⟩
  case rest =>
    rw [Louvre.choose_of_not_cBelowCap hdue hc]
    exact ⟨fun hst => if_pos hst, fun hst hb => by simp [hst, hb], fun hst hb _ => by simp [hst, hb]⟩

end Sys2Proof.Machine
end

section
/-! PROOFS. R297, R300, R305, R306: a Transom slice serves a request, and its scrubber visits a word. -/

namespace Sys2Proof.Machine

section Slice
variable {sl : Fin 16} {s : State} {d : Nat}

/-- R306: the request that a slice grants is one of those that wait. -/
theorem State.mem_of_slicePick {reqs : List TReq} {r : TReq} {l : Louvre} (h : s.slicePick sl d reqs = some (r, l)) : r ∈ reqs := by
  obtain ⟨r', hfind, heq⟩ := Option.map_eq_some_iff.mp h
  cases heq
  exact List.mem_of_find?_eq_some hfind

theorem exec_transomAccess_of_pick {reqs : List TReq} {r : TReq} {l : Louvre} (flips evict : List Nat)
    (hd : s.casOfDie (sl / 4) = some d) (h : s.slicePick sl d (reqs.filter (s.sliceHas sl d)) = some (r, l)) :
    exec (.transomAccess sl reqs flips evict) s = .next
      (({ s with louvres := Assoc.put s.louvres sl l Louvre.reset }.evictLines sl
        ((evict.filter (fun x => decide (x < paSize (s.mask d)) && paSlice (s.mask d) x == sl.val)).map
          (paKey (s.mask d)))).sliceServe sl d r flips) := by
  show execTransomAccess sl reqs flips evict s = _
  simp only [execTransomAccess, hd, h]

/-- R297: the scrubber of slice sl has been granted its visit and has moved on to the next word. -/
def State.transomScrubbed (s : State) (sl : Fin 16) : State :=
  { s.unitGrant sl (sl / 4) .scrub with tscrub := Assoc.put s.tscrub sl ((Assoc.get s.tscrub sl 0 + 1) % 3145728) 0 }

/-- R297: a word of the scratchpad. -/
theorem exec_transomScrubVisit_of_scratch (flips : List Nat) (hd : s.casOfDie (sl / 4) = some d)
    (hw : Assoc.get s.tscrub sl 0 < s.scrWords sl) :
    exec (.transomScrubVisit sl flips) s =
      let k := sl.val * 2 ^ 22 + Assoc.get s.tscrub sl 0
      .next ({ s.transomScrubbed sl with scratch := s.scratch.upsets k flips }.scratchVisit k) := by
  have hkey : scratchKey sl 0 / 8 = sl.val * 2 ^ 22 := by simp only [scratchKey]; omega
  show execTransomScrubVisit sl flips s = _
  simp only [execTransomScrubVisit, hd, Option.isSome_some, if_true, if_pos hw, hkey]
  rfl

/-- R297: a word of a line that the slice holds. -/
theorem exec_transomScrubVisit_of_line (flips : List Nat) {l : Nat} (hd : s.casOfDie (sl / 4) = some d)
    (hw : s.scrWords sl ≤ Assoc.get s.tscrub sl 0) (hl : (s.linesOf sl)[(Assoc.get s.tscrub sl 0 - s.scrWords sl) / 16]? = some l) :
    exec (.transomScrubVisit sl flips) s =
      let k := l * 16 + (Assoc.get s.tscrub sl 0 - s.scrWords sl) % 16
      .next ({ s.transomScrubbed sl with cdata := s.cdata.upsets k flips }.lineTouch sl (8 * k) 8) := by
  have hline : (State.linesOf { s.unitGrant sl (sl / 4) .scrub with
      tscrub := Assoc.put s.tscrub sl ((Assoc.get s.tscrub sl 0 + 1) % 3145728) 0 } sl)[
        (Assoc.get s.tscrub sl 0 - s.scrWords sl) / 16]? = some l := hl
  show execTransomScrubVisit sl flips s = _
  simp only [execTransomScrubVisit, hd, Option.isSome_some, if_true, if_neg (Nat.not_lt.mpr hw), hline]
  rfl

end Slice

/-- Settles O20: the access by the request that the window's rule chooses; the scrubber's visit by where its word lies. -/
theorem sliceServes : Obligations.SliceServes := by
  unfold Obligations.SliceServes
  refine fun sl s d hd => ⟨fun reqs flips evict r l hpick => ?access, fun flips => ?scrub⟩
  case access =>
    have hr := List.mem_filter.mp (State.mem_of_slicePick hpick)
    exact ⟨hr.1, hr.2, exec_transomAccess_of_pick flips evict hd hpick⟩
  case scrub =>
    exact ⟨exec_transomScrubVisit_of_scratch flips hd, fun l => exec_transomScrubVisit_of_line flips hd⟩

end Sys2Proof.Machine
end

section
/-! SUPPORT. HBM chunks: a stack without errors, and what a visit of a chunk leaves as it was (R291, R292). -/

namespace Sys2Proof.Machine

/-! ### Units in error -/

theorem Mem.mem_errUnits {m : Mem} {k n x : Nat} : x ∈ m.errUnits k n ↔ (∃ e ∈ m.err, e.1 / 128 = x) ∧ k ≤ x ∧ x < k + n := by
  simp [Mem.errUnits]

/-- A part of a memory without errors has none. -/
theorem Mem.errUnits_eq_nil_of_subset {m : Mem} {k n k' n' : Nat} (h : m.errUnits k n = []) (hk : k ≤ k') (hn : k' + n' ≤ k + n) :
    m.errUnits k' n' = [] := by
  refine List.eq_nil_iff_forall_not_mem.mpr fun x hx => ?_
  obtain ⟨herr, hlo, hhi⟩ := Mem.mem_errUnits.mp hx
  have : x ∈ m.errUnits k n := Mem.mem_errUnits.mpr ⟨herr, by omega, by omega⟩
  rw [h] at this
  exact absurd this List.not_mem_nil

/-! ### A stack's controller -/

section Stack
variable {s : State} {st : Nat}

theorem hbmKey_stack {off : Nat} (h : off < 2 ^ 36) : hbmKey st off / 2 ^ 36 = st := by unfold hbmKey; omega

/-- R291: a touch of a stack without errors visits nothing. -/
theorem State.hbmTouch_of_clean {off n : Nat} (hup : s.blkDown 2 st = false) (hclean : s.hbm.errUnits (st * 2 ^ 31) (2 ^ 31) = [])
    (h : off + n ≤ 2 ^ 36) : s.hbmTouch (hbmKey st off) n = s := by
  by_cases hn : n = 0
  · exact if_pos hn
  have hst : hbmKey st off / 2 ^ 36 = st := hbmKey_stack (by omega)
  have hnone : s.hbm.errUnits (hbmKey st off / 32) ((hbmKey st off + n - 1) / 32 + 1 - hbmKey st off / 32) = [] :=
    Mem.errUnits_eq_nil_of_subset hclean (by unfold hbmKey; omega) (by unfold hbmKey; omega)
  rw [State.hbmTouch, if_neg hn, hst, hup, hnone]
  rfl

theorem State.hbmInject_of_unarmed {off n : Nat} (h : off < 2 ^ 36) (harm : s.injArmed 7 st = false) :
    s.hbmInject (hbmKey st off) n = s := by
  unfold State.hbmInject
  simp only [hbmKey_stack h, harm, Bool.false_and, Bool.false_eq_true, if_false]

/-- R292: a write to a stack without errors stores its bytes. -/
theorem State.hbmPut_of_clean {off : Nat} {bs : List PByte} (hup : s.blkDown 2 st = false)
    (hclean : s.hbm.errUnits (st * 2 ^ 31) (2 ^ 31) = []) (harm : s.injArmed 7 st = false) (h : off + bs.length ≤ 2 ^ 36) (hne : bs ≠ []) :
    s.hbmPut (hbmKey st off) bs = { s with hbm := s.hbm.writeP 32 (hbmKey st off) bs } := by
  have hn : bs.length ≠ 0 := fun h0 => hne (List.eq_nil_of_length_eq_zero h0)
  have hfirst : s.hbmTouch (hbmKey st off) 1 = s := State.hbmTouch_of_clean hup hclean (by omega)
  have hlast : s.hbmTouch (hbmKey st off + bs.length - 1) 1 = s := by
    rw [show hbmKey st off + bs.length - 1 = hbmKey st (off + bs.length - 1) by unfold hbmKey; omega]
    exact State.hbmTouch_of_clean hup hclean (by omega)
  unfold State.hbmPut
  simp only [hn, if_false, hbmKey_stack (show off < 2 ^ 36 by omega), hup, Bool.false_eq_true, hfirst, hlast, ite_self]
  exact State.hbmInject_of_unarmed (by omega) harm

end Stack

/-- A list read past its end gives the default, whether it is mapped before or after. -/
theorem getD_map_default {α β : Type} (l : List α) (d : α) (f : α → β) (i : Nat) : (l.map f).getD i (f d) = f (l.getD i d) := by
  rw [List.getD_eq_getElem?_getD, List.getD_eq_getElem?_getD, List.getElem?_map]
  exact Option.getD_map f d _

/-- R292: the bytes of a stack after a write to it. -/
theorem State.hbmByte_writeP (s : State) {st off : Nat} (bs : List PByte) (h : off + bs.length ≤ 2 ^ 36) {q x : Nat} (hx : x < 2 ^ 36) :
    ({ s with hbm := s.hbm.writeP 32 (hbmKey st off) bs } : State).hbmByte q x =
      if q = st ∧ off ≤ x ∧ x < off + bs.length then BitVec.ofNat 8 ((pvals bs).getD (x - off) 0) else s.hbmByte q x := by
  unfold State.hbmByte
  dsimp only
  rw [Mem.get_writeP]
  by_cases hin : q = st ∧ off ≤ x ∧ x < off + bs.length
  · rw [if_pos hin, if_pos (by obtain ⟨rfl, _, _⟩ := hin; unfold hbmKey; omega)]
    obtain ⟨rfl, _, _⟩ := hin
    rw [show hbmKey q x - hbmKey q off = x - off by unfold hbmKey; omega]
    exact getD_map_default _ 0 (BitVec.ofNat 8) _
  · rw [if_neg hin, if_neg (by unfold hbmKey; omega)]

/-- The values of bytes as a command brings them. -/
theorem pvals_stored (bytes : List Nat) (poison : Bool) : pvals (bytes.map (fun b => (b % 256, poison))) = bytes.map (· % 256) :=
  List.map_map

theorem ofNat_byte (n : Nat) : BitVec.ofNat 8 (n % 256) = BitVec.ofNat 8 n :=
  BitVec.eq_of_toNat_eq (by rw [BitVec.toNat_ofNat, BitVec.toNat_ofNat]; exact Nat.mod_mod n 256)

/-! ### A visit of a chunk -/

theorem State.sameButRings_setReg (s : State) (k : Nat) (v : Word) : s.SameButRings (s.setReg k v) := ⟨_, _, _, _, _, rfl⟩

theorem State.SameButRings.ite {s t u : State} {c : Prop} [Decidable c] (ht : s.SameButRings t) (hu : s.SameButRings u) :
    s.SameButRings (if c then t else u) := by
  split <;> assumption

/-- R291, R296: a visit writes the chunk back, counts what it found, and raises its event. -/
theorem State.hbmVisit_sameButRings (s : State) (k : Nat) : ∃ m, State.SameButRings { s with hbm := m } (s.hbmVisit k) := by
  unfold State.hbmVisit
  obtain ⟨m, r, lane, inj⟩ := s.hbm.rsVisit k
  refine ⟨m, .ite (.refl _) (.trans (.ite (.trans ?_ (State.sameButRings_setReg _ _ _)) ?_) (State.sameButRings_post _ _))⟩
  all_goals
    exact .trans (.ite (State.sameButRings_setReg _ _ _) (State.sameButRings_setReg _ _ _)) (State.sameButRings_setReg _ _ _)

/-- R294: a visit leaves the scrubbers where they are. -/
theorem State.hbmVisit_hscrub (s : State) (k : Nat) : (s.hbmVisit k).hscrub = s.hscrub := by
  obtain ⟨m, _, _, _, _, _, h⟩ := s.hbmVisit_sameButRings k
  rw [h]

theorem State.foldl_hbmVisit_hscrub (l : List Nat) (s : State) : (l.foldl State.hbmVisit s).hscrub = s.hscrub := by
  induction l generalizing s with
  | nil => rfl
  | cons k l ih => rw [List.foldl_cons, ih, State.hbmVisit_hscrub]

end Sys2Proof.Machine
end

section
/-! PROOFS. R291 to R294, R306: reads, writes, refresh and patrol scrubbing of HBM. -/

namespace Sys2Proof.Machine

section Commands
variable {st : Fin 24} {s v : State}

theorem exec_hbmRead_of_granted {c : Nat} {kind : TKind} {waiting : List TKind} (errs : List (Nat × Nat))
    (hup : s.blkDown 2 st = false) (hc : c < 2 ^ 31) (h : s.hbmGrant st kind waiting = some v) :
    exec (.hbmRead st c kind waiting errs) s =
      .next ({ v with hbm := v.hbm.symErrs (st * 2 ^ 31 + c) errs }.hbmVisit (st * 2 ^ 31 + c)) := by
  show execHbmRead st c kind waiting errs s = _
  rw [execHbmRead, if_neg (by rw [hup]; exact Bool.false_ne_true), if_pos hc, h]

/-- R306: a read waits while another class is served. -/
theorem exec_hbmRead_of_waits {c : Nat} {kind : TKind} {waiting : List TKind} (errs : List (Nat × Nat))
    (hup : s.blkDown 2 st = false) (hc : c < 2 ^ 31) (h : s.hbmGrant st kind waiting = none) :
    exec (.hbmRead st c kind waiting errs) s = .next s := by
  show execHbmRead st c kind waiting errs s = _
  rw [execHbmRead, if_neg (by rw [hup]; exact Bool.false_ne_true), if_pos hc, h]

theorem exec_hbmWrite_of_granted {off : Nat} {kind : TKind} {waiting : List TKind} {bytes : List Nat} (poison : Bool)
    (hup : s.blkDown 2 st = false) (hoff : off + bytes.length ≤ 2 ^ 36) (h : s.hbmGrant st kind waiting = some v) :
    exec (.hbmWrite st off kind waiting bytes poison) s = .next (v.hbmPut (hbmKey st off) (bytes.map (fun b => (b % 256, poison)))) := by
  show execHbmWrite st off kind waiting bytes poison s = _
  rw [execHbmWrite, if_neg (by rw [hup]; exact Bool.false_ne_true), if_pos hoff, h]

/-- R305, R306: a grant counts in the window of its controller. -/
theorem State.eq_unitGrant_of_hbmGrant {st : Nat} {kind : TKind} {waiting : List TKind} (h : s.hbmGrant st kind waiting = some v) :
    v = s.unitGrant (16 + st) (st / 6) kind := by
  unfold State.hbmGrant at h
  dsimp only at h
  split at h
  · exact (Option.some.inj h).symm
  · exact absurd h.symm (Option.some_ne_none v)

/-- R294: the patrol scrubber of stack st has been granted its visit of pseudo-channel pc, whose first chunk errs strike, and has
moved on by n chunks. -/
def State.patrolled (s : State) (st : Fin 24) (pc : Fin 64) (errs : List (Nat × Nat)) : State :=
  { s.unitGrant (16 + st) (st / 6) .scrub with
    hbm := s.hbm.symErrs (st * 2 ^ 31 + pcChunk pc (Assoc.get s.hscrub (st.val * 64 + pc.val) 0)) errs
    hscrub := Assoc.put s.hscrub (st.val * 64 + pc.val)
      ((Assoc.get s.hscrub (st.val * 64 + pc.val) 0 + 2 ^ s.rf (rMem st 0x20) 7 4) % 2 ^ 25) 0 }

/-- R294: the scrubber visits chunks in error of its stack. -/
theorem exec_hbmPatrolScrub_of_enabled (pc : Fin 64) (errs : List (Nat × Nat)) (hen : s.rf (rMem st 0x20) 0 0 = 1)
    (hup : s.blkDown 2 st = false) : ∃ l : List Nat, (∀ k ∈ l, k ∈ (s.patrolled st pc errs).hbm.errUnits (st * 2 ^ 31) (2 ^ 31)) ∧
      exec (.hbmPatrolScrub st pc errs) s = .next (l.foldl State.hbmVisit (s.patrolled st pc errs)) := by
  have hgo : ¬ (s.rf (rMem st 0x20) 0 0 = 0 ∨ s.blkDown 2 st = true) := by simp [hen, hup]
  refine ⟨_, ?_, (show execHbmPatrolScrub st pc errs s = _ by rw [execHbmPatrolScrub, if_neg hgo]; rfl)⟩
  intro k hk
  rcases List.mem_append.mp hk with hk | hk <;> exact (List.mem_filter.mp (List.mem_filter.mp hk).1).1

end Commands

/-- Settles O22: a read and a write by their grant; the patrol scrubber visits chunks in error only, and a visit leaves the scrubbers'
places. -/
theorem hbmAccess : Obligations.HbmAccess := by
  unfold Obligations.HbmAccess
  refine ⟨fun st s => ⟨?read, ?refresh, ?patrol⟩, ?write⟩
  case read =>
    intro c kind waiting errs hup hc
    exact ⟨fun v => exec_hbmRead_of_granted errs hup hc, exec_hbmRead_of_waits errs hup hc⟩
  case refresh => exact fun temp => ⟨rfl, rfl⟩
  case patrol =>
    intro pc errs hen hup key i'
    refine ⟨?moves, fun hclean => ?leaves⟩
    case moves =>
      obtain ⟨l, -, hexec⟩ := exec_hbmPatrolScrub_of_enabled pc errs hen hup
      refine ⟨_, hexec, ?_⟩
      rw [State.foldl_hbmVisit_hscrub]
      exact Assoc.get_put_self _ _ _ _
    case leaves =>
      obtain ⟨l, hl, hexec⟩ := exec_hbmPatrolScrub_of_enabled pc [] hen hup
      have hnil : l = [] := List.eq_nil_iff_forall_not_mem.mpr fun k hk => by
        have hmem : k ∈ s.hbm.errUnits (st * 2 ^ 31) (2 ^ 31) := hl k hk
        rw [hclean] at hmem
        exact absurd hmem List.not_mem_nil
      rw [hexec, hnil]
      rfl
  case write =>
    intro st off kind waiting bytes poison s v hoff hup harm hclean hv
    have hexec := exec_hbmWrite_of_granted poison hup hoff hv
    obtain rfl := State.eq_unitGrant_of_hbmGrant hv
    by_cases hne : bytes = []
    · subst hne
      refine ⟨_, hexec, rfl, fun q x _ => ?_⟩
      rw [if_neg (by simp only [List.length_nil]; omega)]
      rfl
    · have hlen : off + (bytes.map (fun b => (b % 256, poison))).length ≤ 2 ^ 36 := by rwa [List.length_map]
      have hput := State.hbmPut_of_clean (s := s.unitGrant (16 + st) (st / 6) kind) hup hclean harm hlen
        (fun h => hne (List.map_eq_nil_iff.mp h))
      refine ⟨_, hexec.trans (congrArg _ hput), rfl, fun q x hx => ?_⟩
      rw [State.hbmByte_writeP _ _ hlen hx, List.length_map, pvals_stored, getD_map_default bytes 0 (· % 256), ofNat_byte]
      rfl

end Sys2Proof.Machine
end

section
/-! PROOFS. R307, R316 to R320, R324, R489: page-out, page-in, prefetch, and host data that did not arrive in time. -/

namespace Sys2Proof.Machine

/-! ### A paging action at the hub (R307, R324) -/

section Paging
variable {s : State} {d : Nat} {e : PageEnv}

theorem State.paging_eq_true (hexist : (s.casement d).exist = true) (hup : s.blkDown 7 10 = false) : s.paging d = true := by
  rw [State.paging, hexist, clsBlock, hup]
  rfl

/-- R307: the hub's answer to a request. -/
theorem State.hubGrant_eq {os : List Nat} {granted : Bool} (h : (s.hubGrant d os).1 = granted) :
    s.hubGrant d os = (granted, (s.hubGrant d os).2) := Prod.ext h rfl

theorem State.pagingAct_of_granted (h : (s.hubGrant d e.others).1 = true) (go : State → State) :
    s.pagingAct d e go = go ((s.hubGrant d e.others).2.dropEntries d e.frBad e.hostBad) := by
  rw [State.pagingAct, State.hubGrant_eq h]

/-- R307: the action waits while the hub serves another casement. -/
theorem State.pagingAct_of_waits (h : (s.hubGrant d e.others).1 = false) (go : State → State) :
    s.pagingAct d e go = (s.hubGrant d e.others).2 := by
  rw [State.pagingAct, State.hubGrant_eq h]

/-- R318: a page-in that finds its frame, and the instructions that waited for it. -/
theorem State.bringIn_of_some {v : Nat} {demand : Bool} {u : State} (hframe : s.freeFrames d = 0 → s.victimPoison d 1 [] = none)
    (h : s.pageIn d v demand = some u) : s.bringIn d v demand = u.pumpAll d := by
  have hsound : (if s.freeFrames d = 0 then s.victimPoison d 1 [] else none) = none := by
    split
    · exact hframe ‹_›
    · rfl
  rw [State.bringIn, hsound, h]

end Paging

section Commands
variable {d : Fin 4} {e : PageEnv} {s v : State}

/-- R316, R317: a page-out at the hub's grant. -/
theorem exec_pageOut_of_granted (hpaging : s.paging d = true) (hlow : s.freeFrames d < s.rf (rPga d 0xC) 15 0)
    (hgrant : (s.hubGrant d e.others).1 = true) (hv : v = (s.hubGrant d e.others).2.dropEntries d e.frBad e.hostBad)
    (hsound : v.victimPoison d 1 [] = none) : exec (.pageOut d e) s = .next (v.pageOut d) := by
  subst hv
  show execPageOut d e s = _
  simp only [execPageOut, hpaging, hlow, decide_true, Bool.and_self, if_true, State.pagingAct_of_granted hgrant, hsound]

/-- R307: a page-out waits while the hub serves another casement. -/
theorem exec_pageOut_of_waits (hpaging : s.paging d = true) (hlow : s.freeFrames d < s.rf (rPga d 0xC) 15 0)
    (hgrant : (s.hubGrant d e.others).1 = false) : exec (.pageOut d e) s = .next (s.hubGrant d e.others).2 := by
  show execPageOut d e s = _
  simp only [execPageOut, hpaging, hlow, decide_true, Bool.and_self, if_true, State.pagingAct_of_waits hgrant]

/-- R318: a demand page-in at the hub's grant. -/
theorem exec_pageInDemand_of_granted {va : Nat} {u : State} (hpaging : s.paging d = true) (hva : va < 2 ^ 48)
    (hout : s.pagedOut d (va / frameBytes) = true) (hgrant : (s.hubGrant d e.others).1 = true)
    (hv : v = (s.hubGrant d e.others).2.dropEntries d e.frBad e.hostBad) (hsound : v.walkPoison d (va / frameBytes) = none)
    (hframe : v.freeFrames d = 0 → v.victimPoison d 1 [] = none) (hin : v.pageIn d (va / frameBytes) true = some u) :
    exec (.pageInDemand d va e) s = .next (u.pumpAll d) := by
  subst hv
  show execPageInDemand d va e s = _
  simp only [execPageInDemand, hpaging, hva, hout, decide_true, Bool.true_or, Bool.and_self, if_true,
    State.pagingAct_of_granted hgrant, hsound, State.bringIn_of_some hframe hin]

/-- R320: a prefetch at the hub's grant. -/
theorem exec_pageInPrefetch_of_granted {w : Nat} {u : State} (hpaging : s.paging d = true) (hen : s.rf (rPga d 0x10) 0 0 = 1)
    (hhigh : s.rf (rPga d 0xC) 31 16 ≤ s.freeFrames d) (hnext : s.prefetchPage d = some w)
    (hgrant : (s.hubGrant d e.others).1 = true) (hv : v = (s.hubGrant d e.others).2.dropEntries d e.frBad e.hostBad)
    (hsound : v.walkPoison d w = none) (hframe : v.freeFrames d = 0 → v.victimPoison d 1 [] = none)
    (hin : v.pageIn d w false = some u) : exec (.pageInPrefetch d e) s = .next (u.pumpAll d) := by
  subst hv
  show execPageInPrefetch d e s = _
  simp only [execPageInPrefetch, hpaging, hen, hhigh, hnext, beq_self_eq_true, decide_true, Bool.and_self, if_true,
    State.pagingAct_of_granted hgrant, hsound, State.bringIn_of_some hframe hin]

end Commands

/-! ### Host data that did not arrive in time (R489) -/

section Timeout
variable {d : Fin 4} {n : Nat} {s : State}

/-- R489: n poisoned free bytes. -/
def State.lostBytes (s : State) (n : Nat) : List PByte := (List.range n).map (fun i => ((Config.freeByte (s.free + i)).toNat, true))

/-- The free values of n bytes have been drawn. -/
def State.drawn (s : State) (n : Nat) : State := { s with free := s.free + n }

/-- R489: the timeout shows in AER's status of casement d's owner, and raises its event. -/
def State.timedOut (s : State) (d : Nat) : State :=
  (s.aerSet (s.casement d).owner aerTimeout).post { kind := 7, unit := d, ctag := s.tagOf d }

theorem lostBytes_eq (s : State) (n : Nat) :
    (rangeFrom s.free n).map (fun i => ((Config.freeByte i).toNat, true)) = s.lostBytes n := by
  rw [rangeFrom, List.map_map]
  rfl

theorem exec_completionTimeout_pane (hexist : (s.casement d).exist = true) (p off : Nat) :
    exec (.completionTimeout d (.pane p off) n) s =
      .next (if p < 640 ∧ bit (s.mask d) (dieOfTile p) = true ∧ off + n ≤ 2 ^ 19 then
        ((s.drawn n).paneWrite p off (s.lostBytes n)).timedOut d else s) := by
  show execCompletionTimeout d (.pane p off) n s = _
  simp only [execCompletionTimeout, hexist, lostBytes_eq]
  rfl

theorem exec_completionTimeout_spad (hexist : (s.casement d).exist = true) (off : Nat) :
    exec (.completionTimeout d (.spad off) n) s =
      .next (if off + n ≤ s.partSize d then ((s.drawn n).spadWrite d off (s.lostBytes n)).timedOut d else s) := by
  show execCompletionTimeout d (.spad off) n s = _
  simp only [execCompletionTimeout, hexist, lostBytes_eq]
  rfl

theorem exec_completionTimeout_hbm (hexist : (s.casement d).exist = true) (x : Nat) :
    exec (.completionTimeout d (.hbm x) n) s =
      .next (if x % 32 = 0 ∧ n % 32 = 0 ∧ x + n ≤ paSize (s.mask d) then
        (((s.drawn n).paWrite d x (s.lostBytes n) .demandIn).raise (rPga d 0x20) 3).timedOut d else s) := by
  show execCompletionTimeout d (.hbm x) n s = _
  simp only [execCompletionTimeout, hexist, lostBytes_eq]
  rfl

end Timeout

/-- Settles O23: each paging action by the hub's grant; the timeout by what the bytes were to fill. -/
theorem pagingSteps : Obligations.PagingSteps := by
  unfold Obligations.PagingSteps
  refine ⟨?paging, ?timeout⟩
  case paging =>
    intro d e s hexist hup v
    have hpaging : s.paging d = true := State.paging_eq_true hexist hup
    refine ⟨fun hgrant hframe => ⟨fun hlow hsound => ?out, fun va u hva hout hsound hin => ?demand,
      fun w u hen hhigh hnext hsound hin => ?prefetch⟩, fun hgrant hlow => ?waits⟩
    case out => exact exec_pageOut_of_granted hpaging hlow hgrant rfl hsound
    case demand => exact exec_pageInDemand_of_granted hpaging hva hout hgrant rfl hsound hframe hin
    case prefetch => exact exec_pageInPrefetch_of_granted hpaging hen hhigh hnext hgrant rfl hsound hframe hin
    case waits => exact exec_pageOut_of_waits hpaging hlow hgrant
  case timeout =>
    intro d n s hexist bs v ev
    refine ⟨fun p off hp hoff => ⟨fun hdie => ?inside, fun hdie => ?outside⟩, fun off hoff => ?spad, fun x hx hn hsize => ?hbm⟩
    case inside => exact (exec_completionTimeout_pane hexist p off).trans (congrArg _ (if_pos ⟨hp, by rwa [bit_eq], hoff⟩))
    case outside =>
      refine (exec_completionTimeout_pane hexist p off).trans (congrArg _ (if_neg fun ⟨_, hin, _⟩ => ?_))
      rw [bit_eq, hdie] at hin
      exact Bool.false_ne_true hin
    case spad => exact (exec_completionTimeout_spad hexist off).trans (congrArg _ (if_pos hoff))
    case hbm => exact (exec_completionTimeout_hbm hexist x).trans (congrArg _ (if_pos ⟨hx, hn, hsize⟩))

end Sys2Proof.Machine
end

section
/-! PROOFS. R307, R393, R395, R396, R420: BAR4 and configuration requests. -/

namespace Sys2Proof.Machine

/-! ### BAR4 (R307, R420) -/

section Bar4
variable {f : Fin 16} {s : State} {d off : Nat} {os : List Nat}

theorem exec_bar4Read_of_down (hr : s.reaches (.fn f) = true) (hup : s.bar4Up f = false) (n : Nat) :
    exec (.bar4Read f off n os) s = .next (s.refuseTlp f) := by
  show execBar4Read f off n os s = _
  simp [execBar4Read, hr, hup]

theorem exec_bar4Write_of_down (hr : s.reaches (.fn f) = true) (hup : s.bar4Up f = false) (bytes : List Nat) (psn : Bool) :
    exec (.bar4Write f off bytes psn os) s = .next (s.refuseTlp f) := by
  show execBar4Write f off bytes psn os s = _
  simp [execBar4Write, hr, hup]

theorem exec_bar4Read_of_noCasement (hr : s.reaches (.fn f) = true) (hup : s.bar4Up f = true) (hd : s.bar4Cas f = none) (n : Nat) :
    exec (.bar4Read f off n os) s = .next (s.bar4Bad f off none) := by
  show execBar4Read f off n os s = _
  simp [execBar4Read, hr, hup, hd]

theorem exec_bar4Write_of_noCasement (hr : s.reaches (.fn f) = true) (hup : s.bar4Up f = true) (hd : s.bar4Cas f = none)
    (bytes : List Nat) (psn : Bool) : exec (.bar4Write f off bytes psn os) s = .next (s.bar4Bad f off none) := by
  show execBar4Write f off bytes psn os s = _
  simp [execBar4Write, hr, hup, hd]

/-- R396, R420: a range is served that lies in the BAR and in the stacks of the casement it shows. -/
theorem bar4_beyond_iff {bar size n : Nat} : bar < n ∨ size < n ↔ min bar size < n := by omega

section Shown
variable (hr : s.reaches (.fn f) = true) (hup : s.bar4Up f = true) (hd : s.bar4Cas f = some d)
include hr hup hd

theorem exec_bar4Read_of_beyond {n : Nat} (h : min (s.bar4Size f) (paSize (s.mask d)) < off + n) :
    exec (.bar4Read f off n os) s = .next (s.bar4Bad f off (some d)) := by
  show execBar4Read f off n os s = _
  simp only [execBar4Read, hr, hup, hd, bar4_beyond_iff, h, Bool.not_true, Bool.false_eq_true, if_true, if_false]

theorem exec_bar4Write_of_beyond {bytes : List Nat} (h : min (s.bar4Size f) (paSize (s.mask d)) < off + bytes.length) (psn : Bool) :
    exec (.bar4Write f off bytes psn os) s = .next (s.bar4Bad f off (some d)) := by
  show execBar4Write f off bytes psn os s = _
  simp only [execBar4Write, hr, hup, hd, bar4_beyond_iff, h, Bool.not_true, Bool.false_eq_true, if_true, if_false]

theorem exec_bar4Read_of_waits {n : Nat} (h : off + n ≤ min (s.bar4Size f) (paSize (s.mask d))) (hgrant : (s.hubGrant d os).1 = false) :
    exec (.bar4Read f off n os) s = .next (s.hubGrant d os).2 := by
  show execBar4Read f off n os s = _
  simp only [execBar4Read, hr, hup, hd, bar4_beyond_iff, Nat.not_lt.mpr h, Bool.not_true, Bool.false_eq_true, if_false]
  rw [State.hubGrant_eq hgrant]

theorem exec_bar4Write_of_waits {bytes : List Nat} (h : off + bytes.length ≤ min (s.bar4Size f) (paSize (s.mask d)))
    (hgrant : (s.hubGrant d os).1 = false) (psn : Bool) : exec (.bar4Write f off bytes psn os) s = .next (s.hubGrant d os).2 := by
  show execBar4Write f off bytes psn os s = _
  simp only [execBar4Write, hr, hup, hd, bar4_beyond_iff, Nat.not_lt.mpr h, Bool.not_true, Bool.false_eq_true, if_false]
  rw [State.hubGrant_eq hgrant]

/-- R420, R324: a read that the hub grants; a poisoned one raises an event. -/
theorem exec_bar4Read_of_granted {n : Nat} (h : off + n ≤ min (s.bar4Size f) (paSize (s.mask d))) (hgrant : (s.hubGrant d os).1 = true) :
    exec (.bar4Read f off n os) s =
      let u := (s.hubGrant d os).2.paTouch d off n .bar4Read
      let bs := u.paRead d off n
      let v := u.emit (.bar4 f off (pvals bs) (ppsn bs))
      .next (if ppsn bs then v.post { kind := 7, ctag := s.tagOf d, unit := f, info := off } else v) := by
  show execBar4Read f off n os s = _
  simp only [execBar4Read, hr, hup, hd, bar4_beyond_iff, Nat.not_lt.mpr h, Bool.not_true, Bool.false_eq_true, if_false]
  rw [State.hubGrant_eq hgrant]

theorem exec_bar4Write_of_granted {bytes : List Nat} (h : off + bytes.length ≤ min (s.bar4Size f) (paSize (s.mask d)))
    (hgrant : (s.hubGrant d os).1 = true) (psn : Bool) :
    exec (.bar4Write f off bytes psn os) s =
      .next ((if psn then (s.hubGrant d os).2.aerSet f aerPoison else (s.hubGrant d os).2).paWrite d off
        (bytes.map (fun b => (b, psn))) .bar4Write) := by
  show execBar4Write f off bytes psn os s = _
  simp only [execBar4Write, hr, hup, hd, bar4_beyond_iff, Nat.not_lt.mpr h, Bool.not_true, Bool.false_eq_true, if_false]
  rw [State.hubGrant_eq hgrant]

end Shown
end Bar4

/-! ### Configuration requests (R393, R395) -/

/-- R395: a write has left v of a word of function f's configuration space. -/
def State.cfgPut (s : State) (f off v : Nat) : State := { s with cfgs := Assoc.put s.cfgs (cfgKey f off) (v + 1) 0 }

section Config
variable {f : Fin 16} {s : State}

theorem exec_configRequest_of_unloaded (r : CfgReq) (hlink : s.boot.link = true) (hcfg : s.boot.cfg = false) :
    exec (.configRequest f r) s = .next (s.emit (.cfg f true 0)) := by
  show execConfigRequest f r s = _
  simp [execConfigRequest, hlink, hcfg]

theorem State.cfgAt_of_unwritten {off : Nat} (h : Assoc.get s.cfgs (cfgKey f off) 0 = 0) : s.cfgAt f off = Config.cfgWord (cfgKey f off) := by
  rw [State.cfgAt, h]

theorem State.cfgAt_cfgPut (off v : Nat) : (s.cfgPut f off v).cfgAt f off = v := by
  simp only [State.cfgAt, State.cfgPut, Assoc.get_put_self]

section Loaded
variable (hlink : s.boot.link = true) (hcfg : s.boot.cfg = true)
include hlink hcfg

theorem exec_configRequest_read (off : Nat) : exec (.configRequest f (.read off)) s = .next (s.emit (.cfg f false (s.cfgAt f off))) := by
  show execConfigRequest f (.read off) s = _
  simp [execConfigRequest, hlink, hcfg]

theorem exec_configRequest_write (off v : Nat) : exec (.configRequest f (.write off v)) s =
    .next ((s.cfgPut f off (Config.cfgWrite (cfgKey f off) (s.cfgAt f off) v)).emit (.cfg f false 0)) := by
  show execConfigRequest f (.write off v) s = _
  simp [execConfigRequest, hlink, hcfg, State.cfgPut]

theorem exec_configRequest_aerRead : exec (.configRequest f .aerRead) s = .next (s.emit (.cfg f false (s.fn f).aer)) := by
  show execConfigRequest f .aerRead s = _
  simp [execConfigRequest, hlink, hcfg]

theorem exec_configRequest_aerClear (b : Nat) : exec (.configRequest f (.aerClear b)) s =
    .next ((s.setFn f { s.fn f with aer := (s.fn f).aer - ((s.fn f).aer &&& b) }).emit (.cfg f false 0)) := by
  show execConfigRequest f (.aerClear b) s = _
  simp [execConfigRequest, hlink, hcfg]

theorem exec_configRequest_bar4 {n : Nat} (hmin : 30 ≤ n) (hmax : n ≤ 41) : exec (.configRequest f (.bar4 n)) s =
    .next ((s.setFn f { s.fn f with bar4 := n }).emit (.cfg f false 0)) := by
  show execConfigRequest f (.bar4 n) s = _
  simp [execConfigRequest, hlink, hcfg, hmin, hmax]

theorem exec_configRequest_power (b : Bool) : exec (.configRequest f (.power b)) s =
    .next ((s.setFn f { s.fn f with d3 := b }).emit (.cfg f false 0)) := by
  show execConfigRequest f (.power b) s = _
  simp [execConfigRequest, hlink, hcfg]

end Loaded
end Config

/-- Settles O49: a request of BAR4 by the first of its checks that fails, then by the hub's grant; a configuration request by its
kind. -/
theorem hostWindows : Obligations.HostWindows := by
  unfold Obligations.HostWindows
  refine fun f s => ⟨?bar4, fun r hlink hcfg => exec_configRequest_of_unloaded r hlink hcfg, fun hlink hcfg => ?config⟩
  case bar4 =>
    intro off bytes n d os psn hr ur bad
    refine ⟨fun hup => ⟨exec_bar4Read_of_down hr hup n, exec_bar4Write_of_down hr hup bytes psn⟩,
      fun hup hd => ⟨exec_bar4Read_of_noCasement hr hup hd n, exec_bar4Write_of_noCasement hr hup hd bytes psn⟩,
      fun hup hd => ?shown⟩
    intro size w
    refine ⟨exec_bar4Read_of_beyond hr hup hd, fun h => exec_bar4Write_of_beyond hr hup hd h psn,
      exec_bar4Read_of_waits hr hup hd, fun h hgrant => exec_bar4Write_of_waits hr hup hd h hgrant psn,
      fun h hgrant => ?read, fun h hgrant => ?write⟩
    case read =>
      have hexec := exec_bar4Read_of_granted hr hup hd h hgrant
      exact ⟨fun hclean => hexec.trans (congrArg _ (if_neg (by rw [hclean]; exact Bool.false_ne_true))),
        fun hpoison => hexec.trans (congrArg _ (if_pos hpoison))⟩
    case write =>
      have hexec := exec_bar4Write_of_granted hr hup hd h hgrant psn
      exact ⟨fun hclean => by subst hclean; exact hexec, fun hpoison => by subst hpoison; exact hexec⟩
  case config =>
    refine ⟨fun off hoff => ?read, fun off v => ?write, exec_configRequest_aerRead hlink hcfg, fun b => ?clear, fun n hmin hmax => ?bar4,
      exec_configRequest_power hlink hcfg⟩
    case read => rw [exec_configRequest_read hlink hcfg off, State.cfgAt_of_unwritten hoff]; rfl
    case write =>
      exact ⟨_, exec_configRequest_write hlink hcfg off v, rfl, State.cfgAt_cfgPut off _⟩
    case clear =>
      refine ⟨_, exec_configRequest_aerClear hlink hcfg b, fun i => ?_⟩
      rw [State.emit_fn, State.fn_setFn_self, bit_eq, bit_eq, bit_eq, testBit_sub_and]
    case bar4 =>
      refine ⟨_, exec_configRequest_bar4 hlink hcfg hmin hmax, ?_⟩
      rw [State.bar4Size, State.emit_fn, State.fn_setFn_self]

end Sys2Proof.Machine
end

section
/-! PROOFS. R310 to R312, R411: MAP, UNMAP and HOSTFR. -/

namespace Sys2Proof.Machine

/-! ### The commands -/

section Commands
variable {f : Fin 16} {s u : State} {k : Cmd} {d st res : Nat}

theorem exec_map_of_done (hrun : s.casRun f k 0x30 (maskOf [(63, 0), (95, 64), (99, 96), (147, 128)]) false notStopped d)
    (hva : vaOk (k.f 63 0) (k.f 95 64) = true)
    (h : s.mapRange d (k.f 63 0) (k.f 95 64) (k.f 99 96) (if k.f 96 96 = 1 then k.f 147 128 else 0) = .done u st res) :
    exec (.map f) s = .next (u.finish f k st res) := by
  have ⟨hfront, htype, _⟩ := hrun
  have hcmd := (State.casCmd_of_casRun hrun hva fun s d =>
    s.mapRange d (k.f 63 0) (k.f 95 64) (k.f 99 96) (if k.f 96 96 = 1 then k.f 147 128 else 0)).trans h
  exact congrArg _ (State.runCmd_of_done hfront htype hcmd)

theorem exec_unmap_of_done (hrun : s.casRun f k 0x31 (maskOf [(63, 0), (95, 64)]) false notStopped d)
    (hva : vaOk (k.f 63 0) (k.f 95 64) = true) (h : s.unmapRange d (k.f 63 0) (k.f 95 64) = .done u st res) :
    exec (.unmap f) s = .next (u.finish f k st res) := by
  have ⟨hfront, htype, _⟩ := hrun
  have hcmd := (State.casCmd_of_casRun hrun hva fun s d => s.unmapRange d (k.f 63 0) (k.f 95 64)).trans h
  exact congrArg _ (State.runCmd_of_done hfront htype hcmd)

theorem exec_hostfr_of_done (hrun : s.casRun f k 0x32 (maskOf [(63, 0), (83, 64), (127, 96)]) false notStopped d)
    (hmin : 1 ≤ k.f 127 96) (hmax : k.f 83 64 + k.f 127 96 ≤ 2 ^ 20)
    (h : s.hostFr d (k.f 63 0) (k.f 83 64) (k.f 127 96) = .done u st res) :
    exec (.hostfr f) s = .next (u.finish f k st res) := by
  have ⟨hfront, htype, _⟩ := hrun
  have hrange : decide (1 ≤ k.f 127 96 ∧ k.f 83 64 + k.f 127 96 ≤ 2 ^ 20) = true := decide_eq_true ⟨hmin, hmax⟩
  have hcmd := (State.casCmd_of_casRun hrun hrange fun s d =>
    s.hostFr d (k.f 63 0) (k.f 83 64) (k.f 127 96)).trans h
  exact congrArg _ (State.runCmd_of_done hfront htype hcmd)

end Commands

/-! ### MAP and UNMAP (R310, R311, R411) -/

/-- R324: the walk meets a poisoned entry. -/
def Walk.isPoison : Walk → Bool
  | .poison _ => true
  | _ => false

/-- R411: the walk finds an entry. -/
def Walk.isLeaf : Walk → Bool
  | .leaf _ _ => true
  | _ => false

theorem Walk.isPoison_iff {w : Walk} : w.isPoison = true ↔ ∃ a, w = .poison a := by
  cases w <;> simp [Walk.isPoison]

theorem Walk.isLeaf_iff {w : Walk} : w.isLeaf = true ↔ ∃ x e, w = .leaf x e := by
  cases w <;> simp [Walk.isLeaf]

theorem any_isPoison_iff {ws : List Walk} : ws.any Walk.isPoison = true ↔ ∃ w, w ∈ ws ∧ ∃ a, w = .poison a := by
  simp only [List.any_eq_true, Walk.isPoison_iff]

theorem any_isLeaf_iff {ws : List Walk} : ws.any Walk.isLeaf = true ↔ ∃ w, w ∈ ws ∧ ∃ x e, w = .leaf x e := by
  simp only [List.any_eq_true, Walk.isLeaf_iff]

section Range
variable {s : State} {d va n flags h : Nat}

theorem State.unmapRange_of_poison (hp : (s.walks d va n).any Walk.isPoison = true) : s.unmapRange d va n = .done s 0x07 0 := if_pos hp

theorem State.unmapRange_of_sound (hp : ¬ (s.walks d va n).any Walk.isPoison = true) :
    s.unmapRange d va n = .done ((List.range n).foldl (fun s i => s.unmapPage d (va + i * frameBytes)) s) 0x00 0 := if_neg hp

theorem State.mapRange_of_poison (hp : (s.walks d va n).any Walk.isPoison = true) : s.mapRange d va n flags h = .done s 0x07 0 :=
  if_pos hp

theorem State.mapRange_of_mapped (hp : ¬ (s.walks d va n).any Walk.isPoison = true) (hl : (s.walks d va n).any Walk.isLeaf = true) :
    s.mapRange d va n flags h = .done s 0x04 0 := (if_neg hp).trans (if_pos hl)

/-- R312: a HOST page needs its host frame supplied. -/
def State.hostSupplied (s : State) (d n flags h : Nat) : Prop := flags % 2 = 1 → ∀ i, i < n → s.supplied d (h + i) = true

theorem not_hostSupplied_iff : ¬ s.hostSupplied d n flags h ↔
    (flags % 2 = 1 ∧ (List.range n).all (fun i => s.supplied d (h + i)) = false) := by
  rw [State.hostSupplied, Classical.not_imp, List.all_eq_false]
  simp

theorem State.mapRange_of_unsupplied (hp : ¬ (s.walks d va n).any Walk.isPoison = true) (hhost : ¬ s.hostSupplied d n flags h) :
    s.mapRange d va n flags h = .done s 0x04 0 := by
  by_cases hl : (s.walks d va n).any Walk.isLeaf = true
  · exact State.mapRange_of_mapped hp hl
  · exact (if_neg hp).trans ((if_neg hl).trans (if_pos (not_hostSupplied_iff.mp hhost)))

section Pages
variable (hp : ¬ (s.walks d va n).any Walk.isPoison = true) (hl : ¬ (s.walks d va n).any Walk.isLeaf = true)
  (hhost : s.hostSupplied d n flags h)
include hp hl hhost

theorem State.mapRange_of_noTable (hpages : s.mapPages d va flags h (List.range n) = none) :
    s.mapRange d va n flags h = .done s 0x08 0 :=
  (if_neg hp).trans ((if_neg hl).trans ((if_neg fun hbad => not_hostSupplied_iff.mpr hbad hhost).trans (by rw [hpages]; rfl)))

theorem State.mapRange_of_pages {u : State} (hpages : s.mapPages d va flags h (List.range n) = some u) :
    s.mapRange d va n flags h = .done (u.setCas d ((u.casement d).mapped (va / frameBytes) flags h n)) 0x00 0 :=
  (if_neg hp).trans ((if_neg hl).trans ((if_neg fun hbad => not_hostSupplied_iff.mpr hbad hhost).trans (by rw [hpages]; rfl)))

end Pages

end Range

theorem State.SamePrograms.casement_eq {s t : State} (h : s.SamePrograms t) (d : Nat) : t.casement d = s.casement d := by
  rw [State.casement, h.cas, State.casement]

/-! ### A host frame and its references (R312, R314) -/

/-- R312: a host frame that is still referenced does not go back. -/
theorem Cas.give_of_referenced {c : Cas} {h : Nat} (hr : h ∈ c.hrefs) : c.give h = c := by
  have hc : c.hrefs.contains h = true := List.contains_iff_mem.mpr hr
  rw [Cas.give, hc]
  rfl

theorem mem_erase_of_two_le_count {l : List Nat} {a : Nat} (h : 1 < l.count a) : a ∈ l.erase a := by
  rw [← List.count_pos_iff, List.count_erase_self]
  omega

/-- R312, R314: UNMAP of a HOST page whose host frame other pages reference leaves the pool as it was. -/
theorem State.pool_unmapPage_of_shared {s : State} {d va x e : Nat} (hwalk : s.walk d va = .leaf x e) (hhost : leHost e = true)
    (hshared : 1 < (s.casement d).hrefs.count (leFrame e)) : ((s.unmapPage d va).casement d).pool = (s.casement d).pool := by
  have hcas : (s.putEntry d x (e - 1)).casement d = s.casement d := (s.samePrograms_putEntry d x (e - 1)).casement_eq d
  unfold State.unmapPage
  rw [hwalk]
  simp only [hhost, hcas, Bool.not_true, Bool.and_false, Bool.false_and, Bool.false_eq_true, Bool.or_false, if_true, if_false]
  rw [Cas.give_of_referenced (mem_erase_of_two_le_count hshared), State.casement_setCas_self]

/-! ### HOSTFR (R312, R411) -/

/-- R411: entry first + i of the host frame table takes address a, and the pool takes the entry. -/
def Cas.supply (c : Cas) (first i a : Nat) : Cas :=
  { c with hft := Assoc.put c.hft (first + i) (a + 1) 0
           pool := if c.pool.contains (first + i) then c.pool else (first + i) :: c.pool }

/-- R411: entries first to first + n - 1 take the addresses that the list gives. -/
def Cas.supplied (c : Cas) (first n : Nat) (addr : Nat → Nat) : Cas :=
  (List.range n).foldl (fun c i => c.supply first i (addr i)) c

theorem Cas.hft_supply (c : Cas) (first i a : Nat) : (c.supply first i a).hft = Assoc.put c.hft (first + i) (a + 1) 0 := rfl

theorem Cas.mem_pool_supply (c : Cas) (first i a : Nat) : first + i ∈ (c.supply first i a).pool := by
  unfold Cas.supply
  dsimp only
  split
  · exact List.contains_iff_mem.mp ‹_›
  · exact List.mem_cons_self

theorem Cas.mem_pool_supply_of_mem {c : Cas} {j : Nat} (h : j ∈ c.pool) (first i a : Nat) : j ∈ (c.supply first i a).pool := by
  unfold Cas.supply
  dsimp only
  split
  · exact h
  · exact List.mem_cons_of_mem _ h

/-- R312, R411: each entry is supplied, and in the pool. -/
theorem Cas.supplied_spec (c : Cas) (first : Nat) (addr : Nat → Nat) {n i : Nat} (hi : i < n) :
    Assoc.get (c.supplied first n addr).hft (first + i) 0 = addr i + 1 ∧ first + i ∈ (c.supplied first n addr).pool := by
  induction n with
  | zero => exact absurd hi (Nat.not_lt_zero i)
  | succ n ih =>
    have hstep : c.supplied first (n + 1) addr = (c.supplied first n addr).supply first n (addr n) := by
      rw [Cas.supplied, List.range_succ, List.foldl_append]
      rfl
    rw [hstep, Cas.hft_supply]
    by_cases hlast : i = n
    · subst hlast
      exact ⟨Assoc.get_put_self _ _ _ _, Cas.mem_pool_supply _ _ _ _⟩
    · obtain ⟨hget, hmem⟩ := ih (by omega)
      refine ⟨?_, Cas.mem_pool_supply_of_mem hmem _ _ _⟩
      rw [← hget]
      exact Assoc.get_put_ne _ _ _ _ (by omega)

section Hostfr
variable {s : State} {d list first n : Nat}

/-- R312: an entry of the range is supplied and in use. -/
theorem any_hostBusy_iff : (rangeFrom first n).any (s.hostBusy d) = true ↔ ∃ i, first ≤ i ∧ i < first + n ∧ s.hostBusy d i = true := by
  simp only [List.any_eq_true, rangeFrom, List.mem_map, List.mem_range]
  constructor
  · rintro ⟨_, ⟨j, hj, rfl⟩, hbusy⟩
    exact ⟨first + j, by omega, by omega, hbusy⟩
  · rintro ⟨i, hlo, hhi, hbusy⟩
    exact ⟨i, ⟨i - first, by omega, by omega⟩, hbusy⟩

theorem State.hostFr_of_busy (hbusy : (rangeFrom first n).any (s.hostBusy d) = true) : s.hostFr d list first n = .done s 0x04 0 :=
  if_pos hbusy

theorem State.hostFr_of_unanswered (hfree : ¬ (rangeFrom first n).any (s.hostBusy d) = true) (hans : s.hostAnswer list (8 * n) ≠ 0) :
    s.hostFr d list first n = .done s 0x07 0 := (if_neg hfree).trans (if_pos (bne_iff_ne.mpr hans))

theorem State.hostFr_of_answered (hfree : ¬ (rangeFrom first n).any (s.hostBusy d) = true) (hans : s.hostAnswer list (8 * n) = 0) :
    s.hostFr d list first n = .done ((s.hostAsk (s.casement d).owner list (8 * n)).setCas d ((s.casement d).supplied first n
      fun i => leNat (((s.hostRead list (8 * n)).drop (8 * i)).take 8))) 0x00 0 :=
  (if_neg hfree).trans (if_neg fun hne => bne_iff_ne.mp hne hans)

end Hostfr

/-- Settles O48: each command by the first of its checks that fails. -/
theorem pageCommands : Obligations.PageCommands := by
  unfold Obligations.PageCommands
  intro f s k d _ va n h ws poison mapped host
  refine ⟨fun hrun hva => ?map, fun hrun hva => ?unmap, fun x e hwalk hhost hshared hout => ?shared, fun hrun => ?hostfr⟩
  case map =>
    refine ⟨fun hp => ?poison, fun hp hbad => ?state, fun hp hl hhost => ⟨fun hpages => ?noTable, fun u hpages => ?pages⟩⟩
    case poison => exact exec_map_of_done hrun hva (State.mapRange_of_poison (any_isPoison_iff.mpr hp))
    case state =>
      have hsound := mt any_isPoison_iff.mp hp
      rcases hbad with hl | hhost
      · exact exec_map_of_done hrun hva (State.mapRange_of_mapped hsound (any_isLeaf_iff.mpr hl))
      · exact exec_map_of_done hrun hva (State.mapRange_of_unsupplied hsound hhost)
    case noTable =>
      exact exec_map_of_done hrun hva
        (State.mapRange_of_noTable (mt any_isPoison_iff.mp hp) (mt any_isLeaf_iff.mp hl) hhost hpages)
    case pages =>
      exact exec_map_of_done hrun hva
        (State.mapRange_of_pages (mt any_isPoison_iff.mp hp) (mt any_isLeaf_iff.mp hl) hhost hpages)
  case unmap =>
    exact ⟨fun hp => exec_unmap_of_done hrun hva (State.unmapRange_of_poison (any_isPoison_iff.mpr hp)),
      fun hp => exec_unmap_of_done hrun hva (State.unmapRange_of_sound (mt any_isPoison_iff.mp hp))⟩
  case shared => rwa [State.pool_unmapPage_of_shared hwalk hhost hshared]
  case hostfr =>
    intro first m hmin hmax
    have hnone : (∀ i, first ≤ i → i < first + m → s.hostBusy d i = false) → ¬ (rangeFrom first m).any (s.hostBusy d) = true :=
      fun hfree hany => by
        obtain ⟨i, hlo, hhi, hbusy⟩ := any_hostBusy_iff.mp hany
        exact Bool.false_ne_true ((hfree i hlo hhi).symm.trans hbusy)
    refine ⟨fun hbusy => ?busy, fun hfree hans => ?unanswered, fun hfree hans => ?answered⟩
    case busy => exact exec_hostfr_of_done hrun hmin hmax (State.hostFr_of_busy (any_hostBusy_iff.mpr hbusy))
    case unanswered => exact exec_hostfr_of_done hrun hmin hmax (State.hostFr_of_unanswered (hnone hfree) hans)
    case answered =>
      refine ⟨_, exec_hostfr_of_done hrun hmin hmax (State.hostFr_of_answered (hnone hfree) hans), fun i hi => ?_⟩
      rw [State.casement_setCas_self]
      exact Cas.supplied_spec _ _ _ hi

end Sys2Proof.Machine
end

section
/-! SUPPORT. Commands that name no casement, and commands of the PF on any casement (R403, R404, R490). -/

namespace Sys2Proof.Machine

section Front
variable {s : State} {f : Nat} {k : Cmd} {ty : Nat} {go : State → Cmd → CmdOut}

/-- R403: the front command does not start yet. -/
theorem State.runCmd_of_later (hk : s.frontCmd f = some k) (hty : k.type = ty) (hgo : go s k = .later) : s.runCmd f (· == ty) go = s := by
  unfold State.runCmd
  rw [hk]
  dsimp only
  rw [if_pos (beq_iff_eq.mpr hty), hgo]

end Front

section Checks
variable {s : State} {f : Nat} {k : Cmd} {ty mask : Nat} {any ok pf : Bool} {xs ys : List CPhase} {d : Nat}

/-- R404: a command of the PF that names no casement, and passes its checks, does what it names. -/
theorem State.freeCmd_of_freeRun (h : s.freeRun f k ty mask) (hok : ok = true) (hf : f = 0) (go : State → CmdOut) :
    s.freeCmd f k mask ok pf go = go s := by
  obtain ⟨-, -, hplain, htag⟩ := h
  simp [State.freeCmd, hplain, htag, hok, hf]

/-- R404, R490: a command of the PF on a casement does what it names. -/
theorem State.casCmd_of_casRun_pf (h : s.casRun f k ty mask any xs d) (hf : f = 0) (go : State → Nat → CmdOut) :
    s.casCmd f k mask true true any xs go = go s d := by
  obtain ⟨-, -, hplain, hnamed, hphase⟩ := h
  subst hf
  unfold State.casCmd
  rw [hplain, hnamed]
  dsimp only
  rw [if_pos hphase]
  rfl

/-- R404: a command on a casement in a state that the command does not take. -/
theorem State.casCmd_of_otherState (h : s.casRun f k ty mask any xs d) (hys : ys.contains (s.casement d).phase = false)
    (go : State → Nat → CmdOut) : s.casCmd f k mask true false any ys go = .done s 0x04 0 := by
  obtain ⟨-, -, hplain, hnamed, -⟩ := h
  unfold State.casCmd
  rw [hplain, hnamed]
  dsimp only
  rw [hys]
  rfl

end Checks

end Sys2Proof.Machine
end

section
/-! SUPPORT. The memories of a new casement, and what its end and its reset leave of it (R303, R407, R422, R491). -/

namespace Sys2Proof.Machine

/-! ### The stacks of a new casement (R303, R407) -/

section Unarmed
variable {s : State}

/-- No injection is armed. -/
def State.unarmed (s : State) : Prop := s.rf 0x006010C 0 0 = 0

theorem State.injArmed_of_unarmed (h : s.unarmed) (det unit : Nat) : s.injArmed det unit = false := by
  rw [State.injArmed, show s.rf 0x006010C 0 0 = 0 from h]
  rfl

theorem State.unarmed_refuse (h : s.unarmed) : s.refuse.unarmed := by
  rw [State.unarmed, State.refuse, State.draw_rf, State.count, State.rf_setRf_ne _ _ _ _ _ _ (by decide)]
  exact h

theorem State.hbmZeroInject_of_unarmed (h : s.unarmed) (key : Nat) : s.hbmZeroInject key = s := by
  unfold State.hbmZeroInject State.hbmInject
  simp only [State.injArmed_of_unarmed h, Bool.false_and, Bool.false_eq_true, if_false]

end Unarmed

/-- R303: the memories after stack st has been zeroed, with the lines of it that were cached gone. -/
def State.stackWiped (s : State) (st : Nat) : State :=
  { s with hbm := s.hbm.zero 32 (hbmKey st 0) (2 ^ 36), cdata := s.cdata.zero 8 (hbmKey st 0) (2 ^ 36)
           clines := Assoc.clear s.clines (hbmKey st 0 / 128) (2 ^ 29), cdirty := NSet.clear s.cdirty (hbmKey st 0 / 128) (2 ^ 29) }

/-- R303, R407, R428: CASEMENT_MAP zeroes a stack, unless its controller takes no work. -/
def State.zeroStack (s : State) (st : Nat) : State :=
  if s.blkDown 2 st then s.refuse else (s.stackWiped st).hbmZeroInject (hbmKey st 0)

theorem State.stacksZero_eq (s : State) (mask : Nat) : s.stacksZero mask = (stacksOf mask).foldl State.zeroStack s := rfl

theorem State.zeroStack_of_up {s : State} {st : Nat} (hun : s.unarmed) (hup : s.blkDown 2 st = false) : s.zeroStack st = s.stackWiped st := by
  have hun' : (s.stackWiped st).unarmed := hun
  rw [State.zeroStack, hup, State.hbmZeroInject_of_unarmed hun']
  rfl

theorem State.zeroStack_of_down {s : State} {st : Nat} (hdown : s.blkDown 2 st = true) : s.zeroStack st = s.refuse := if_pos hdown

theorem State.unarmed_zeroStack {s : State} (h : s.unarmed) (st : Nat) : (s.zeroStack st).unarmed := by
  cases hup : s.blkDown 2 st with
  | true => rw [State.zeroStack_of_down hup]; exact State.unarmed_refuse h
  | false => rw [State.zeroStack_of_up h hup]; exact h

theorem State.blkDown_zeroStack {s : State} (h : s.unarmed) (st c n : Nat) : (s.zeroStack st).blkDown c n = s.blkDown c n := by
  cases hup : s.blkDown 2 st with
  | true => rw [State.zeroStack_of_down hup]; rfl
  | false => rw [State.zeroStack_of_up h hup]; rfl

/-- A stack holds zeros. -/
def State.stackZero (s : State) (st : Nat) : Prop := ∀ off, off < 2 ^ 36 → s.hbmByte st off = 0#8

theorem State.stackZero_stackWiped (s : State) (st : Nat) : (s.stackWiped st).stackZero st := by
  intro off hoff
  refine (Mem.get_zero s.hbm 32 (hbmKey st 0) (2 ^ 36) (hbmKey st off)).trans (if_pos ?_)
  unfold hbmKey
  omega

theorem State.stackZero_zeroStack_of_stackZero {s : State} {q : Nat} (hun : s.unarmed) (h : s.stackZero q) (st : Nat) :
    (s.zeroStack st).stackZero q := by
  cases hup : s.blkDown 2 st with
  | true => rw [State.zeroStack_of_down hup]; exact h
  | false =>
    rw [State.zeroStack_of_up hun hup]
    intro off hoff
    refine (Mem.get_zero s.hbm 32 (hbmKey st 0) (2 ^ 36) (hbmKey q off)).trans ?_
    split
    · rfl
    · exact h off hoff

theorem State.stackZero_foldl_of_stackZero (l : List Nat) {s : State} {q : Nat} (hun : s.unarmed) (h : s.stackZero q) :
    (l.foldl State.zeroStack s).stackZero q := by
  induction l generalizing s with
  | nil => exact h
  | cons st l ih =>
    rw [List.foldl_cons]
    exact ih (State.unarmed_zeroStack hun st) (State.stackZero_zeroStack_of_stackZero hun h st)

/-- R303, R407: with no injection armed, every stack of the casement whose controller works holds zeros. -/
theorem State.stackZero_stacksZero {s : State} {mask st : Nat} (hun : s.unarmed) (hup : s.blkDown 2 st = false) (hst : st ∈ stacksOf mask) :
    (s.stacksZero mask).stackZero st := by
  rw [State.stacksZero_eq]
  generalize stacksOf mask = l at hst
  induction l generalizing s with
  | nil => exact absurd hst List.not_mem_nil
  | cons a l ih =>
    rw [List.foldl_cons]
    rcases List.mem_cons.mp hst with rfl | hl
    · refine State.stackZero_foldl_of_stackZero l (State.unarmed_zeroStack hun st) ?_
      rw [State.zeroStack_of_up hun hup]
      exact s.stackZero_stackWiped st
    · exact ih (State.unarmed_zeroStack hun a) ((State.blkDown_zeroStack hun a 2 st).trans hup) hl

/-- R407: the scratchpad words of slice sl are zeroed, unless it takes no work. -/
def State.zeroSlice (s : State) (sl : Nat) : State :=
  if s.blkDown 3 sl then s.refuse else (s.sliceZero sl).scratchInject (scratchKey sl 0) (2 ^ 25)

theorem State.zeroSlice_hbm (s : State) (sl : Nat) : (s.zeroSlice sl).hbm = s.hbm := by
  unfold State.zeroSlice State.scratchInject
  dsimp only
  split
  · rfl
  · split <;> rfl

theorem State.foldl_zeroSlice_hbm (l : List Nat) (s : State) : (l.foldl State.zeroSlice s).hbm = s.hbm := by
  induction l generalizing s with
  | nil => rfl
  | cons sl l ih => rw [List.foldl_cons, ih, State.zeroSlice_hbm]

/-! ### CASEMENT_MAP (R407) -/

/-- R407: the stacks and the scratchpad words of a new casement are zeroed. -/
def State.memoryZeroed (s : State) (mask : Nat) : State := (slicesOf mask).foldl State.zeroSlice (s.stacksZero mask)

/-- R407: the casement c of command k, whose lowest die is d, and its registers. -/
def State.casCreated (s : State) (k : Cmd) (c : Cas) (d : Nat) : State :=
  let s2 := (((s.setCas d c).setRf (rFab d 0) 15 0 c.tag).setRf (0x0180000 + 4 * d) 4 0 (k.f 36 32)).setReg (rPga d 0)
    (BitVec.ofNat 32 (c.ptBase % 2 ^ 32))
  let s3 := ((s2.setReg (rPga d 4) (BitVec.ofNat 32 (c.ptBase / 2 ^ 32))).setRf (0x0070240 + 4 * d) 11 0 (k.f 91 80)).setRf
    (0x0070250 + 4 * d) 12 0 (k.f 108 96)
  s3.showFree d

/-- R407: what a CASEMENT_MAP leaves. -/
def State.casMapped (s : State) (k : Cmd) : State :=
  (s.memoryZeroed k.newCas.mask).casCreated k k.newCas ((diesOf k.newCas.mask).headD 0)

theorem State.casMap_eq (s : State) (k : Cmd) : s.casMap k = .done (s.casMapped k) 0x00 k.newCas.ctxBase := rfl

theorem headD_diesOf_lt (mask : Nat) : (diesOf mask).headD 0 < 4 := by
  cases h : diesOf mask with
  | nil => decide
  | cons d l =>
    have hd : d ∈ diesOf mask := by rw [h]; exact List.mem_cons_self
    exact List.mem_range.mp (List.mem_filter.mp hd).1

section Created
variable (s : State) (k : Cmd) (c : Cas) {d : Nat}

theorem State.casement_casCreated : (s.casCreated k c d).casement d = c := by
  simp only [State.casCreated, State.showFree, State.setRf_casement, State.setReg_casement, State.casement_setCas_self]

theorem State.hbm_casCreated : (s.casCreated k c d).hbm = s.hbm := by
  simp only [State.casCreated, State.showFree, State.setRf_hbm, State.setReg_hbm, State.setCas_hbm]

/-- R346, R407: the fabric's tag of the new casement. -/
theorem State.fabTag_casCreated (hd : d < 4) : (s.casCreated k c d).rf (rFab d 0) 15 0 = c.tag % 2 ^ 16 := by
  unfold State.casCreated State.showFree
  dsimp only
  rw [State.rf_setRf_ne, State.rf_setRf_ne, State.rf_setRf_ne, State.rf_setReg_ne, State.rf_setReg_ne, State.rf_setRf_ne,
    State.rf_setRf_self _ _ _ (by decide) (by decide)]
  all_goals simp only [rFab, rPga]; omega

end Created

theorem State.hbm_memoryZeroed (s : State) (mask : Nat) : (s.memoryZeroed mask).hbm = (s.stacksZero mask).hbm :=
  State.foldl_zeroSlice_hbm _ _

section Mapped
variable (s : State) (k : Cmd)

theorem State.casement_casMapped : (s.casMapped k).casement ((diesOf (k.f 3 0)).headD 0) = k.newCas :=
  State.casement_casCreated _ k k.newCas

theorem State.fabTag_casMapped : (s.casMapped k).rf (rFab ((diesOf (k.f 3 0)).headD 0) 0) 15 0 = k.f 31 16 :=
  (State.fabTag_casCreated _ k k.newCas (headD_diesOf_lt _)).trans (Nat.mod_eq_of_lt (fld_lt _ _ _))

/-- R303, R407: the stacks of the new casement hold zeros. -/
theorem State.hbmByte_casMapped {s : State} (k : Cmd) {st off : Nat} (hun : s.unarmed) (hup : s.blkDown 2 st = false)
    (hst : st ∈ stacksOf (k.f 3 0)) (hoff : off < 2 ^ 36) : (s.casMapped k).hbmByte st off = 0#8 := by
  have hzero : (s.stacksZero k.newCas.mask).hbmByte st off = 0#8 := State.stackZero_stacksZero hun hup hst off hoff
  rw [State.hbmByte, State.casMapped, State.hbm_casCreated, State.hbm_memoryZeroed, ← State.hbmByte]
  exact hzero

end Mapped

/-! ### The end and the reset of a casement (R422, R491) -/

/-- R491: casement d is no more, and its logical tiles with it. -/
def State.casRemoved (s : State) (d : Nat) : State := { s.dropTiles d with cas := Assoc.put s.cas d Cas.reset Cas.reset }

theorem State.casement_casRemoved (s : State) (d : Nat) : (s.casRemoved d).casement d = Cas.reset := by
  show Assoc.get (Assoc.put s.cas d Cas.reset Cas.reset) d Cas.reset = Cas.reset
  rw [Assoc.get_put_self]

theorem State.reg_casRemoved (s : State) (d k : Nat) : (s.casRemoved d).reg k = s.reg k := rfl

theorem State.casGone_eq (s : State) (d : Nat) : s.casGone d = (((s.disarmEnd d).fabEnd d).casRegs d).casRemoved d := rfl

theorem State.casement_casGone (s : State) (d : Nat) : (s.casGone d).casement d = Cas.reset := by
  rw [State.casGone_eq, State.casement_casRemoved]

/-- R425: the registers of casement d's member state take their reset values. -/
theorem State.reg_casRegs_fab (s : State) {d : Nat} (hd : d < 4) : (s.casRegs d).reg (rFab d 0x18) = regReset (rFab d 0x18) := by
  unfold State.casRegs
  extract_lets mb mc gb gc lays s0 s1 s2 s3
  rw [State.resetCvu, State.reg_resetRegs, if_neg (by simp only [rFab]; omega), State.reg_setRf_ne _ _ _ _ (by simp only [rFab]; omega),
    State.reg_resetRegs, if_pos (by simp only [rFab]; omega)]

/-- R364: a casement that is gone is no member. -/
theorem State.fabState_casGone (s : State) {d : Nat} (hd : d < 4) : (s.casGone d).fabState d = 0 := by
  rw [State.fabState, State.rf, State.casGone_eq, State.reg_casRemoved, State.reg_casRegs_fab _ hd]
  exact (reset_casements d hd).2

theorem State.casement_casReset (s : State) (x : ShutIn) (d : Nat) : (s.casReset x d).casement d =
    { ((s.shutAll x d).resetCvu d).casement d with
      phase := .idle, held := false, nlt := 0, gx := 0, gy := 0, entry := 0, plen := 0, pva := 0, steps := 0, start := none,
      quiesce := false } := by
  unfold State.casReset State.fabDiscard
  dsimp only
  rw [State.setFab_casement, State.casement_setCas_self]

end Sys2Proof.Machine
end

section
/-! PROOFS. R303, R407, R412, R422, R491: casements are mapped, ended and reset; dies are tested. -/

namespace Sys2Proof.Machine

section Commands
variable {f : Fin 16} {s u : State} {k : Cmd} {d st res : Nat}

theorem exec_casementMap_of_map (hrun : s.freeRun f k 0x10 mapMask) (hok : s.mapOk k = true) (hf : f.val = 0) (hready : s.isReady = true)
    (hres : s.mapRes k = true) : exec (.casementMap f) s = .next ((s.casMapped k).finish f k 0x00 k.newCas.ctxBase) := by
  have ⟨hfront, htype, _⟩ := hrun
  refine congrArg _ (State.runCmd_of_done hfront htype ((State.freeCmd_of_freeRun hrun hok hf _).trans ?_))
  simp only [hready, hres, Bool.not_true, Bool.false_eq_true, if_true, if_false, State.casMap_eq]

theorem exec_casementMap_of_noRes (hrun : s.freeRun f k 0x10 mapMask) (hok : s.mapOk k = true) (hf : f.val = 0) (hready : s.isReady = true)
    (hres : s.mapRes k = false) : exec (.casementMap f) s = .next (s.finish f k 0x08 0) := by
  have ⟨hfront, htype, _⟩ := hrun
  refine congrArg _ (State.runCmd_of_done hfront htype ((State.freeCmd_of_freeRun hrun hok hf _).trans ?_))
  simp only [hready, hres, Bool.not_true, Bool.false_eq_true, if_false]
  rfl

theorem exec_casementMap_of_notReady (hrun : s.freeRun f k 0x10 mapMask) (hok : s.mapOk k = true) (hf : f.val = 0)
    (hready : s.isReady = false) : exec (.casementMap f) s = .next s := by
  have ⟨hfront, htype, _⟩ := hrun
  refine congrArg _ (State.runCmd_of_later hfront htype ((State.freeCmd_of_freeRun hrun hok hf _).trans ?_))
  simp only [hready, Bool.not_false, if_true]

theorem exec_casementEnd (hrun : s.casRun f k 0x11 0 true [.idle, .loaded, .running, .stopped] d) (hf : f.val = 0) (x : ShutIn) :
    exec (.casementEnd f x) s = .next ((s.casEnd x d).finish f k 0x00 0) := by
  have ⟨hfront, htype, _⟩ := hrun
  show Host.Outcome.next (s.runCmd f (· == 0x11) fun s k =>
    s.casCmd f k 0 true true true [.idle, .loaded, .running, .stopped] fun s d => .done (s.casEnd x d) stOk 0) = _
  rw [State.runCmd_of_done hfront htype (State.casCmd_of_casRun_pf hrun hf fun s d => .done (s.casEnd x d) stOk 0)]
  rfl

theorem exec_casementReset (hrun : s.casRun f k 0x12 0 true [.idle, .loaded, .stopped] d) (x : ShutIn) :
    exec (.casementReset f x) s = .next ((s.casReset x d).finish f k 0x00 0) := by
  have ⟨hfront, htype, _⟩ := hrun
  show Host.Outcome.next (s.runCmd f (· == 0x12) fun s k =>
    s.casCmd f k 0 true false true [.idle, .loaded, .stopped] fun s d => .done (s.casReset x d) stOk 0) = _
  rw [State.runCmd_of_done hfront htype (State.casCmd_of_casRun hrun rfl fun s d => .done (s.casReset x d) stOk 0)]
  rfl

/-- R422: a casement that runs is not reset. -/
theorem exec_casementReset_of_running (hrun : s.casRun f k 0x12 0 true [.running] d) (x : ShutIn) :
    exec (.casementReset f x) s = .next (s.finish f k 0x04 0) := by
  have ⟨hfront, htype, _, _, hphase⟩ := hrun
  have hrunning : (s.casement d).phase = .running := by simpa using hphase
  have hother : [CPhase.idle, .loaded, .stopped].contains (s.casement d).phase = false := by rw [hrunning]; rfl
  have hcmd : s.casCmd f k 0 true false true [.idle, .loaded, .stopped] (fun s d => .done (s.casReset x d) stOk 0) =
      .done s 0x04 0 := State.casCmd_of_otherState hrun hother _
  exact congrArg _ (State.runCmd_of_done hfront htype hcmd)

/-- R412: the dies named, each tested and decided. -/
def State.diesTested (s : State) (fails ds : List Nat) : State := ds.foldl (fun s d => s.dieTested fails d) s

theorem exec_dieTest_of_free (hrun : s.freeRun f k 0x40 (maskOf [(3, 0)])) (hf : f.val = 0) (hready : s.isReady = true) (fails : List Nat)
    (hfree : (diesOf (k.f 3 0)).any (fun x => (s.casOfDie x).isSome) = false) : exec (.dieTest f fails) s =
      .next ((s.diesTested fails (diesOf (k.f 3 0))).finish f k 0x00 ((s.diesTested fails (diesOf (k.f 3 0))).failCount (k.f 3 0))) := by
  have ⟨hfront, htype, _⟩ := hrun
  refine congrArg _ (State.runCmd_of_done hfront htype ((State.freeCmd_of_freeRun hrun rfl hf _).trans ?_))
  simp only [hready, hfree, Bool.not_true, Bool.false_eq_true, if_false]
  rfl

theorem exec_dieTest_of_held (hrun : s.freeRun f k 0x40 (maskOf [(3, 0)])) (hf : f.val = 0) (hready : s.isReady = true) (fails : List Nat)
    (hheld : (diesOf (k.f 3 0)).any (fun x => (s.casOfDie x).isSome) = true) :
    exec (.dieTest f fails) s = .next (s.finish f k 0x04 0) := by
  have ⟨hfront, htype, _⟩ := hrun
  refine congrArg _ (State.runCmd_of_done hfront htype ((State.freeCmd_of_freeRun hrun rfl hf _).trans ?_))
  simp only [hready, hheld, Bool.not_true, Bool.false_eq_true, if_true, if_false]
  rfl

end Commands

/-- R491: CASEMENT_END as the shutters of what is left when the program, if one runs, has ended. -/
theorem State.casEnd_eq (s : State) (x : ShutIn) (d : Nat) : s.casEnd x d =
    ((if (s.casement d).phase = .running then
      (s.post { kind := 4, unit := d, ctag := s.tagOf d }).endProgram d (s.arbN arbEvent) else s).shutAll x d).casGone d := rfl

/-- Settles O45: each command by the first of its checks that fails; what it leaves of its casement. -/
theorem casementLife : Obligations.CasementLife := by
  unfold Obligations.CasementLife
  refine fun f s k => ⟨fun hrun hok hf hready hres => ?map, fun hrun hok hf hready => exec_casementMap_of_noRes hrun hok hf hready,
    fun hrun hok hf => exec_casementMap_of_notReady hrun hok hf, fun d x hd hf hrun => ?ended, fun d x _ hrun => ?reset,
    fun d x _ hrun => exec_casementReset_of_running hrun x, fun fails hrun hf hready => ⟨fun hfree => ?tested, fun hheld => ?held⟩⟩
  case map =>
    exact ⟨_, exec_casementMap_of_map hrun hok hf hready hres, s.casement_casMapped k, s.fabTag_casMapped k,
      fun hun st off hst hup hoff => State.hbmByte_casMapped k hun hup hst hoff⟩
  case ended =>
    exact ⟨exec_casementEnd hrun hf x, State.casement_casGone _ d, State.fabState_casGone _ hd⟩
  case reset =>
    refine ⟨exec_casementReset hrun x, ?_⟩
    rw [State.casement_casReset]
    exact ⟨rfl, rfl, rfl, rfl, rfl⟩
  case tested =>
    have hnone : (diesOf (k.f 3 0)).any (fun x => (s.casOfDie x).isSome) = false := by
      refine List.any_eq_false.mpr fun x hx => ?_
      have hx := List.all_eq_true.mp hfree x hx
      simpa using hx
    exact exec_dieTest_of_free hrun hf hready fails hnone
  case held => exact exec_dieTest_of_held hrun hf hready fails hheld

end Sys2Proof.Machine
end

section
/-! SUPPORT. What a wide reset does to casements and fuses: nothing that it does makes a casement exist, and none of it reaches the
fuses (R425, R430, R462). -/

namespace Sys2Proof.Machine

/-- t has the fuses of s, and no casement that s has not. -/
structure State.NoNewCas (s t : State) : Prop where
  fuses : t.fuses = s.fuses
  exist : ∀ d, (t.casement d).exist = true → (s.casement d).exist = true

namespace State.NoNewCas
variable {s t u : State}

theorem refl (s : State) : s.NoNewCas s := ⟨rfl, fun _ h => h⟩

theorem trans (h : s.NoNewCas t) (h' : t.NoNewCas u) : s.NoNewCas u :=
  ⟨h'.fuses.trans h.fuses, fun d hd => h.exist d (h'.exist d hd)⟩

theorem ite {c : Prop} [Decidable c] (ht : s.NoNewCas t) (hu : s.NoNewCas u) : s.NoNewCas (if c then t else u) := by
  split <;> assumption

/-- A further step that changes neither the casements nor the fuses. -/
theorem same (h : s.NoNewCas t) (hfuses : u.fuses = t.fuses) (hcas : u.cas = t.cas) : s.NoNewCas u :=
  ⟨hfuses.trans h.fuses, fun d hd => h.exist d ((congrArg (fun l => (Assoc.get l d Cas.reset).exist) hcas).symm.trans hd)⟩

theorem foldl {α : Type} {f : State → α → State} (hf : ∀ (s : State) a, s.NoNewCas (f s a)) (l : List α) (s : State) :
    s.NoNewCas (l.foldl f s) := by
  induction l generalizing s with
  | nil => exact refl s
  | cons a l ih =>
    rw [List.foldl_cons]
    exact (hf s a).trans (ih _)

theorem gone {d : Nat} (h : s.NoNewCas t) (hs : (s.casement d).exist = false) : (t.casement d).exist = false := by
  cases ht : (t.casement d).exist with
  | false => rfl
  | true => exact absurd ((h.exist d ht).symm.trans hs) Bool.true_eq_false.mp

end State.NoNewCas

/-! ### The state's operations -/

/-- R425: the fences and the working copies that a reset of source k reaches are no more. -/
def State.dropFences (s : State) (k : Nat) : State :=
  { s with fenced := s.fenced.filter (keepsFence k), wcopy := s.wcopy.filter (fun w => cmpClass (cmpKind (w.1 / 1024)) == 4) }

namespace State.NoNewCas
variable {s t : State} (h : s.NoNewCas t)
include h

theorem setReg (k : Nat) (v : Word) : s.NoNewCas (t.setReg k v) := h.same (t.setReg_fuses k v) (t.setReg_cas k v)

theorem setRf (k hi lo v : Nat) : s.NoNewCas (t.setRf k hi lo v) := h.same (t.setRf_fuses k hi lo v) (t.setRf_cas k hi lo v)

theorem count (k hi lo n : Nat) : s.NoNewCas (t.count k hi lo n) := h.same (t.count_fuses k hi lo n) (t.count_cas k hi lo n)

theorem raise (k n : Nat) : s.NoNewCas (t.raise k n) := h.same (t.raise_fuses k n) (t.raise_cas k n)

theorem resetRegs (a n : Nat) : s.NoNewCas (t.resetRegs a n) := h.same (t.resetRegs_fuses a n) (t.resetRegs_cas a n)

theorem setLt (d i : Nat) (x : LTile) : s.NoNewCas (t.setLt d i x) := h.same (t.setLt_fuses d i x) (t.setLt_cas d i x)

theorem setFn (f : Nat) (x : FnSt) : s.NoNewCas (t.setFn f x) := h.same (t.setFn_fuses f x) (t.setFn_cas f x)

theorem setPort (p : Nat) (x : Port) : s.NoNewCas (t.setPort p x) := h.same (t.setPort_fuses p x) (t.setPort_cas p x)

theorem setLay (n : Nat) (x : Lay) : s.NoNewCas (t.setLay n x) := h.same (t.setLay_fuses n x) (t.setLay_cas n x)

theorem setTilState (p v : Nat) : s.NoNewCas (t.setTilState p v) := h.setRf _ _ _ _

theorem lineDrop (l : Nat) : s.NoNewCas (t.lineDrop l) := h.same rfl rfl

theorem sliceZero (sl : Nat) : s.NoNewCas (t.sliceZero sl) := h.same rfl rfl

/-- A casement is written that exists only if it existed. -/
theorem setCas {d : Nat} {c : Cas} (hc : c.exist = true → (t.casement d).exist = true) : s.NoNewCas (t.setCas d c) := by
  refine ⟨(t.setCas_fuses d c).trans h.fuses, fun e he => h.exist e ?_⟩
  by_cases hde : e = d
  · subst hde
    rw [State.casement_setCas_self] at he
    exact hc he
  · rwa [State.casement_setCas_ne t c hde] at he

theorem post (e : Ev) : s.NoNewCas (t.post e) := by
  refine h.same ?_ (t.samePrograms_post e).cas
  obtain ⟨_, _, _, _, _, heq⟩ := t.sameButRings_post e
  rw [heq]

theorem injDropAt (cls idx : Nat) : s.NoNewCas (t.injDropAt cls idx) := by
  unfold State.injDropAt State.injDrop
  exact .ite (.ite (((h.setRf _ _ _ _).raise _ _).setRf _ _ _ _) h) h

/-! ### Loss of a die (R18, R233, R447) -/

theorem enterSafe (cause : Nat) : s.NoNewCas (t.enterSafe cause) := by
  unfold State.enterSafe
  extract_lets s1 s2 s3
  have hpins : s.NoNewCas s1 := ((h.raise _ _).setReg _ _).setRf _ _ _ _
  clear_value s1
  have hports : s.NoNewCas s2 := hpins.trans (foldl (fun u _ => (refl u).setRf _ _ _ _) _ s1)
  clear_value s2
  have hfns : s.NoNewCas s3 := hports.trans (foldl (fun u _ => (refl u).setRf _ _ _ _) _ s2)
  clear_value s3
  exact ⟨hfns.fuses, fun d hd => absurd (show false = true from hd) Bool.false_ne_true⟩

theorem mapIdxLts (d : Nat) (f : Nat → LTile → LTile) : s.NoNewCas (t.mapIdxLts d f) :=
  h.trans (foldl (fun u i => (refl u).setLt d i _) _ t)

theorem endProgram (d eseq : Nat) : s.NoNewCas (t.endProgram d eseq) := by
  unfold State.endProgram State.endBy
  extract_lets c s1
  have hstopped : s.NoNewCas s1 := (h.mapIdxLts d _).setCas fun hc => by rwa [State.casement_mapIdxLts]
  clear_value s1
  refine .ite ?_ h
  split
  · exact hstopped.setFn _ _
  · exact hstopped

theorem stopCas (d eseq : Nat) : s.NoNewCas (t.stopCas d eseq) := (h.endProgram d eseq).setCas fun hc => hc

theorem dieLost (x n : Nat) : s.NoNewCas (t.dieLost x n) := by
  unfold State.dieLost
  extract_lets s1 eseq s2 s3
  have hposted : s.NoNewCas s2 := (h.setRf _ _ _ _).post _
  have hstopped : s.NoNewCas s3 := by
    unfold s3
    split
    · exact hposted.stopCas _ _
    · exact hposted
  exact .ite (.ite (hstopped.enterSafe 7) hstopped) h

theorem dieOut (d : Nat) : s.NoNewCas (t.dieOut d) := by
  unfold State.dieOut
  refine dieLost ?_ d 0
  exact h.same rfl rfl

/-! ### What a block loses in its reset (R425, R427) -/

theorem clearEngine (p : Nat) : s.NoNewCas (t.clearEngine p) := by
  unfold State.clearEngine
  split
  · exact h.setLt _ _ _
  · exact h

theorem resetTile (p : Nat) : s.NoNewCas (t.resetTile p) := by
  unfold State.resetTile
  extract_lets st bad s1 blank s2
  have hregs : s.NoNewCas s1 := ((h.injDropAt 0 p).clearEngine p).resetRegs _ _
  clear_value s1
  have htile : s.NoNewCas s2 := hregs.same rfl rfl
  clear_value s2
  exact .ite (htile.setTilState _ _) (.ite (htile.setTilState _ _) htile)

theorem trainHbm (dq ca : List (Nat × Nat × Nat)) (st : Nat) : s.NoNewCas (t.trainHbm dq ca st) := by
  unfold State.trainHbm
  extract_lets chs bad dqs cas rep car s1 s2 n s3
  have hrep : s.NoNewCas s1 := h.trans (foldl (fun u _ => (refl u).setReg _ _) _ t)
  clear_value s1
  have hcar : s.NoNewCas s2 := hrep.trans (foldl (fun u _ => (refl u).setReg _ _) _ s1)
  clear_value s2
  have hstat : s.NoNewCas s3 := (((hcar.setRf _ _ _ _).setRf _ _ _ _).setRf _ _ _ _).setRf _ _ _ _
  clear_value s3
  exact .ite (hstat.post _) hstat

theorem resetHbm (x : ShutIn) (st : Nat) : s.NoNewCas (t.resetHbm x st) := by
  unfold State.resetHbm
  extract_lets s1 s2
  have hregs : s.NoNewCas s1 := (h.injDropAt 2 st).resetRegs _ _
  clear_value s1
  have htrained : s.NoNewCas s2 := by
    refine trainHbm ?_ x.dq x.ca st
    exact hregs.same rfl rfl
  clear_value s2
  exact .ite (htrained.dieOut _) htrained

theorem linePoison (l : Nat) : s.NoNewCas (t.linePoison l) := by
  unfold State.linePoison
  refine lineDrop ?_ l
  exact h.same rfl rfl

theorem resetSlice (sl : Nat) : s.NoNewCas (t.resetSlice sl) := by
  unfold State.resetSlice
  extract_lets s1 s2
  have hlines : s.NoNewCas s1 :=
    (h.injDropAt 3 sl).trans (foldl (fun u l => .ite ((refl u).linePoison l) ((refl u).lineDrop l)) _ _)
  clear_value s1
  have hregs : s.NoNewCas s2 := (hlines.sliceZero sl).resetRegs _ _
  clear_value s2
  exact hregs.same rfl rfl

theorem resetPort (p : Nat) : s.NoNewCas (t.resetPort p) := by
  unfold State.resetPort
  extract_lets blank s1 s2
  have hport : s.NoNewCas s1 := ((h.injDropAt 4 p).resetRegs _ _).setPort _ _
  clear_value s1
  have harb : s.NoNewCas s2 := hport.same rfl rfl
  clear_value s2
  exact .ite harb (harb.setRf _ _ _ _)

theorem dropQueue (f : Nat) : s.NoNewCas (t.dropQueue f) := (((h.setFn _ _).setReg _ _).setReg _ _).setRf _ _ _ _

theorem resetItk : s.NoNewCas t.resetItk := by
  unfold State.resetItk
  extract_lets s1
  have hqueues : s.NoNewCas s1 := h.trans (foldl (fun u f => (refl u).dropQueue f) _ t)
  clear_value s1
  exact hqueues.same rfl rfl

theorem resetBlock (x : ShutIn) (cls idx : Nat) : s.NoNewCas (t.resetBlock x cls idx) := by
  unfold State.resetBlock
  split
  · exact h.resetTile idx
  · exact h.resetHbm x idx
  · exact h.resetSlice idx
  · exact h.resetPort idx
  · exact h.resetItk
  · exact h

theorem heal (off : Nat) : s.NoNewCas (t.heal off) := h.same rfl rfl

theorem fieldsReset (out : Nat → Bool) : s.NoNewCas (t.fieldsReset out) := by
  unfold State.fieldsReset
  exact h.trans (foldl (fun u off => ((refl u).resetRegs off 4).heal off) _ t)

theorem wcReset (cls idx : Nat) : s.NoNewCas (t.wcReset cls idx) := h.same rfl rfl

/-! ### Shutters (R427, R430) -/

theorem forced (cls idx : Nat) : s.NoNewCas (t.forced cls idx) := ((h.raise _ _).count _ _ _ _).post _

theorem forcedAll (x : ShutIn) (bs : List (Nat × Nat)) : s.NoNewCas (t.forcedAll x bs) := by
  unfold State.forcedAll
  refine h.trans (foldl (fun u b => ?_) _ t)
  exact (refl u).forced b.1 b.2

theorem release (x : ShutIn) (cls idx : Nat) : s.NoNewCas (t.release x cls idx) := by
  unfold State.release
  extract_lets s1 s2
  have hreset : s.NoNewCas s1 := ((h.resetBlock x cls idx).fieldsReset _).wcReset cls idx
  clear_value s1
  have hopen : s.NoNewCas s2 := hreset.same rfl rfl
  clear_value s2
  split
  · exact hopen.setRf _ _ _ _
  · exact hopen

theorem shtStat (cls idx : Nat) : s.NoNewCas (t.shtStat cls idx) := (h.setRf _ _ _ _).setRf _ _ _ _

/-! ### The end of a casement (R425, R457, R491) -/

theorem flashWrite (a : Nat) (bs : List Nat) : s.NoNewCas (t.flashWrite a bs) := h.same rfl rfl

theorem flashErase (a n : Nat) : s.NoNewCas (t.flashErase a n) := h.same rfl rfl

theorem jrnAppend (j : Jrn) : s.NoNewCas (t.jrnAppend j) := by
  unfold State.jrnAppend
  extract_lets base
  exact .ite (h.flashWrite _ _) ((h.flashErase _ _).flashWrite _ _)

theorem journal (j : Jrn) : s.NoNewCas (t.journal j) := by
  unfold State.journal
  extract_lets j1 held s1
  have hheld : s.NoNewCas held := h.jrnAppend j1
  clear_value held
  have hforce : s.NoNewCas s1 := hheld.same rfl rfl
  clear_value s1
  exact (hforce.setRf _ _ _ _).setRf _ _ _ _

theorem disarmEnd (d : Nat) : s.NoNewCas (t.disarmEnd d) := by
  unfold State.disarmEnd
  exact .ite ((h.journal _).post _) h

theorem fabEnd (d : Nat) : s.NoNewCas (t.fabEnd d) := by
  unfold State.fabEnd
  extract_lets s1
  have hregs : s.NoNewCas s1 := (h.setRf _ _ _ _).setReg _ _
  clear_value s1
  exact hregs.same rfl rfl

theorem resetCvu (u : Nat) : s.NoNewCas (t.resetCvu u) := h.resetRegs _ _

theorem casRegs (d : Nat) : s.NoNewCas (t.casRegs d) := by
  unfold State.casRegs
  extract_lets mb mc gb gc lays s0 s1 s2 s3
  have hlays : s.NoNewCas s0 := h.trans (foldl (fun u n => (refl u).setLay n _) _ t)
  clear_value s0
  have htables : s.NoNewCas s1 := (hlays.resetRegs _ _).resetRegs _ _
  clear_value s1
  have hnum : s.NoNewCas s2 := htables.trans (foldl (fun u _ => (refl u).resetRegs _ _) _ s1)
  clear_value s2
  have hwide : s.NoNewCas s3 := ((hnum.resetRegs _ _).resetRegs _ _).resetRegs _ _
  clear_value s3
  exact ((hwide.resetRegs _ _).setRf _ _ _ _).resetCvu d

theorem casRemoved (d : Nat) : s.NoNewCas (t.casRemoved d) :=
  (h.setCas (d := d) (c := Cas.reset) fun hc => absurd hc Bool.false_ne_true).same rfl rfl

theorem casGone (d : Nat) : s.NoNewCas (t.casGone d) := by
  rw [State.casGone_eq]
  exact (((h.disarmEnd d).fabEnd d).casRegs d).casRemoved d

theorem casWiped (d : Nat) : s.NoNewCas (t.casWiped d) := by
  unfold State.casWiped
  extract_lets mask s1
  have hslices : s.NoNewCas s1 :=
    h.trans (foldl (fun u sl => (foldl (fun v l => (refl v).lineDrop l) (u.linesOf sl) u).sliceZero sl) _ t)
  clear_value s1
  exact hslices.casGone d

/-! ### The reach of a wide reset (R424, R443) -/

theorem sealReset (k : Nat) : s.NoNewCas (t.sealReset k) := by
  unfold State.sealReset
  refine .ite ?_ (.ite (h.setRf _ _ _ _) h)
  exact ((h.setRf 0x0020804 2 0 4).setRf 0x0020804 11 8 4).same rfl rfl

theorem dropFences (k : Nat) : s.NoNewCas (t.dropFences k) := h.same rfl rfl

theorem hostReset : s.NoNewCas t.hostReset := by
  unfold State.hostReset
  extract_lets s1 s2
  have hregs : s.NoNewCas s1 := h.resetRegs _ _
  clear_value s1
  have htables : s.NoNewCas s2 := hregs.trans (foldl (fun u _ => (refl u).resetRegs _ _) _ s1)
  clear_value s2
  exact htables.same rfl rfl

theorem pkcReset : s.NoNewCas t.pkcReset := by
  unfold State.pkcReset
  extract_lets stk s1 s2
  have hregs : s.NoNewCas s1 := (h.resetRegs _ _).resetRegs _ _
  clear_value s1
  have hboot : s.NoNewCas s2 := (hregs.setRf _ _ _ _).setRf _ _ _ _
  clear_value s2
  exact (hboot.setRf _ _ _ _).trans (foldl (fun u _ => (refl u).setRf _ _ _ _) _ _)

theorem mgtReset (k : Nat) : s.NoNewCas (t.mgtReset k) := h.same rfl rfl

end State.NoNewCas

/-- Every casement that a wide reset wipes is gone. -/
theorem State.exist_foldl_casWiped (l : List Nat) (s : State) {d : Nat} (hd : d ∈ l) :
    ((l.foldl State.casWiped s).casement d).exist = false := by
  induction l generalizing s with
  | nil => exact absurd hd List.not_mem_nil
  | cons a l ih =>
    rw [List.foldl_cons]
    rcases List.mem_cons.mp hd with rfl | hl
    · refine (State.NoNewCas.foldl (fun u e => (State.NoNewCas.refl u).casWiped e) l _).gone ?_
      rw [State.casWiped, State.casement_casGone]
      rfl
    · exact ih _ hl

/-- A wide reset of a package that is not held, in the order of its steps: the casements that it finds are wiped, and no step makes
one. -/
theorem State.wideReset_of_running {s : State} (x : ShutIn) (k : Nat) (hheld : s.held = false) :
    s.NoNewCas (s.wideReset x k) ∧ ∀ d, d < 4 → ((s.wideReset x k).casement d).exist = false := by
  unfold State.wideReset
  rw [hheld, if_neg Bool.false_ne_true]
  extract_lets s0 open_ ds reach s1 s2 s3 s4 s5 s6
  have hcause : s.NoNewCas s0 := ((((State.NoNewCas.refl s).setRf _ _ _ _).setRf _ _ _ _).sealReset k).shtStat _ _
  have hopen : s0.NoNewCas s1 :=
    ((State.NoNewCas.refl s0).forcedAll x reach).trans (.foldl (fun u b => (State.NoNewCas.refl u).release x _ _) _ _)
  have hwiped : s1.NoNewCas s2 := .foldl (fun u d => (State.NoNewCas.refl u).casWiped d) _ s1
  have hnone : ∀ d, d < 4 → (s2.casement d).exist = false := by
    intro d hd
    by_cases hmem : d ∈ ds
    · exact State.exist_foldl_casWiped ds s1 hmem
    · refine (hopen.trans hwiped).gone (Bool.eq_false_iff.mpr fun he => hmem ?_)
      exact List.mem_filter.mpr ⟨List.mem_range.mpr hd, he⟩
  have hall : s.NoNewCas s2 := (hcause.trans hopen).trans hwiped
  clear_value s2
  have htiles : s2.NoNewCas s3 := .foldl (fun u p => (State.NoNewCas.refl u).resetTile p) _ s2
  clear_value s3
  have hfences : s2.NoNewCas s4 := htiles.dropFences k
  clear_value s4
  have hhost : s2.NoNewCas s5 := .ite hfences.hostReset hfences
  clear_value s5
  have hpkc : s2.NoNewCas s6 := .ite hhost.pkcReset hhost
  clear_value s6
  have hrest := (hpkc.fieldsReset fun off => !(s.fieldUnits off).any (fun u => keepsFence k (blkNo u.1 u.2))).mgtReset k
  exact ⟨hall.trans hrest, fun d hd => hrest.gone (hnone d hd)⟩

end Sys2Proof.Machine
end

section
/-! PROOFS. R303, R424, R425, R431, R435, R462, R470, R473, R480: the resets of the whole package, and the wide ones. -/

namespace Sys2Proof.Machine

/-! ### SYS_RST_L (R435, R470) -/

/-- R424, R435: the reset values, but for the ROS fields, which stay; the options are not loaded. -/
def State.rosKept (s : State) : State :=
  (s.fullReset.setReg rCause (BitVec.ofNat 32 (setFld (s.reg rCause).toNat 24 24 0))).setRf 0x0030004 14 14 (s.rf 0x0030004 14 14)

/-- R435: a restart of option loading counts. -/
def State.restarted (s : State) : State := if s.loaded || s.isSafe then s.rosKept else s.rosKept.count rCause 23 16 1

/-- R424: source 2 is recorded, and bring-up starts at step 2. -/
def State.sysStarted (s : State) : State := (s.restarted.cause 2).setRf 0x0020808 3 0 2

theorem State.sysReset_eq (s : State) : s.sysReset = { s.sysStarted with rseq := s.rseq } := rfl

theorem State.rf_withRseq (t : State) (n k hi lo : Nat) : State.rf { t with rseq := n } k hi lo = t.rf k hi lo := rfl

theorem State.rf_sysReset (s : State) (k hi lo : Nat) : s.sysReset.rf k hi lo = s.sysStarted.rf k hi lo := by
  rw [State.sysReset_eq, State.rf_withRseq]

theorem State.rf_rosKept_cause (s : State) (hi lo : Nat) : s.rosKept.rf rCause hi lo = fld (setFld (s.reg rCause).toNat 24 24 0) hi lo := by
  rw [State.rosKept, State.rf_setRf_ne _ _ _ _ _ _ (by decide), State.rf_setReg_self, rfld, BitVec.toNat_ofNat,
    Nat.mod_eq_of_lt (setFld_lt _ (by decide) (s.reg rCause).isLt (by decide))]

/-- R435: the fields of RST_CAUSE but LOADED stay. -/
theorem State.rf_rosKept_cause_ne (s : State) {hi lo : Nat} (h : hi < 24 ∨ 24 < lo) : s.rosKept.rf rCause hi lo = s.rf rCause hi lo := by
  rw [State.rf_rosKept_cause, fld_setFld_ne _ _ (by decide) h]
  rfl

theorem State.rf_restarted_cause_ne (s : State) {hi lo : Nat} (h : hi < 16 ∨ 23 < lo) :
    s.restarted.rf rCause hi lo = s.rosKept.rf rCause hi lo := by
  unfold State.restarted State.count
  split
  · rfl
  · exact State.rf_setRf_other _ _ _ (by decide) (by decide) h

/-- R435: LOADRST counts the restarts before the options are loaded, outside the safe state. -/
theorem State.loadrst_restarted (s : State) : s.restarted.rf rCause 23 16 =
    if s.loaded || s.isSafe then s.rf rCause 23 16 else min 255 (s.rf rCause 23 16 + 1) := by
  unfold State.restarted State.count
  split
  · exact s.rf_rosKept_cause_ne (by decide)
  · rw [State.rf_setRf_self _ _ _ (by decide) (by decide), s.rf_rosKept_cause_ne (by decide), satAdd]
    omega

theorem State.rf_restarted_ne (s : State) {k : Nat} (hi lo : Nat) (h : k ≠ rCause) : s.restarted.rf k hi lo = s.rosKept.rf k hi lo := by
  unfold State.restarted State.count
  split
  · rfl
  · exact State.rf_setRf_ne _ _ _ _ _ _ h

/-- What SYS_RST_L leaves: the package held, and source 2 recorded. -/
def State.sysHeldReset (s : State) : State := s.sysReset.setRf 0x1000014 0 0 1

theorem State.rf_sysHeldReset_held (s : State) : s.sysHeldReset.rf 0x1000014 0 0 = 1 := by
  rw [State.sysHeldReset]
  exact State.rf_setRf_self _ _ _ (by decide) (by decide)

theorem State.rseq_sysHeldReset (s : State) : s.sysHeldReset.rseq = s.rseq := by
  rw [State.sysHeldReset, State.setRf_rseq, State.sysReset_eq]

theorem State.rf_sysHeldReset_cause (s : State) (hi lo : Nat) : s.sysHeldReset.rf rCause hi lo = (s.restarted.cause 2).rf rCause hi lo := by
  rw [State.sysHeldReset, State.rf_setRf_ne _ _ _ _ _ _ (by decide), State.rf_sysReset, State.sysStarted,
    State.rf_setRf_ne _ _ _ _ _ _ (by decide)]

theorem State.rf_sysHeldReset_cause_ne (s : State) {hi lo : Nat} (h4 : 3 < lo) (h9 : hi < 9 ∨ 9 < lo) :
    s.sysHeldReset.rf rCause hi lo = s.restarted.rf rCause hi lo := by
  rw [State.rf_sysHeldReset_cause, State.cause, State.seen, State.rf_setRf_other _ _ _ (by decide) (by decide) (.inr h4),
    State.rf_setRf_other _ _ _ (by decide) (by decide) h9]

theorem State.rf_sysHeldReset_update (s : State) : s.sysHeldReset.rf 0x0030004 14 14 = s.rf 0x0030004 14 14 := by
  have hkept : s.rosKept.rf 0x0030004 14 14 = s.rf 0x0030004 14 14 := by
    rw [State.rosKept, State.rf_setRf_self _ _ _ (by decide) (by decide)]
    exact Nat.mod_eq_of_lt (fld_lt _ 14 14)
  rw [State.sysHeldReset, State.rf_setRf_ne _ _ _ _ _ _ (by decide), State.rf_sysReset, State.sysStarted,
    State.rf_setRf_ne _ _ _ _ _ _ (by decide), State.cause, State.seen, State.rf_setRf_ne _ _ _ _ _ _ (by decide),
    State.rf_setRf_ne _ _ _ _ _ _ (by decide), State.rf_restarted_ne _ _ _ (by decide), hkept]

/-- R303, R424: of the stores of s, t has the contents of HBM and the flash; no casement and no Pane's bytes. -/
structure State.StoresReset (s t : State) : Prop where
  cas : t.cas = []
  pane : t.pane = Mem.empty
  hbm : t.hbm = s.hbm
  flash : t.flash = s.flash
  jrn : t.jrn = Jrn.reset

namespace State.StoresReset
variable {s t : State} (h : s.StoresReset t)
include h

theorem setReg (k : Nat) (v : Word) : s.StoresReset (t.setReg k v) := by
  obtain ⟨hcas, hpane, hhbm, hflash, hjrn⟩ := h
  exact ⟨hcas, hpane, hhbm, hflash, hjrn⟩

theorem setRf (k hi lo v : Nat) : s.StoresReset (t.setRf k hi lo v) := h.setReg _ _

theorem withRseq (n : Nat) : s.StoresReset { t with rseq := n } := by
  obtain ⟨hcas, hpane, hhbm, hflash, hjrn⟩ := h
  exact ⟨hcas, hpane, hhbm, hflash, hjrn⟩

end State.StoresReset

theorem State.storesReset_fullReset (s : State) : s.StoresReset s.fullReset := by
  unfold State.fullReset State.keepPins
  refine State.StoresReset.setRf (State.StoresReset.setRf ?_ _ _ _ _) _ _ _ _
  exact ⟨rfl, rfl, rfl, rfl, rfl⟩

theorem State.storesReset_sysHeldReset (s : State) : s.StoresReset s.sysHeldReset := by
  have hkept : s.StoresReset s.rosKept := (s.storesReset_fullReset.setReg _ _).setRf _ _ _ _
  have hrestarted : s.StoresReset s.restarted := by
    unfold State.restarted State.count
    split
    · exact hkept
    · exact hkept.setRf _ _ _ _
  rw [State.sysHeldReset, State.sysReset_eq]
  exact ((((hrestarted.setRf _ _ _ _).setRf _ _ _ _).setRf _ _ _ _).withRseq _).setRf _ _ _ _

theorem State.sysHeld_of_out {s : State} (h : s.rf 0x1000014 0 0 = 0) : s.sysHeld = false := by
  rw [State.sysHeld, h]
  rfl

theorem exec_sysRst_asserted {s : State} (h : s.rf 0x1000014 0 0 = 0) : exec (.sysRst true) s = .next s.sysHeldReset := by
  show Host.Outcome.next (if true && !s.sysHeld then s.sysReset.setRf 0x1000014 0 0 1 else _) = _
  rw [State.sysHeld_of_out h]
  rfl

theorem exec_railFault {s : State} (h : s.rf 0x1000014 0 0 = 0) (rail : Nat) : exec (.railFault rail) s = .next s.fullReset := by
  show Host.Outcome.next (if s.sysHeld then s else s.powerOn) = _
  rw [State.sysHeld_of_out h, if_neg Bool.false_ne_true]
  rfl

/-! ### PERST_L (R395, R470) -/

/-- What PERST_L leaves: the reset of source 3, and the link held. -/
def State.linkHeld (s : State) (x : ShutIn) : State :=
  { (s.wideReset x 3).setRf 0x1000014 1 1 1 with boot := { ((s.wideReset x 3).setRf 0x1000014 1 1 1).boot with link := false } }

theorem State.rf_linkHeld (s : State) (x : ShutIn) : (s.linkHeld x).rf 0x1000014 1 1 = 1 := by
  show ((s.wideReset x 3).setRf 0x1000014 1 1 1).rf 0x1000014 1 1 = 1
  exact State.rf_setRf_self _ _ _ (by decide) (by decide)

theorem State.reg_linkHeld (s : State) (x : ShutIn) {k : Nat} (hk : k ≠ 0x1000014) : (s.linkHeld x).reg k = (s.wideReset x 3).reg k := by
  show ((s.wideReset x 3).setRf 0x1000014 1 1 1).reg k = _
  rw [State.reg_setRf_ne _ _ _ _ hk]

theorem exec_perst {s : State} (h : s.rf 0x1000014 1 1 = 0) (x : ShutIn) : exec (.perst x) s = .next (s.linkHeld x) := by
  show Host.Outcome.next (if s.rf 0x1000014 1 1 = 1 then s else s.linkHeld x) = _
  rw [h, if_neg Nat.zero_ne_one]

/-- R395: PERST_L is deasserted, and the link trains once bring-up has enabled it. -/
def State.linkFree (s : State) : State :=
  { s.setRf 0x1000014 1 1 0 with boot := { s.boot with link := s.boot.cfg } }

theorem exec_perstDeassert {s : State} (h : s.rf 0x1000014 1 1 = 1) : exec .perstDeassert s = .next s.linkFree.ready395 := by
  show Host.Outcome.next (if s.rf 0x1000014 1 1 = 1 then s.linkFree.ready395 else s) = _
  rw [if_pos h]

theorem State.ready395_of_drs {s : State} (h : (s.boot.cfg && s.boot.link && !s.boot.drs) = true) :
    s.ready395 = { s with boot := { s.boot with drs := true } }.emit .drs := if_pos h

theorem State.ready395_of_noDrs {s : State} (h : (s.boot.cfg && s.boot.link && !s.boot.drs) = false) : s.ready395 = s :=
  if_neg (Bool.eq_false_iff.mp h)

/-- R395: the link has the state that bring-up gives it, and DRS goes out where it is up for the first time. -/
theorem State.linkFree_ready395 (s : State) : s.linkFree.ready395.rf 0x1000014 1 1 = 0 ∧ s.linkFree.ready395.boot.link = s.boot.cfg ∧
    s.linkFree.ready395.out = if s.boot.cfg && !s.boot.drs then s.out ++ [Out.drs] else s.out := by
  have hfree : s.linkFree.rf 0x1000014 1 1 = 0 := by
    show (s.setRf 0x1000014 1 1 0).rf 0x1000014 1 1 = 0
    exact State.rf_setRf_self _ _ _ (by decide) (by decide)
  have hcond : (s.linkFree.boot.cfg && s.linkFree.boot.link && !s.linkFree.boot.drs) = (s.boot.cfg && !s.boot.drs) := by
    show (s.boot.cfg && s.boot.cfg && !s.boot.drs) = _
    rw [Bool.and_self]
  cases hdrs : (s.boot.cfg && !s.boot.drs) with
  | true =>
    rw [State.ready395_of_drs (hcond.trans hdrs), if_pos rfl]
    exact ⟨hfree, rfl, rfl⟩
  | false =>
    rw [State.ready395_of_noDrs (hcond.trans hdrs), if_neg Bool.false_ne_true]
    exact ⟨hfree, rfl, rfl⟩

/-! ### The wide resets (R424, R431) -/

theorem State.wideReset_of_held {s : State} (h : s.held = true) (x : ShutIn) (k : Nat) :
    s.wideReset x k = s.setRf rCause (7 + k) (7 + k) 1 := if_pos h

/-- Settles O50: sources 1 and 2 by the registers that they keep; the wide resets by the casements that they wipe. -/
theorem wholeResets : Obligations.WholeResets := by
  unfold Obligations.WholeResets
  refine fun s => ⟨rfl, fun hout rail => exec_railFault hout rail, rfl, fun hout => ?sysRst, fun _ => rfl, fun x => ⟨rfl, rfl⟩,
    fun x hlink => ?perst, fun hlink => ?perstOut, fun x k _ _ =>
      ⟨fun hheld => State.wideReset_of_held hheld x k, fun hheld => ?wide⟩⟩
  case sysRst =>
    obtain ⟨hcas, hpane, hhbm, hflash, hjrn⟩ := s.storesReset_sysHeldReset
    refine ⟨s.sysHeldReset, exec_sysRst_asserted hout, s.rf_sysHeldReset_held, ?cause, ?power, ?seen, ?loaded, ?loadrst,
      s.rf_sysHeldReset_update, s.rseq_sysHeldReset, hcas, hpane, hhbm, hflash, hjrn⟩
    case cause =>
      rw [State.rf_sysHeldReset_cause, State.cause]
      exact State.rf_setRf_self _ _ _ (by decide) (by decide)
    case power =>
      rw [s.rf_sysHeldReset_cause_ne (by decide) (by decide), s.rf_restarted_cause_ne (by decide), s.rf_rosKept_cause_ne (by decide)]
    case seen =>
      rw [State.rf_sysHeldReset_cause, State.cause, State.rf_setRf_other _ _ _ (by decide) (by decide) (by decide), State.seen]
      exact State.rf_setRf_self _ _ _ (by decide) (by decide)
    case loaded =>
      rw [s.rf_sysHeldReset_cause_ne (by decide) (by decide), s.rf_restarted_cause_ne (by decide), State.rf_rosKept_cause]
      exact fld_setFld_self _ _ (by decide)
    case loadrst => rw [s.rf_sysHeldReset_cause_ne (by decide) (by decide), s.loadrst_restarted]
  case perst =>
    exact ⟨s.linkHeld x, exec_perst hlink x, s.rf_linkHeld x, rfl, fun k hk => s.reg_linkHeld x hk⟩
  case perstOut => exact ⟨_, exec_perstDeassert hlink, s.linkFree_ready395⟩
  case wide =>
    obtain ⟨hsteps, hgone⟩ := State.wideReset_of_running x k hheld
    exact ⟨hsteps.fuses, hgone⟩

end Sys2Proof.Machine
end

section
/-! SUPPORT. What events, frames sent and the end of a program leave of the fabric (R329, R334, R342, R360, R417): its registers, what the
ports hold of each casement, and the ports whose link is not up. HOLD (R359, R360) is an update of its own casement, then such steps. -/

namespace Sys2Proof.Machine

/-! ### The fabric's registers -/

/-- An offset of the fabric's port and casement registers (R363), where no ring has a register (R419). -/
def fabReg (k : Nat) : Prop := (0x0200000 ≤ k ∧ k < 0x0210000) ∧ k % 0x100 ≠ 0x1C ∧ k % 0x100 ≠ 0x20 ∧ k % 0x100 ≠ 0x24

theorem fabReg_rPort {p o : Nat} (hp : p < 8) (ho : o < 0x1C) : fabReg (rPort p o) := by
  unfold fabReg rPort; omega

theorem fabReg_rFab {d o : Nat} (hd : d < 4) (ho : o < 0x1C) : fabReg (rFab d o) := by
  unfold fabReg rFab; omega

/-! ### The same fabric -/

/-- t has the fabric's registers of s, what its ports hold of each casement, and its ports whose link is not up. -/
structure State.FabricKept (s t : State) : Prop where
  reg : ∀ k, fabReg k → t.reg k = s.reg k
  fabs : t.fabs = s.fabs
  port : ∀ q, q < 8 → s.portUp q = false → t.port q = s.port q

namespace State.FabricKept
variable {s t u : State}

theorem of_fields (hregs : t.regs = s.regs) (hfabs : t.fabs = s.fabs) (hports : t.ports = s.ports) : s.FabricKept t :=
  ⟨fun k _ => by rw [State.reg, hregs, State.reg], hfabs, fun q _ _ => by rw [State.port, hports, State.port]⟩

theorem refl (s : State) : s.FabricKept s := of_fields rfl rfl rfl

theorem rf (h : s.FabricKept t) {k : Nat} (hk : fabReg k) (hi lo : Nat) : t.rf k hi lo = s.rf k hi lo := by
  rw [State.rf, h.reg k hk, State.rf]

theorem portUp (h : s.FabricKept t) {q : Nat} (hq : q < 8) : t.portUp q = s.portUp q := by
  rw [State.portUp, State.portState, h.rf (fabReg_rPort hq (by decide))]
  rfl

theorem trans (h : s.FabricKept t) (h' : t.FabricKept u) : s.FabricKept u :=
  ⟨fun k hk => (h'.reg k hk).trans (h.reg k hk), h'.fabs.trans h.fabs,
    fun q hq hdown => (h'.port q hq ((h.portUp hq).trans hdown)).trans (h.port q hq hdown)⟩

theorem ite {c : Prop} [Decidable c] (ht : s.FabricKept t) (hu : s.FabricKept u) : s.FabricKept (if c then t else u) := by
  split <;> assumption

theorem foldl {α : Type} {f : State → α → State} (hf : ∀ (s : State) a, s.FabricKept (f s a)) (l : List α) (s : State) :
    s.FabricKept (l.foldl f s) := by
  induction l generalizing s with
  | nil => exact refl s
  | cons a l ih => exact (hf s a).trans (ih _)

end State.FabricKept

theorem State.fabricKept_setReg (s : State) {k : Nat} (v : Word) (hk : ¬ fabReg k) : s.FabricKept (s.setReg k v) :=
  ⟨fun _ hj => s.reg_setReg_ne v (fun e => hk (e ▸ hj)), rfl, fun _ _ _ => rfl⟩

theorem State.fabricKept_setRf (s : State) {k : Nat} (hi lo v : Nat) (hk : ¬ fabReg k) : s.FabricKept (s.setRf k hi lo v) :=
  s.fabricKept_setReg _ hk

/-! ### Events (R413 to R419) -/

/-- R419: no register of an event ring is one of the fabric's. -/
theorem not_fabReg_ring (f : Nat) {o : Nat} (ho : o = 0x1C ∨ o = 0x20 ∨ o = 0x24) : ¬ fabReg (ringWin f true + o) := by
  show ¬ fabReg (0x50000 + 0x100 * f + o)
  unfold fabReg; omega

theorem State.fabricKept_sendVec (s : State) (f v : Nat) : s.FabricKept (s.sendVec f v) := by
  unfold State.sendVec
  exact .ite (s.fabricKept_setRf _ _ _ (by unfold fabReg pbaKey; omega)) (.of_fields rfl rfl rfl)

theorem State.fabricKept_ringSignal (s : State) (f : Nat) : s.FabricKept (s.ringSignal f true) := by
  unfold State.ringSignal
  exact .ite ((s.fabricKept_setRf _ _ _ (not_fabReg_ring f (.inl rfl))).trans (State.fabricKept_sendVec _ _ _)) (.refl s)

theorem State.fabricKept_ringWrite (s : State) (f : Nat) (bs : List Nat) : s.FabricKept (s.ringWrite f true bs) := by
  unfold State.ringWrite
  extract_lets tail s1 next s2 s3
  have hhost : s.FabricKept s1 := .of_fields rfl rfl rfl
  have htail : s1.FabricKept s2 := s1.fabricKept_setRf _ _ _ (not_fabReg_ring f (.inr (.inl rfl)))
  have hphase : s2.FabricKept s3 := .ite (.of_fields rfl rfl rfl) (.refl s2)
  exact ((hhost.trans htail).trans hphase).trans (s3.fabricKept_ringSignal f)

theorem State.fabricKept_ringEvent (s : State) (f : Nat) (e : Ev) (n : Nat) : s.FabricKept (s.ringEvent f e n) := by
  unfold State.ringEvent
  exact .ite ((s.fabricKept_ringWrite f _).trans (.of_fields rfl rfl rfl))
    ((s.fabricKept_setRf _ _ _ (not_fabReg_ring f (.inr (.inr rfl)))).trans (.of_fields rfl rfl rfl))

theorem State.fabricKept_post (s : State) (e : Ev) : s.FabricKept (s.post e) := by
  have hgrant : s.FabricKept (s.grant arbEvent) := .of_fields rfl rfl rfl
  unfold State.post
  refine .trans ?_ (State.fabricKept_ringEvent _ 0 e _)
  split
  · exact .ite hgrant (hgrant.trans (State.fabricKept_ringEvent _ _ e _))
  · exact hgrant

theorem State.SameButRings.ports_eq {s t : State} (h : s.SameButRings t) : t.ports = s.ports := by
  obtain ⟨_, _, _, _, _, rfl⟩ := h
  rfl

@[simp] theorem State.post_port (s : State) (e : Ev) (q : Nat) : (s.post e).port q = s.port q := by
  rw [State.port, (s.sameButRings_post e).ports_eq, State.port]

/-! ### Frames sent (R329, R334, R342) -/

theorem State.fabricKept_injFire (s : State) : s.FabricKept s.injFire :=
  ((s.fabricKept_setRf _ _ _ (by unfold fabReg; omega)).trans (State.fabricKept_setRf _ _ _ _ (by unfold fabReg; omega))).trans
    (State.fabricKept_setRf _ _ _ _ (by unfold fabReg; omega))

/-- A port that is up is none of those that FabricKept speaks of. -/
theorem State.fabricKept_setPort {s : State} {p : Nat} (hup : s.portUp p = true) (x : Port) : s.FabricKept (s.setPort p x) :=
  ⟨fun _ _ => rfl, rfl, fun q _ hdown => s.port_setPort_ne x (by rintro rfl; rw [hup] at hdown; cases hdown)⟩

theorem State.fabricKept_sendNow {s : State} {p : Nat} (hp : p < 8) (hup : s.portUp p = true) (x : Port) (fr : Frame) :
    s.FabricKept (s.sendNow p x fr) := by
  unfold State.sendNow
  extract_lets dig line out s1
  have hfire : s.FabricKept s1 := .ite s.fabricKept_injFire (.refl s)
  exact (hfire.trans (State.fabricKept_setPort ((hfire.portUp hp).trans hup) _)).trans (.of_fields rfl rfl rfl)

theorem State.fabricKept_pumpTx (s : State) {p : Nat} (hp : p < 8) (n : Nat) : s.FabricKept (s.pumpTx p n) := by
  induction n generalizing s with
  | zero => exact .refl s
  | succ n ih =>
    rw [State.pumpTx]
    cases hup : s.portUp p with
    | false => simpa using State.FabricKept.refl s
    | true =>
      refine .ite (.refl s) ?_
      split
      · exact (State.fabricKept_sendNow hp hup _ _).trans (ih _)
      · exact .refl s

theorem State.fabricKept_tx {s : State} {p : Nat} (hp : p < 8) (hup : s.portUp p = true) (fr : Frame) : s.FabricKept (s.tx p fr) :=
  (State.fabricKept_setPort hup _).trans (State.fabricKept_pumpTx _ hp _)

/-- R342: a frame is forwarded at a port whose link is up only. -/
theorem State.route_fwd {s : State} {dest ctag p : Nat} {downed esc : Bool} (h : s.route dest ctag downed = .fwd p esc) :
    p < 8 ∧ s.portUp p = true := by
  simp only [State.route] at h
  split at h
  case isTrue => split at h <;> cases h
  case isFalse =>
    split at h
    · cases h
    · split at h
      · cases h
      · split at h
        · cases h
        · split at h
          case isTrue hport =>
            obtain ⟨rfl, -⟩ := Route.fwd.inj h
            exact ⟨by omega, hport.2.2⟩
          case isFalse =>
            split at h
            case isTrue halt =>
              obtain ⟨rfl, -⟩ := Route.fwd.inj h
              exact ⟨by omega, halt.2.2⟩
            case isFalse => cases h

theorem State.fabricKept_sendTo (s : State) (dest ctag psn : Nat) (b : FBody) : s.FabricKept (s.sendTo dest ctag psn b).1 := by
  unfold State.sendTo
  extract_lets fr
  split
  · rename_i p esc hroute
    obtain ⟨hp, hup⟩ := State.route_fwd hroute
    exact State.fabricKept_tx hp hup _
  · exact .refl s

/-! ### The end of a program (R250, R360) -/

theorem State.fabricKept_mapIdxLts (s : State) (d : Nat) (f : Nat → LTile → LTile) : s.FabricKept (s.mapIdxLts d f) :=
  .foldl (fun s t => .of_fields (s.setLt_regs d t _) (s.setLt_fabs d t _) (s.setLt_ports d t _)) _ s

theorem State.fabricKept_endBy (s : State) (f : Nat → LTile → LTile) (d n : Nat) : s.FabricKept (s.endBy f d n) := by
  have hstop : s.FabricKept ((s.mapIdxLts d f).setCas d { s.casement d with phase := .stopped, quiesce := false, start := none }) :=
    (s.fabricKept_mapIdxLts d f).trans (.of_fields rfl rfl rfl)
  unfold State.endBy
  extract_lets c s1
  refine .ite ?_ (.refl s)
  split
  · exact hstop.trans (.of_fields rfl rfl rfl)
  · exact hstop

theorem State.phase_endBy (s : State) (f : Nat → LTile → LTile) (d n : Nat) : ((s.endBy f d n).casement d).phase ≠ .running := by
  unfold State.endBy
  extract_lets c s1
  have hs1 : s1.casement d = { c with phase := .stopped, quiesce := false, start := none } := State.casement_setCas_self _ _ _
  split
  · split
    · rw [State.setFn_casement, hs1]; simp
    · rw [hs1]; simp
  · assumption

/-! ### HOLD (R359, R360) -/

/-- Casement d as it enters HOLD: its state and its cause show, and its ports have discarded what they held. -/
def State.holding (s : State) (d cause : Nat) : State :=
  ((s.setRf (rFab d 0x18) 1 0 2).setRf (rFab d 0x18) 11 8 cause).fabDiscard d

section Hold
variable {s : State} {d : Nat} (cause n : Nat)

theorem State.enterHold_of_not_live (h : s.fabState d ≠ 1) : s.enterHold d cause n = s := if_neg h

/-- The frames that tell the other members, the event and the program's end leave the fabric as HOLD's entry made it. -/
theorem State.fabricKept_enterHold (h : s.fabState d = 1) : (s.holding d cause).FabricKept (s.enterHold d cause n) := by
  rw [State.enterHold, if_pos h]
  exact ((State.FabricKept.foldl (fun _ _ => State.fabricKept_sendTo _ _ _ _ _) _ _).trans (State.fabricKept_post _ _)).trans
    (State.fabricKept_endBy _ _ _ _)

theorem State.phase_enterHold (h : s.fabState d = 1) : ((s.enterHold d cause n).casement d).phase ≠ .running := by
  rw [State.enterHold, if_pos h]
  exact State.phase_endBy _ _ _ _

theorem State.fab_enterHold (h : s.fabState d = 1) : (s.enterHold d cause n).fab d =
    { Fab.reset with nextReq := (s.fab d).nextReq, nextHandle := (s.fab d).nextHandle } := by
  rw [State.fab, (State.fabricKept_enterHold cause n h).fabs]
  exact State.fab_setFab_self _ _ _

theorem State.fabState_enterHold (hd : d < 4) (h : s.fabState d = 1) : (s.enterHold d cause n).fabState d = 2 := by
  rw [State.fabState, (State.fabricKept_enterHold cause n h).rf (fabReg_rFab hd (by decide))]
  show ((s.setRf (rFab d 0x18) 1 0 2).setRf (rFab d 0x18) 11 8 cause).rf (rFab d 0x18) 1 0 = 2
  rw [State.rf_setRf_other _ _ _ (by decide) (by decide) (by decide)]
  exact State.rf_setRf_self _ _ _ (by decide) (by decide)

theorem State.cause_enterHold (hd : d < 4) (hc : cause < 8) (h : s.fabState d = 1) :
    (s.enterHold d cause n).rf (rFab d 0x18) 11 8 = cause := by
  rw [(State.fabricKept_enterHold cause n h).rf (fabReg_rFab hd (by decide))]
  show ((s.setRf (rFab d 0x18) 1 0 2).setRf (rFab d 0x18) 11 8 cause).rf (rFab d 0x18) 11 8 = cause
  rw [State.rf_setRf_self _ _ _ (by decide) (by decide)]
  omega

end Hold

/-! ### Ports, whatever casement enters HOLD -/

/-- t has port p's registers of s, and the port itself where its link is not up. -/
structure State.PortKept (p : Nat) (s t : State) : Prop where
  reg : ∀ o, o < 0x1C → t.reg (rPort p o) = s.reg (rPort p o)
  port : s.portUp p = false → t.port p = s.port p

namespace State.PortKept
variable {p : Nat} {s t u : State}

theorem refl (p : Nat) (s : State) : State.PortKept p s s := ⟨fun _ _ => rfl, fun _ => rfl⟩

theorem rf (h : State.PortKept p s t) {o : Nat} (ho : o < 0x1C) (hi lo : Nat) : t.rf (rPort p o) hi lo = s.rf (rPort p o) hi lo := by
  rw [State.rf, h.reg o ho, State.rf]

theorem trans (h : State.PortKept p s t) (h' : State.PortKept p t u) : State.PortKept p s u :=
  ⟨fun o ho => (h'.reg o ho).trans (h.reg o ho), fun hdown => by
    have hdown' : t.portUp p = false := by rw [State.portUp, State.portState, h.rf (by decide)]; exact hdown
    exact (h'.port hdown').trans (h.port hdown)⟩

end State.PortKept

theorem State.FabricKept.portKept {s t : State} (h : s.FabricKept t) {p : Nat} (hp : p < 8) : State.PortKept p s t :=
  ⟨fun _ ho => h.reg _ (fabReg_rPort hp ho), h.port p hp⟩

theorem State.portKept_enterHold (s : State) {p : Nat} (hp : p < 8) (d cause n : Nat) : State.PortKept p s (s.enterHold d cause n) := by
  by_cases h : s.fabState d = 1
  · have hholding : State.PortKept p s (s.holding d cause) := ⟨fun o ho => by
      have hne : rPort p o ≠ rFab d 0x18 := by unfold rPort rFab; omega
      show ((s.setRf (rFab d 0x18) 1 0 2).setRf (rFab d 0x18) 11 8 cause).reg (rPort p o) = s.reg (rPort p o)
      rw [State.reg_setRf_ne _ _ _ _ hne, State.reg_setRf_ne _ _ _ _ hne], fun _ => rfl⟩
    exact hholding.trans ((State.fabricKept_enterHold cause n h).portKept hp)
  · rw [State.enterHold_of_not_live cause n h]
    exact .refl p s

theorem State.portKept_foldl_enterHold (l : List Nat) (s : State) {p : Nat} (hp : p < 8) (cause n : Nat) :
    State.PortKept p s (l.foldl (fun s d => s.enterHold d cause n) s) := by
  induction l generalizing s with
  | nil => exact .refl p s
  | cons d l ih => exact (s.portKept_enterHold hp d cause n).trans (ih _)

end Sys2Proof.Machine
end

section
/-! PROOFS. R340 to R343: a frame that waits to be routed, and the routing rules. -/

namespace Sys2Proof.Machine

section Forward
variable {s : State} {p : Nat} {fr : Frame} {rest : List Frame}

/-! ### The first frame that waits (R342) -/

/-- Port p without the first of the frames that wait to be routed, fr, whose credits it has given back. -/
def State.unqueued (s : State) (p : Nat) (fr : Frame) (rest : List Frame) : State :=
  s.setPort p (Port.giveBack { s.port p with rxq := rest } fr)

theorem State.frameForward_of_fwd {q : Nat} {esc : Bool} (hq : (s.port p).rxq = fr :: rest)
    (hr : (s.unqueued p fr rest).route fr.dest fr.ctag fr.downed = .fwd q esc) :
    s.frameForward p = (s.unqueued p fr rest).tx q { fr with esc := esc } := by
  unfold State.unqueued at hr ⊢
  simp only [State.frameForward, hq, hr]

theorem State.frameForward_of_deliver (hq : (s.port p).rxq = fr :: rest)
    (hr : (s.unqueued p fr rest).route fr.dest fr.ctag fr.downed = .deliver) :
    s.frameForward p = (s.unqueued p fr rest).setPort p { (s.unqueued p fr rest).port p with
      inbox := ((s.unqueued p fr rest).port p).inbox ++ [fr] } := by
  unfold State.unqueued at hr ⊢
  simp only [State.frameForward, hq, hr]

theorem State.frameForward_of_drop (hq : (s.port p).rxq = fr :: rest)
    (hr : (s.unqueued p fr rest).route fr.dest fr.ctag fr.downed = .drop) :
    s.frameForward p = (s.unqueued p fr rest).dropped p fr := by
  unfold State.unqueued at hr ⊢
  simp only [State.frameForward, hq, hr]

theorem exec_frameForward (p : Fin 8) (s : State) : exec (.frameForward p) s = .next (s.frameForward p) := rfl

end Forward

/-! ### The rules (R342) -/

section Route
variable {s : State} {dest ctag : Nat} {downed : Bool}

/-- R342, R346: a casement of the package has the tag. -/
theorem State.fabOf_isSome_iff (s : State) (ctag : Nat) : (s.fabOf ctag).isSome = true ↔
    ∃ d, d < 4 ∧ (s.casement d).exist = true ∧ s.rf (rFab d 0) 15 0 = ctag := by
  simp [State.fabOf, State.fabTag]

theorem State.route_of_own (h : dest = s.pkgId) :
    s.route dest ctag downed = if (s.fabOf ctag).isSome then .deliver else .drop := if_pos h

theorem State.route_of_downed (h : dest ≠ s.pkgId) : s.route dest ctag true = .drop := by
  rw [State.route, if_neg h, if_pos rfl]

theorem State.route_of_no_entry (h : dest ≠ s.pkgId) (he : s.rf (routeKey dest) 8 8 = 0 ∨ s.rf (routeKey dest) 3 0 = 15) :
    s.route dest ctag false = .drop := by
  simp only [State.route, if_neg h, if_pos he, Bool.false_eq_true, if_false]

/-- A frame that its entry lets pass takes PORT, or ALT where PORT's link is not up. -/
theorem State.route_of_entry (h : dest ≠ s.pkgId) (hv : s.rf (routeKey dest) 8 8 = 1) (hport : s.rf (routeKey dest) 3 0 ≠ 15) :
    s.route dest ctag false =
      let port := s.rf (routeKey dest) 3 0
      let alt := s.rf (routeKey dest) 7 4
      if s.rf (routeKey dest) 9 9 = 1 ∧ s.rf (routeKey dest) 31 16 ≠ ctag then .drop
      else if 1 ≤ port ∧ port ≤ 8 ∧ s.portUp (port - 1) then .fwd (port - 1) false
      else if 5 ≤ alt ∧ alt ≤ 8 ∧ s.portUp (alt - 1) then .fwd (alt - 1) true
      else .drop := by
  have hentry : ¬ (s.rf (routeKey dest) 8 8 = 0 ∨ s.rf (routeKey dest) 3 0 = 15) := by omega
  simp only [State.route, if_neg h, if_neg hentry, Bool.false_eq_true, if_false]

end Route

/-- Settles O25: the frame goes by the case of its route, and each rule is one branch of State.route. -/
theorem frameForwarded : Obligations.FrameForwarded := by
  unfold Obligations.FrameForwarded
  refine ⟨fun p s fr rest hq => ⟨fun q esc hr => ?fwd, fun hr => ?deliver, fun hr => ?drop⟩, fun dest ctag downed s => ?rules⟩
  case fwd => rw [exec_frameForward, State.frameForward_of_fwd hq hr]; rfl
  case deliver => rw [exec_frameForward, State.frameForward_of_deliver hq hr]; rfl
  case drop => rw [exec_frameForward, State.frameForward_of_drop hq hr]; rfl
  case rules =>
    intro k port alt held
    refine ⟨fun hown hheld => ?own, fun hown hnot => ?stray, fun hother hdowned => ?downed, fun hother hdowned => ?entry⟩
    case own => rw [State.route_of_own hown, if_pos ((s.fabOf_isSome_iff ctag).mpr hheld)]
    case stray => rw [State.route_of_own hown, if_neg (mt (s.fabOf_isSome_iff ctag).mp hnot)]
    case downed => rw [hdowned, State.route_of_downed hother]
    case entry =>
      subst hdowned
      refine ⟨fun hnone => State.route_of_no_entry hother hnone, fun hv hport hck htag => ?tag, fun hv hpass => ?pass⟩
      case tag =>
        rw [State.route_of_entry hother hv hport]
        exact if_pos ⟨hck, htag⟩
      case pass =>
        have hlets : ¬ (s.rf k 9 9 = 1 ∧ s.rf k 31 16 ≠ ctag) := by omega
        refine ⟨fun h1 h8 hup => ?port, fun h1 h8 hdown ha5 ha8 haup => ?alt⟩
        case port =>
          rw [State.route_of_entry hother hv (show port ≠ 15 by omega)]
          exact (if_neg hlets).trans (if_pos ⟨h1, h8, hup⟩)
        case alt =>
          have hno : ¬ (1 ≤ port ∧ port ≤ 8 ∧ s.portUp (port - 1) = true) := fun hall => by simp [hdown] at hall
          rw [State.route_of_entry hother hv (show port ≠ 15 by omega)]
          exact ((if_neg hlets).trans (if_neg hno)).trans (if_pos ⟨ha5, ha8, haup⟩)

end Sys2Proof.Machine
end

section
/-! PROOFS. R343, R344, R352, R354 to R359: the frames of reductions, of tokens and of HOLD. -/

namespace Sys2Proof.Machine

/-! ### Frames of a LIVE casement (R346) -/

section Frames
variable {s : State} {p d : Nat} {fr : Frame} {x : Port}

/-- A frame that was got is handled by its command, on the state without it. -/
theorem State.onLive_of_got {f : FBody → Bool} (go : State → Nat → Frame → State) (h : s.gotFrame p f d fr x) :
    s.onLive p f go = go (s.setPort p x) d fr := by
  obtain ⟨htake, hfab, hlive⟩ := h
  have hfab' : (s.setPort p x).fabOf fr.ctag = some d := hfab
  have hlive' : (s.setPort p x).fabState d = 1 := hlive
  rw [State.onLive, State.withFrame_of_take _ htake, hfab']
  exact if_pos hlive'

/-! ### Requests (R354, R356, R358) -/

/-- A member that has joined a piece finds it. -/
theorem State.red?_joinRed (s : State) (d g shard seg piece n e : Nat) (m : FMem) :
    ∃ r, (s.joinRed d g shard seg piece n e m).red? d g shard seg piece = some r := by
  refine Option.isSome_iff_exists.mp (List.find?_isSome.mpr ?_)
  cases hr : s.red? d g shard seg piece with
  | some r =>
    have hfind : (s.fab d).reds.find? (fun x => x.is g shard seg piece) = some r := hr
    have hmem : r ∈ (s.fab d).reds := List.mem_of_find?_eq_some hfind
    have his : r.is g shard seg piece = true := (List.find?_some hfind :)
    refine ⟨{ r with mems := r.mems ++ [m] }, ?_, his⟩
    simp only [State.joinRed, hr, State.updRed, State.fab_setFab_self]
    exact List.mem_map.mpr ⟨r, hmem, if_pos (by simp [FRed.is])⟩
  | none =>
    simp only [State.joinRed, hr, State.fab_setFab_self]
    exact ⟨_, List.mem_append_right _ List.mem_cons_self, by simp [FRed.is]⟩

/-- What R354 step 2 and R348 ask of a request: its group is the casement's, its sender the member it says, its piece one of the segment. -/
def State.asks (s : State) (d g gi src piece e : Nat) : Prop :=
  let pk := s.groupPkgs d g
  s.groupBad d g = false ∧ gi < pk.length ∧ nth pk gi s.pkgId = src ∧
    piece < (segPieces (ceilDiv e 8) pk.length (pk.idxOf s.pkgId)).length

section Request
variable {id g gi shard piece e tile ret desc : Nat}

theorem State.preq_of_asks (h : s.gotFrame p isPreq d fr x) (hb : fr.body = .preq id g gi shard piece e tile ret desc)
    (hasks : (s.setPort p x).asks d g gi fr.src piece e) :
    s.preq p =
      let u := s.setPort p x
      let pk := u.groupPkgs d g
      let seg := pk.idxOf u.pkgId
      if u.fits d g shard seg piece gi e then
        let v := u.joinRed d g shard seg piece pk.length e ⟨gi, fr.src, id, ret, none, false, false, 0, [], []⟩
        (v.red? d g shard seg piece).elim v (v.tryGrant d)
      else u.enterHold d 7 := by
  obtain ⟨hgroup, hgi, hsrc, hpiece⟩ := hasks
  rw [State.preq, State.onLive_of_got _ h]
  simp only [hb, hgroup, hsrc, Nat.not_le.mpr hgi, Nat.not_le.mpr hpiece, bne_self_eq_false, Bool.or_false, decide_false,
    Bool.false_eq_true, if_false]
  split
  · split <;> rename_i hr <;> rw [hr] <;> rfl
  · rfl

end Request

theorem State.tryGrant_of_grantable {r : FRed} {m : FMem} (h : s.grantable r = some m) : s.tryGrant d r = s.grantTo d r m := by
  rw [State.tryGrant, h]

/-- R356: the first request that waits at port p and can be granted. -/
theorem State.grantIssue_of_found {r : FRed}
    (h : ((List.range 4).flatMap (fun d => ((s.fab d).reds.filter (fun r => r.port == p)).map (fun r => (d, r)))).find?
      (fun x => (s.grantable x.2).isSome) = some (d, r)) : s.grantIssue p = s.tryGrant d r := by
  rw [State.grantIssue, h]

theorem exec_preq (p : Fin 8) (s : State) : exec (.preq p) s = .next (s.preq p) := rfl
theorem exec_grantIssue (p : Fin 8) (s : State) : exec (.grantIssue p) s = .next (s.grantIssue p) := rfl

end Frames

/-- Settles O27: a request of the group joins its piece, which it then finds, and is tried; the waiting one is the first that can be
granted. -/
theorem requestsGranted : Obligations.RequestsGranted := by
  unfold Obligations.RequestsGranted
  refine ⟨fun p s d fr x id g gi shard piece e tile ret desc hgot hb => ?request, fun p s d r m hfirst hm => ?waiting⟩
  case request =>
    intro u pk seg hgroup hgi hsrc hpiece
    rw [exec_preq, State.preq_of_asks hgot hb ⟨hgroup, hgi, hsrc, hpiece⟩]
    refine ⟨fun hunfit => ?unfit, fun hfits => ?fits⟩
    case unfit => exact congrArg _ (if_neg (Bool.eq_false_iff.mp hunfit))
    case fits =>
      intro v
      obtain ⟨r, hr⟩ := u.red?_joinRed d g shard seg piece pk.length e ⟨gi, fr.src, id, ret, none, false, false, 0, [], []⟩
      refine ⟨r, hr, congrArg _ ((if_pos hfits).trans ?_)⟩
      show (v.red? d g shard seg piece).elim v (v.tryGrant d) = _
      rw [hr]; rfl
  case waiting => rw [exec_grantIssue, State.grantIssue_of_found hfirst, State.tryGrant_of_grantable hm]

end Sys2Proof.Machine
end

section
/-! PROOFS. R354, R355, R357: pieces, results and their digests. -/

namespace Sys2Proof.Machine

section Pieces
variable {s : State} {p d : Nat} {fr : Frame} {x : Port}

theorem exec_grant (p : Fin 8) (s : State) : exec (.grant p) s = .next (s.granted p) := rfl
theorem exec_piece (p : Fin 8) (s : State) : exec (.piece p) s = .next (s.pieceIn p) := rfl
theorem exec_deliver (p : Fin 8) (s : State) : exec (.deliver p) s = .next (s.deliverIn p) := rfl
theorem exec_digest (p : Fin 8) (bad : Nat) (s : State) : exec (.digest p bad) s = .next (s.digestIn p bad) := rfl

/-- R354 step 4: a GRANT of a request that waits for one: its piece goes to the reducer. -/
theorem State.granted_of_waiting {id h : Nat} {r : FReq} (hgot : s.gotFrame p isGrant d fr x) (hb : fr.body = .grant id h)
    (hr : (s.fab d).reqs.find? (fun r => r.reqid == id && r.tgt == fr.src && r.handle.isNone) = some r) :
    s.granted p =
      let v := (s.setPort p x).setFab d { s.fab d with
        reqs := (s.fab d).reqs.map (fun y => if y.reqid = id then { y with handle := some h } else y) }
      v.sendData r.tgt (v.fabTag d) h false r.chunks r.psn := by
  rw [State.granted, State.onLive_of_got _ hgot]
  simp only [hb, State.setPort_fab, hr]

theorem State.pieceIn_of_got {h off : Nat} {last : Bool} {cs : List Nat} (hgot : s.gotFrame p isPiece d fr x)
    (hb : fr.body = .piece h off last cs) :
    s.pieceIn p = (s.setPort p x).setFab d { s.fab d with
      reds := (s.fab d).reds.map (fun r => { r with mems := r.mems.map (fun m =>
        if m.handle = some h ∧ m.pkg = fr.src ∧ m.folded = false then
          { m with chunks := putChunks m.chunks cs off, psn := putPsn m.psn fr.psn cs.length off } else m) }) } := by
  rw [State.pieceIn, State.onLive_of_got _ hgot]
  simp only [hb, State.setPort_fab]

theorem State.deliverIn_of_got {h off : Nat} {last : Bool} {cs : List Nat} (hgot : s.gotFrame p isDeliver d fr x)
    (hb : fr.body = .deliver h off last cs) :
    s.deliverIn p = (s.setPort p x).setFab d { s.fab d with
      rets := (s.fab d).rets.map (fun r =>
        if r.ret = h ∧ r.from_ = fr.src then
          { r with chunks := putChunks r.chunks cs off, psn := putPsn r.psn fr.psn cs.length off } else r) } := by
  rw [State.deliverIn, State.onLive_of_got _ hgot]
  simp only [hb, State.setPort_fab]

/-! ### Digests (R354 steps 5 and 6, R357) -/

/-- The granted piece of sender src with handle h that is not folded yet: where it is reduced, and whose it is. -/
def Fab.openPiece (f : Fab) (h src : Nat) : Option (FRed × FMem) :=
  f.reds.findSome? (fun r => (r.mems.find? (fun m => m.handle == some h && m.pkg == src && !m.folded)).map (fun m => (r, m)))

theorem State.digestIn_of_piece {h crc : Nat} {r : FRed} {m : FMem} (bad : Nat) (hgot : s.gotFrame p isDigest d fr x)
    (hb : fr.body = .digest h crc) (hhit : (s.fab d).openPiece h fr.src = some (r, m)) :
    s.digestIn p bad = (s.setPort p x).digestPiece p d h crc bad r m := by
  unfold Fab.openPiece at hhit
  rw [State.digestIn, State.onLive_of_got _ hgot]
  simp only [hb, State.setPort_fab, hhit]

theorem State.digestIn_of_result {h crc : Nat} {y : FRet} (bad : Nat) (hgot : s.gotFrame p isDigest d fr x)
    (hb : fr.body = .digest h crc) (hhit : (s.fab d).openPiece h fr.src = none)
    (hret : (s.fab d).rets.find? (fun y => y.ret == h && y.from_ == fr.src) = some y) :
    s.digestIn p bad = (s.setPort p x).digestResult p d crc y := by
  unfold Fab.openPiece at hhit
  rw [State.digestIn, State.onLive_of_got _ hgot]
  simp only [hb, State.setPort_fab, hhit, hret]

section Digest
variable {h crc bad : Nat} {r : FRed} {m : FMem}

/-- A whole piece whose digest fits and whose fold's sums agree is acknowledged. -/
theorem State.digestPiece_of_folded {v : State} (hlen : m.chunks.length = r.count) (hcrc : pieceDigest m.chunks = crc)
    (hfold : s.fold d r m.gi bad m.chunks m.psn = (v, true)) :
    s.digestPiece p d h crc bad r m = (v.sendTo m.pkg (v.fabTag d) 0 (.ack h false)).1 := by
  rw [State.digestPiece, if_pos ⟨hlen, hcrc⟩, hfold]

/-- One whose fold's sums disagree twice is not. -/
theorem State.digestPiece_of_unfolded {v : State} (hlen : m.chunks.length = r.count) (hcrc : pieceDigest m.chunks = crc)
    (hfold : s.fold d r m.gi bad m.chunks m.psn = (v, false)) : s.digestPiece p d h crc bad r m = v := by
  rw [State.digestPiece, if_pos ⟨hlen, hcrc⟩, hfold]

/-- A piece that is not whole, or whose digest does not fit, is discarded and counted. -/
theorem State.digestPiece_of_mismatch (hno : m.chunks.length ≠ r.count ∨ pieceDigest m.chunks ≠ crc) :
    s.digestPiece p d h crc bad r m =
      (s.updRed d r { r with mems := r.mems.map (fun y =>
        if y.gi = m.gi then { y with tries := y.tries + 1, chunks := [], psn := [] } else y) }).digestBad p d h m.pkg m.tries := by
  rw [State.digestPiece, if_neg (by omega)]

end Digest

end Pieces

/-- Settles O28: each frame is got by State.onLive, and each clause is one case of its command; a digest asks first for an open piece,
then for a result that is awaited. -/
theorem piecesMove : Obligations.PiecesMove := by
  unfold Obligations.PiecesMove
  refine ⟨fun p s d fr x => ⟨fun id h r hgot hb hr => ?grant, fun h off last cs hgot hb => ?piece, fun h off last cs hgot hb => ?deliver⟩,
    fun p bad s d fr x h crc => ?digest⟩
  case grant => rw [exec_grant, State.granted_of_waiting hgot hb hr]
  case piece => rw [exec_piece, State.pieceIn_of_got hgot hb]; rfl
  case deliver => rw [exec_deliver, State.deliverIn_of_got hgot hb]; rfl
  case digest =>
    intro u hit hgot hb
    refine ⟨fun r m hhit hlen hcrc => ⟨fun v hv => ?folded, fun v hv => ?unfolded⟩, fun r m hhit hno => ?mismatch, fun y hhit hret => ?result⟩
    case folded => rw [exec_digest, State.digestIn_of_piece bad hgot hb hhit, State.digestPiece_of_folded hlen hcrc hv]
    case unfolded => rw [exec_digest, State.digestIn_of_piece bad hgot hb hhit, State.digestPiece_of_unfolded hlen hcrc hv]
    case mismatch => rw [exec_digest, State.digestIn_of_piece bad hgot hb hhit, State.digestPiece_of_mismatch hno]
    case result => rw [exec_digest, State.digestIn_of_result bad hgot hb hhit hret]

end Sys2Proof.Machine
end

section
/-! PROOFS. R343, R344, R352, R354, R357, R359, R360: answers, tokens, and the entry into HOLD. -/

namespace Sys2Proof.Machine

section Answers
variable {s : State} {p d : Nat} {fr : Frame} {x : Port}

theorem exec_ack (p : Fin 8) (s : State) : exec (.ack p) s = .next (s.ackIn p) := rfl

/-- R354, R357: the answer to a piece of this member. -/
theorem State.ackIn_of_request {h : Nat} {nak : Bool} {r : FReq} (hgot : s.gotFrame p isAck d fr x) (hb : fr.body = .ack h nak)
    (hr : (s.fab d).reqs.find? (fun r => r.handle == some h && r.tgt == fr.src) = some r) :
    s.ackIn p =
      let u := s.setPort p x
      if nak then u.sendData r.tgt (u.fabTag d) h false r.chunks r.psn
      else u.setFab d { s.fab d with reqs := (s.fab d).reqs.erase r } := by
  rw [State.ackIn, State.onLive_of_got _ hgot]
  simp only [hb, State.setPort_fab, hr]

/-- R343, R344, R359: a request that still waits for its GRANT fails. -/
theorem State.requestFails_of_waiting {id : Nat} (h : (s.fab d).reqs.any (fun r => r.reqid == id && r.handle.isNone) = true) :
    s.requestFails d id = s.enterHold d 2 := if_pos h

theorem exec_err_of_got {p : Fin 8} {id code : Nat} (hgot : s.gotFrame p isErr d fr x) (hb : fr.body = .err id code) :
    exec (.err p) s = .next ((s.setPort p x).requestFails d id) := by
  show execErr p s = _
  rw [execErr, State.onLive_of_got _ hgot, hb]

theorem exec_token_of_got {p : Fin 8} {e : Nat} (hgot : s.gotFrame p isToken d fr x) (hb : fr.body = .token e) :
    exec (.token p) s = .next ((s.setPort p x).setFab d { s.fab d with tokHeld := some e, tokWait := (s.fab d).outstanding }) := by
  show execToken p s = _
  rw [execToken, State.onLive_of_got _ hgot, hb]
  rfl

theorem exec_hold_of_got {p : Fin 8} (hgot : s.gotFrame p isHold d fr x) :
    exec (.hold p) s = .next ((s.setPort p x).enterHold d 3) := by
  show execHold p s = _
  rw [execHold, State.onLive_of_got _ hgot]

theorem exec_requestTimeout_of_live {d : Fin 4} (id : Nat) (h : s.fabState d = 1) :
    exec (.requestTimeout d id) s = .next (s.requestFails d id) := congrArg _ (if_pos h)

end Answers

/-- Settles O29: each clause is one case of its frame's command. -/
theorem answersTaken : Obligations.AnswersTaken := by
  unfold Obligations.AnswersTaken
  refine fun p s d fr x => ⟨fun h nak r hgot hb hr => ?ack, fun id code hgot hb hwaits => ?err, fun e hgot hb => ?token,
    fun c hgot hb => ?hold, fun e id hlive hwaits => ?timeout⟩
  case ack => rw [exec_ack, State.ackIn_of_request hgot hb hr]
  case err => rw [exec_err_of_got hgot hb, State.requestFails_of_waiting (s := s.setPort p x) hwaits]
  case token => exact exec_token_of_got hgot hb
  case hold => exact exec_hold_of_got hgot
  case timeout => rw [exec_requestTimeout_of_live id hlive, State.requestFails_of_waiting hwaits]

/-! ### Tokens (R352) -/

section Token
variable {s : State} {d e : Nat}

/-- Casement d's member as the token's wait is over: the token is no longer held, its epoch is the member's, and an arm that awaits it is
ripe (R457). -/
def State.tokenDone (s : State) (d e : Nat) : State :=
  ((s.setFab d { s.fab d with tokHeld := none, tokWait := [], tokOut := none }).setReg (rFab d 0x10) (BitVec.ofNat 32 e)).ripen d

theorem State.tokenForward_of_waiting (hheld : (s.fab d).tokHeld = some e)
    (hwait : (s.fab d).tokWait.any (s.fab d).outstanding.contains = true) : s.tokenForward d = (s, none) := by
  simp only [State.tokenForward, hheld, hwait, or_true, if_true]

theorem State.tokenForward_of_passing (hheld : (s.fab d).tokHeld = some e) (hlive : s.fabState d = 1)
    (hdone : (s.fab d).tokWait.any (s.fab d).outstanding.contains = false) (hout : (s.fab d).tokOut = none) :
    s.tokenForward d = (((s.tokenDone d e).sendTo ((s.tokenDone d e).successor d) ((s.tokenDone d e).fabTag d) 0 (.token e)).1, none) := by
  simp only [State.tokenForward, hheld, hlive, hdone, hout, State.tokenDone, ne_eq, not_true_eq_false, Bool.false_eq_true, or_self, if_false]

theorem State.tokenForward_of_home {o : Nat × Nat} (hheld : (s.fab d).tokHeld = some e) (hlive : s.fabState d = 1)
    (hdone : (s.fab d).tokWait.any (s.fab d).outstanding.contains = false) (hout : (s.fab d).tokOut = some o) :
    s.tokenForward d = (s.tokenDone d e, some o) := by
  simp only [State.tokenForward, hheld, hlive, hdone, hout, State.tokenDone, ne_eq, not_true_eq_false, Bool.false_eq_true, or_self, if_false]

theorem exec_tokenForward_of_none {d : Fin 4} {u : State} (h : s.tokenForward d = (u, none)) : exec (.tokenForward d) s = .next u := by
  show execTokenForward d s = _
  rw [execTokenForward, h]

theorem exec_tokenForward_of_some {d : Fin 4} {u : State} {t id : Nat} (h : s.tokenForward d = (u, some (t, id))) :
    exec (.tokenForward d) s = .next ((u.setInc d t id .plain).pump d t) := by
  show execTokenForward d s = _
  rw [execTokenForward, h]

end Token

/-- Settles O30: the token waits, goes on, or is home; HOLD's entry is kept by the frames, the event and the program's end after it. -/
theorem tokenAndHold : Obligations.TokenAndHold := by
  unfold Obligations.TokenAndHold
  refine ⟨fun d s e => ?token, fun s d cause hd hc => ⟨fun h => State.enterHold_of_not_live cause 0 h, fun h =>
    ⟨State.fabState_enterHold cause 0 hd h, State.cause_enterHold cause 0 hd hc h, State.fab_enterHold cause 0 h,
      State.phase_enterHold cause 0 h⟩⟩⟩
  intro f u hheld hlive
  refine ⟨fun hwait => ?waits, fun hdone hout => ?passes, fun t id hdone hout => ?home⟩
  case waits => exact exec_tokenForward_of_none (State.tokenForward_of_waiting hheld hwait)
  case passes => exact exec_tokenForward_of_none (State.tokenForward_of_passing hheld hlive hdone hout)
  case home => exact exec_tokenForward_of_some (State.tokenForward_of_home hheld hlive hdone hout)

end Sys2Proof.Machine
end

section
/-! SUPPORT. The link layer by its cases (R329 to R331, R333, R334, R343, R346): what a frame's header does, a frame received, passed on or
dropped, a replay, a link that goes down, a frame of a port with nothing else to send. -/

namespace Sys2Proof.Machine

/-! ### Headers (R329) -/

section Header
variable {x : Port} {fr : Frame}

/-- The unacknowledged frames up to the one that LACK names are done, and with them the replays. -/
theorem Port.header_of_acked {pre post : List Frame} {a : Frame} (hu : x.unacked = pre ++ a :: post) (ha : a.lseq = fr.lack)
    (hpre : ∀ y ∈ pre, y.lseq ≠ fr.lack) : (x.header fr).unacked = post ∧ (x.header fr).replays = 0 := by
  have hnone : pre.findIdx? (fun u => u.lseq == fr.lack) = none :=
    List.findIdx?_eq_none_iff.mpr fun y hy => beq_eq_false_iff_ne.mpr (hpre y hy)
  have hidx : x.unacked.findIdx? (fun u => u.lseq == fr.lack) = some pre.length := by
    simp [hu, List.findIdx?_append, hnone, List.findIdx?_cons, ha]
  have hleft : x.unacked.drop (pre.length + 1) = post := by simp [hu]
  have hlen : post.length < x.unacked.length := by rw [hu, List.length_append, List.length_cons]; omega
  simp only [Port.header, hidx, hleft, if_pos hlen, and_self]

/-- A LACK that names none of them acknowledges nothing. -/
theorem Port.header_of_stray (h : ∀ y ∈ x.unacked, y.lseq ≠ fr.lack) :
    (x.header fr).unacked = x.unacked ∧ (x.header fr).replays = x.replays := by
  have hidx : x.unacked.findIdx? (fun u => u.lseq == fr.lack) = none :=
    List.findIdx?_eq_none_iff.mpr fun y hy => beq_eq_false_iff_ne.mpr (h y hy)
  simp only [Port.header, hidx, Nat.lt_irrefl, if_false, and_self]

end Header

/-! ### A frame passed on or dropped (R331, R343, R346) -/

section PassOn
variable {s : State} {p : Nat} {fr : Frame}

/-- IDLE ends here. -/
theorem State.passOn_of_idle {y : Port} (hm : malformed fr = false) (ha : s.admits p fr = true) (hb : fr.body = .idle) :
    (s.setPort p y).passOn p fr = s.setPort p (y.giveBack fr) := by
  have ha' : (s.setPort p y).admits p fr = true := ha
  simp [State.passOn, hm, ha', hb]

theorem isLocal_of_ne_idle {b : FBody} (h : b ≠ .idle) : isLocal b = isHello b := by
  cases b with
  | idle => exact absurd rfl h
  | _ => rfl

/-- HELLO, and what is for this package, waits in the inbox; the rest waits to be routed. -/
theorem State.passOn_of_ne_idle {y : Port} (hm : malformed fr = false) (ha : s.admits p fr = true) (hb : fr.body ≠ .idle) :
    (s.setPort p y).passOn p fr =
      if isHello fr.body || fr.dest == s.pkgId then s.setPort p { y with inbox := y.inbox ++ [fr] }
      else s.setPort p { y with rxq := y.rxq ++ [fr] } := by
  have ha' : (s.setPort p y).admits p fr = true := ha
  have hid : (s.setPort p y).pkgId = s.pkgId := rfl
  simp only [State.passOn, hm, ha', hid, isLocal_of_ne_idle hb, State.port_setPort_self, State.setPort_setPort, Bool.not_true,
    Bool.or_self, Bool.false_eq_true, if_false]

theorem State.passOn_of_barred (h : malformed fr = true ∨ s.admits p fr = false) :
    s.passOn p fr = (s.dropped p fr).setPort p (((s.dropped p fr).port p).giveBack fr) := by
  rcases h with h | h <;> simp [State.passOn, h]

theorem State.dropped_of_not_preq (h : isPreq fr.body = false) : s.dropped p fr = s.dropAt p fr := by
  unfold State.dropped
  split
  · rename_i hb; rw [hb] at h; cases h
  · rfl

/-- R343: a drop notes at its port that this millisecond has had one, and changes no other part of the port. -/
theorem State.port_dropAt (s : State) (p : Nat) (fr : Frame) : (s.dropAt p fr).port p = { s.port p with drops := true } := by
  unfold State.dropAt
  extract_lets s1
  have hs1 : s1.port p = s.port p := rfl
  split
  · rename_i h
    rw [hs1] at h ⊢
    rw [← h]
  · rw [State.post_port, State.port_setPort_self]
    rfl

/-- R343: a drop is counted. -/
theorem State.rf_dropAt {p : Nat} (hp : p < 8) (s : State) (fr : Frame) :
    (s.dropAt p fr).rf (rPort p 0xC) 15 0 = min (2 ^ 16 - 1) (s.rf (rPort p 0xC) 15 0 + 1) := by
  have hcount : (s.count (rPort p 0xC) 15 0 1).rf (rPort p 0xC) 15 0 = min (2 ^ 16 - 1) (s.rf (rPort p 0xC) 15 0 + 1) := by
    rw [State.count, State.rf_setRf_self _ _ _ (by decide) (by decide), satAdd]
    omega
  unfold State.dropAt
  extract_lets s1
  split
  · exact hcount
  · rw [(State.fabricKept_post _ _).rf (fabReg_rPort hp (by decide))]
    exact hcount

end PassOn

/-! ### A frame received (R329, R331, R334) -/

/-- The port that has read the header of the next frame in order and holds its chunks: c is what is left of the pool. -/
def Port.taken (x : Port) (fr : Frame) (c : Credits) : Port :=
  { x.header fr with rxNext := (x.rxNext + 1) % 4096, room := c }

section Receive
variable {s : State} {p : Nat} {fr : Frame} (hopen : s.portUp p = true ∨ s.portState p = 1)
include hopen

theorem State.receives_of_open : (!(s.portUp p || s.portState p == 1)) = false := by
  rcases hopen with h | h <;> simp [h]

theorem State.frameReceive_of_crcBad : s.frameReceive p fr false =
    (s.setPort p { s.port p with nak := true }).post { kind := 2, det := 0x09, unit := p } := by
  simp [State.frameReceive, State.receives_of_open hopen]

theorem State.frameReceive_of_disorder (h : fr.lseq ≠ (s.port p).rxNext) : s.frameReceive p fr true = s := by
  simp [State.frameReceive, State.receives_of_open hopen, h]

theorem State.frameReceive_of_full (hseq : fr.lseq = (s.port p).rxNext) (hroom : (s.port p).room.spend fr = none) :
    s.frameReceive p fr true = s.setPort p { s.port p with nak := true } := by
  simp [State.frameReceive, State.receives_of_open hopen, hseq, hroom]

/-- A frame in order is taken and passed on; with nothing that waits to be sent, that is all. -/
theorem State.frameReceive_of_order {c : Credits} {u : State} (hseq : fr.lseq = (s.port p).rxNext)
    (hroom : (s.port p).room.spend fr = some c) (hpass : (s.setPort p ((s.port p).taken fr c)).passOn p fr = u)
    (hq : (u.port p).txq = []) : s.frameReceive p fr true = u := by
  unfold Port.taken at hpass
  simp only [State.frameReceive, State.receives_of_open hopen, hseq, hroom, hpass, hq, Bool.not_true, ne_eq, not_true_eq_false,
    Bool.false_eq_true, if_false, List.length_nil, State.pumpTx]

end Receive

theorem exec_frameReceive {p : Fin 8} {bytes : List Nat} {fr : Frame} {ok : Bool} (s : State) (h : readFrame bytes = (fr, ok)) :
    exec (.frameReceive p bytes) s = .next (s.frameReceive p fr ok) := by
  show execFrameReceive p bytes s = _
  rw [execFrameReceive, h]

/-! ### A link goes down (R329, R330) -/

section Down
variable {s : State} {p : Nat}

/-- A port that leaves service, before the casements that it served enter HOLD. -/
theorem State.portKept_linkGone (s : State) (hp : p < 8) (st : Nat) (all : Bool) (n : Nat) :
    State.PortKept p ((s.setRf (rPort p 0) 2 0 st).setPort p ((s.port p).fresh s.pool)) (s.linkGone p st all n) := by
  unfold State.linkGone
  extract_lets nbr x hit s1
  exact State.portKept_foldl_enterHold hit s1 hp 1 n

theorem State.portState_linkDown (s : State) (hp : p < 8) : (s.linkDown p).portState p = 0 := by
  rw [State.portState, State.linkDown, (State.portKept_linkGone _ hp 0 false 0).rf (by decide), State.setPort_rf]
  exact State.rf_setRf_self _ _ _ (by decide) (by decide)

/-- R330: DOWNS counts. -/
theorem State.downs_linkDown (s : State) (hp : p < 8) :
    (s.linkDown p).rf (rPort p 8) 31 16 = min (2 ^ 16 - 1) (s.rf (rPort p 8) 31 16 + 1) := by
  rw [State.linkDown, (State.portKept_linkGone _ hp 0 false 0).rf (by decide), State.setPort_rf,
    State.rf_setRf_ne _ _ _ _ _ _ (by unfold rPort; omega), (State.fabricKept_post _ _).rf (fabReg_rPort hp (by decide)),
    State.count, State.rf_setRf_self _ _ _ (by decide) (by decide), satAdd]
  omega

/-- R330: the port has nothing left of the link; only what it had received stays. -/
theorem State.port_linkDown (s : State) (hp : p < 8) : ∃ pool, (s.linkDown p).port p = (s.port p).fresh pool := by
  rw [State.linkDown, (State.portKept_linkGone _ hp 0 false 0).port, State.port_setPort_self, State.post_port]
  · exact ⟨_, rfl⟩
  · rw [State.portUp, State.portState, State.setPort_rf, State.rf_setRf_self _ _ _ (by decide) (by decide)]
    rfl

theorem exec_linkTimeout_of_up {p : Fin 8} (h : s.portUp p = true) : exec (.linkTimeout p) s = .next (s.linkDown p) :=
  congrArg _ (if_pos h)

/-! ### Replays (R329) -/

theorem exec_frameReplay (p : Fin 8) (s : State) : exec (.frameReplay p) s = .next (s.frameReplay p) := rfl

theorem State.frameReplay_of_eighth (hup : s.portUp p = true) (hidle : s.txIdle = false) (hr : (s.port p).replay = true)
    (h : 8 ≤ (s.port p).replays) : s.frameReplay p = s.linkDown p := by
  simp [State.frameReplay, hup, hidle, hr, h]

/-- The port as it sends its unacknowledged frames again. -/
def Port.replayed (x : Port) : Port := { x with replay := false, replays := x.replays + 1, nak := false, unacked := x.again }

theorem State.frameReplay_of_fewer (hup : s.portUp p = true) (hidle : s.txIdle = false) (hr : (s.port p).replay = true)
    (h : (s.port p).replays < 8) : s.frameReplay p =
      (s.port p).again.foldl (fun u f => u.emit (.frame p (wireBytes f)))
        ((s.setPort p (s.port p).replayed).count (rPort p 8) 15 0 1) := by
  simp [State.frameReplay, Port.replayed, hup, hidle, hr, Nat.not_le.mpr h]

/-! Frames that are sent add to the output, and change nothing else. -/

theorem State.foldl_emit_out {α : Type} (f : α → Out) (l : List α) (s : State) :
    (l.foldl (fun u a => u.emit (f a)) s).out = s.out ++ l.map f := by
  induction l generalizing s with
  | nil => simp
  | cons a l ih => rw [List.foldl_cons, ih]; simp [State.emit]

theorem State.foldl_emit_port {α : Type} (f : α → Out) (l : List α) (s : State) (q : Nat) :
    (l.foldl (fun u a => u.emit (f a)) s).port q = s.port q := by
  induction l generalizing s with
  | nil => rfl
  | cons a l ih => rw [List.foldl_cons, ih, State.emit_port]

theorem State.foldl_emit_rf {α : Type} (f : α → Out) (l : List α) (s : State) (k hi lo : Nat) :
    (l.foldl (fun u a => u.emit (f a)) s).rf k hi lo = s.rf k hi lo := by
  induction l generalizing s with
  | nil => rfl
  | cons a l ih => rw [List.foldl_cons, ih, State.emit_rf]

end Down

/-! ### A port with nothing to send (R330) -/

section Idle
variable {s : State} {p : Nat}

/-- R329: a frame with its link fields. -/
def Port.dress (x : Port) (fr : Frame) : Frame :=
  { fr with lseq := x.txNext, lack := (x.rxNext + 4095) % 4096, nak := x.nak, cret := x.ret.map (min 255) }

/-- R329: the port that has sent a frame with its link fields. -/
def Port.sent (x : Port) (fr : Frame) : Port :=
  { x with txNext := (x.txNext + 1) % 4096, unacked := x.unacked ++ [x.dress fr], nak := false
           ret := x.ret.map (fun n => n - min 255 n) }

/-- R371: only an injection for the port's frames changes what an IDLE frame's sending does. -/
theorem State.sendNow_of_idle {x : Port} {fr : Frame} (hb : fr.body = .idle) (hinj : s.injArmed 0x09 p = false) :
    s.sendNow p x fr = (s.setPort p (x.sent fr)).emit (.frame p (wireBytes (x.dress fr))) := by
  simp [State.sendNow, Port.sent, Port.dress, hb, isPiece, hinj]

/-- A frame that has credits and room on the link that is up leaves, and those behind it follow. -/
theorem State.pumpTx_of_pick {y : Port} {fr : Frame} {c : Credits} {rest : List Frame} (n : Nat) (hup : s.portUp p = true)
    (hidle : s.txIdle = false) (hlen : y.unacked.length < 2048) (hpick : y.cr.pick [] y.txq = some (fr, c, rest)) :
    (s.setPort p y).pumpTx p (n + 1) = ((s.setPort p y).sendNow p { y with cr := c, txq := rest } fr).pumpTx p n := by
  have hup' : (s.setPort p y).portUp p = true := hup
  have hidle' : (s.setPort p y).txIdle = false := hidle
  rw [State.pumpTx]
  simp only [State.port_setPort_self, hup', hidle', hpick, Nat.not_le.mpr hlen, Bool.not_true, decide_false, Bool.or_self,
    Bool.false_eq_true, if_false]

theorem Credits.pick_singleton {x c : Credits} {fr : Frame} (h : x.spend fr = some c) : x.pick [] [fr] = some (fr, c, []) := by
  simp only [Credits.pick, List.contains_nil, Bool.false_eq_true, if_false, h]

/-- An IDLE frame handed to a transmitter with nothing before it, credits for it and room on its link leaves at once. -/
theorem State.tx_of_idle {fr : Frame} {c : Credits} (hup : s.portUp p = true) (hidle : s.txIdle = false) (hq : (s.port p).txq = [])
    (hlen : (s.port p).unacked.length < 2048) (hb : fr.body = .idle) (hinj : s.injArmed 0x09 p = false)
    (hc : (s.port p).cr.spend fr = some c) :
    s.tx p fr = (s.setPort p (Port.sent { s.port p with cr := c } fr)).emit
      (.frame p (wireBytes (Port.dress { s.port p with cr := c } fr))) := by
  have hinj' : (s.setPort p { s.port p with txq := [fr] }).injArmed 0x09 p = false := hinj
  have hx : { s.port p with cr := c, txq := [] } = { s.port p with cr := c } :=
    congrArg (fun q => { s.port p with cr := c, txq := q }) hq.symm
  rw [State.tx, hq, List.nil_append, List.length_nil,
    State.pumpTx_of_pick (y := { s.port p with txq := [fr] }) 0 hup hidle hlen (Credits.pick_singleton hc), State.pumpTx,
    State.sendNow_of_idle hb hinj', State.setPort_setPort]
  exact congrArg (fun x => (s.setPort p (Port.sent x fr)).emit (.frame p (wireBytes (Port.dress x fr)))) hx

theorem exec_idleFrameSend_of_empty {p : Fin 8} (hup : s.portUp p = true) (hidle : s.txIdle = false) (hq : (s.port p).txq = []) :
    exec (.idleFrameSend p) s = .next (s.tx p (s.ownFrame 0 0 0 .idle)) := by
  show execIdleFrameSend p s = _
  simp [execIdleFrameSend, hup, hidle, hq]

end Idle

end Sys2Proof.Machine
end

section
/-! PROOFS. R329 to R331, R333, R334, R343, R346: frames received, replays, links that go down, idle frames. -/

namespace Sys2Proof.Machine

/-- Settles O24: each clause is one case of the link layer; nothing waits to be sent, so that a frame that is taken is only passed on. -/
theorem linkLayer : Obligations.LinkLayer := by
  unfold Obligations.LinkLayer
  refine ⟨fun p bytes fr s hopen => ?receive, fun x fr => ⟨fun pre a post hu ha hpre => Port.header_of_acked hu ha hpre,
    fun h => Port.header_of_stray h⟩, fun p s hup hidle => ?send⟩
  case receive =>
    intro x
    refine ⟨fun hread => ?crcBad, fun hread => ⟨fun hseq => ?disorder, fun hseq hroom => ?full, fun c hseq hroom hq => ?taken⟩⟩
    case crcBad => rw [exec_frameReceive s hread, State.frameReceive_of_crcBad hopen]
    case disorder => rw [exec_frameReceive s hread, State.frameReceive_of_disorder hopen hseq]
    case full => rw [exec_frameReceive s hread, State.frameReceive_of_full hopen hseq hroom]
    case taken =>
      intro y
      rw [exec_frameReceive s hread]
      have hyq : y.txq = [] := hq
      refine ⟨fun hm ha => ⟨fun hb => ?idle, fun hb hmine => ?mine, fun hb hhello hdest => ?transit⟩, fun hbarred hpreq => ?barred⟩
      case idle =>
        exact congrArg _ (State.frameReceive_of_order hopen hseq hroom (State.passOn_of_idle hm ha hb)
          (by rw [State.port_setPort_self]; exact hyq))
      case mine =>
        exact congrArg _ (State.frameReceive_of_order hopen hseq hroom
          ((State.passOn_of_ne_idle hm ha hb).trans (if_pos (by simpa using hmine))) (by rw [State.port_setPort_self]; exact hyq))
      case transit =>
        exact congrArg _ (State.frameReceive_of_order hopen hseq hroom
          ((State.passOn_of_ne_idle hm ha hb).trans (if_neg (by simp [hhello, hdest]))) (by rw [State.port_setPort_self]; exact hyq))
      case barred =>
        have hdropped : ((s.setPort p y).dropped p fr).port p = { y with drops := true } := by
          rw [State.dropped_of_not_preq hpreq, State.port_dropAt, State.port_setPort_self]
        refine ⟨_, congrArg _ (State.frameReceive_of_order hopen hseq hroom
          (State.passOn_of_barred (s := s.setPort p y) hbarred) ?_), ?_⟩
        · rw [State.port_setPort_self, hdropped]
          exact hyq
        · rw [State.port_setPort_self, hdropped]
          refine ⟨rfl, rfl, rfl, ?_⟩
          rw [State.setPort_rf, State.dropped_of_not_preq hpreq, State.rf_dropAt p.isLt, State.setPort_rf]
  case send =>
    intro x
    refine ⟨fun hr hfew => ?again, fun hr height => ?eighth, ?timeout, fun hq hlen hinj c hc => ?idle⟩
    case again =>
      rw [exec_frameReplay, State.frameReplay_of_fewer hup hidle hr hfew]
      refine ⟨_, rfl, ?port, ?out, ?count⟩
      case port =>
        rw [State.foldl_emit_port, State.count, State.setRf_port, State.port_setPort_self]
        rfl
      case out =>
        rw [State.foldl_emit_out, State.foldl_emit_port, State.count, State.setRf_port, State.port_setPort_self]
        rfl
      case count =>
        rw [State.foldl_emit_rf, State.count, State.rf_setRf_self _ _ _ (by decide) (by decide), satAdd, State.setPort_rf]
        omega
    case eighth =>
      rw [exec_frameReplay, State.frameReplay_of_eighth hup hidle hr height]
      exact ⟨_, rfl, s.portState_linkDown p.isLt, s.downs_linkDown p.isLt⟩
    case timeout =>
      obtain ⟨pool, hport⟩ := s.port_linkDown p.isLt
      refine ⟨_, exec_linkTimeout_of_up hup, s.portState_linkDown p.isLt, s.downs_linkDown p.isLt, ?_⟩
      rw [hport]
      exact ⟨rfl, rfl, rfl, rfl⟩
    case idle =>
      intro fr
      rw [exec_idleFrameSend_of_empty hup hidle hq, State.tx_of_idle hup hidle hq hlen rfl hinj hc]
      rfl

end Sys2Proof.Machine
end

section
/-! PROOFS. R347, R364, R377: the fabric's commands, and the entries of its tables. -/

namespace Sys2Proof.Machine

/-! ### A command written (R364) -/

/-- R364: a write of FAB_CMDd follows the commands' rule. -/
theorem State.wrAt_fabCmd (s : State) (rq : Req) {d : Nat} (hd : d < 4) (v n : Nat) (u : During) :
    s.wrAt rq (rFab d 0x14) v n u = s.fabCmd d (fld v 2 0) n := by
  have hoff : rFab d 0x14 = 0x0202014 + 0x40 * d := by unfold rFab; omega
  have hcas : (0x0202014 + 0x40 * d - 0x0202000) / 0x40 = d := by omega
  have hcmd : (within (0x0202014 + 0x40 * d) 0x0202000 0x100 && (0x0202014 + 0x40 * d) % 0x40 == 0x14) = true := by
    rw [within_eq_true.mpr (by omega), show (0x0202014 + 0x40 * d) % 0x40 = 0x14 by omega]
    rfl
  rw [hoff]
  simp (disch := omega) only [State.wrAt, isRstBit, isStaged, within_eq_false, hcmd, hcas, if_neg, Bool.false_and, Bool.or_self,
    Bool.false_eq_true, if_false, if_true]

/-- A write of FAB_CMDd that takes its turn is its command. -/
theorem State.wr32_fabCmd {s : State} {rq : Req} {d op : Nat} {u : During} (hd : d < 4) (hop : op < 8)
    (hw : s.writes rq (rFab d 0x14) = true) :
    s.wr32 rq (rFab d 0x14) op u = (s.placed rq (rFab d 0x14)).fabCmd d op (s.arbN (arbReg (rFab d 0x14))) := by
  have hfld : fld (op % 2 ^ 32) 2 0 = op := by
    rw [fld, Nat.shiftRight_zero]; omega
  rw [State.wr32_of_writes op u hw, State.wrAt_fabCmd _ _ hd, hfld]

/-! ### The commands (R350, R359, R361, R364, R377) -/

section Commands
variable {s : State} {d n : Nat}

/-- A command in another state than its own: an event. -/
def State.fabNo (s : State) (d n : Nat) : State :=
  s.post { kind := 3, unit := d, ctag := s.tagOf d, arbseq := n, info := rFab d 0x14 }

theorem State.fabCmd_commit (h : (s.casement d).exist = true) : s.fabCmd d 1 n =
    if s.fabState d = 0 ∨ s.fabState d = 3 then (s.fabCommit d n).compare (rFab d 0x18) else s.fabNo d n := by
  simp only [State.fabCmd, h, Bool.not_true, Bool.false_eq_true, if_false, State.fabNo]

theorem State.fabCmd_hold (h : (s.casement d).exist = true) : s.fabCmd d 2 n =
    if s.fabState d = 1 then (s.enterHold d 4 n).compare (rFab d 0x18) else s.fabNo d n := by
  simp only [State.fabCmd, h, Bool.not_true, Bool.false_eq_true, if_false, State.fabNo]

theorem State.fabCmd_resume (h : (s.casement d).exist = true) : s.fabCmd d 3 n =
    if s.fabState d = 2 then (s.fabResume d n).compare (rFab d 0x18) else s.fabNo d n := by
  simp only [State.fabCmd, h, Bool.not_true, Bool.false_eq_true, if_false, State.fabNo]

theorem State.fabCmd_end (h : (s.casement d).exist = true) : s.fabCmd d 4 n =
    (((s.fabEnd d).post { kind := 4, unit := d, ctag := s.tagOf d, arbseq := n }).ripen d n).compare (rFab d 0x18) := by
  simp only [State.fabCmd, h, Bool.not_true, Bool.false_eq_true, if_false]

/-- R364: END leaves the casement in NONE, at epoch 0, and its ports empty of it. -/
theorem State.fabEnd_spec (s : State) (d : Nat) :
    (s.fabEnd d).fabState d = 0 ∧ (s.fabEnd d).reg (rFab d 0x10) = 0 ∧ (s.fabEnd d).fab d = Fab.reset := by
  have hne : rFab d 0x18 ≠ rFab d 0x10 := by unfold rFab; omega
  refine ⟨?_, State.reg_setReg_self _ _ _, ?_⟩
  · show ((s.setRf (rFab d 0x18) 1 0 0).setReg (rFab d 0x10) 0).rf (rFab d 0x18) 1 0 = 0
    rw [State.rf_setReg_ne _ _ _ _ hne]
    exact State.rf_setRf_self _ _ _ (by decide) (by decide)
  · show Assoc.get (Assoc.put _ d Fab.reset Fab.reset) d Fab.reset = Fab.reset
    exact Assoc.get_put_self _ _ _ _

end Commands

@[simp] theorem State.placed_fabState (s : State) (rq : Req) (off d : Nat) : (s.placed rq off).fabState d = s.fabState d :=
  s.placed_rf rq off _ _ _

@[simp] theorem State.placed_tagOf (s : State) (rq : Req) (off d : Nat) : (s.placed rq off).tagOf d = s.tagOf d := by
  rw [State.tagOf, State.placed_casement, State.tagOf]

theorem exec_fabCommit (rq : Req) (d : Fin 4) (s : State) : exec (.fabCommit rq d) s = .next (s.wr32 rq (rFab d 0x14) 1 .none) := rfl
theorem exec_fabHold (rq : Req) (d : Fin 4) (s : State) : exec (.fabHold rq d) s = .next (s.wr32 rq (rFab d 0x14) 2 .none) := rfl
theorem exec_fabResume (rq : Req) (d : Fin 4) (s : State) : exec (.fabResume rq d) s = .next (s.wr32 rq (rFab d 0x14) 3 .none) := rfl
theorem exec_fabEnd (rq : Req) (d : Fin 4) (s : State) : exec (.fabEnd rq d) s = .next (s.wr32 rq (rFab d 0x14) 4 .none) := rfl

/-! ### Where the entries lie (R364) -/

/-- The row of an offset is the first that holds it. -/
theorem rowAt_of_split {before after : List RRow} {r : RRow} {o : Nat} (htab : regTable = before ++ r :: after)
    (hnone : ∀ x ∈ before, x.holds o = false) (hr : r.holds o = true) : rowAt o = some r := by
  have hbefore : before.find? (fun x => x.holds o) = none :=
    List.find?_eq_none.mpr fun x hx => Bool.eq_false_iff.mp (hnone x hx)
  rw [rowAt, htab, List.find?_append, hbefore, Option.none_or]
  exact List.find?_cons_of_pos hr

/-- The rows of the blocks before FAB (R397). -/
def rowsBeforeFAB : List RRow :=
  regsIDN ++ regsRST ++ regsLCB ++ regsFWU ++ regsITK ++ regsEVT ++ regsINT ++ regsNUM ++ regsMEM ++ regsTRN ++ regsPGA

/-- Those rows and the ones of FAB before the member list. -/
def rowsBeforeMembers : List RRow := rowsBeforeFAB ++ regsFAB.take 16

/-- FAB_MEMBERn (R364). -/
def rowMember : RRow := ⟨0x0210000, 4, 4096, 0, 1, [⟨15, 0, .hrw, 0⟩, ⟨16, 16, .hrw, 0⟩]⟩

/-- FAB_GROUPn_LO (R364). -/
def rowGroupLo : RRow := ⟨0x0218000, 8, 4096, 0, 1, [⟨11, 0, .hrw, 0⟩, ⟨23, 12, .hrw, 0⟩, ⟨31, 24, .hrw, 0⟩]⟩

/-- FAB_GROUPn_HI (R364). -/
def rowGroupHi : RRow := ⟨0x0218004, 8, 4096, 0, 1, [⟨3, 0, .hrw, 0⟩, ⟨4, 4, .hrw, 0⟩]⟩

theorem regTable_entries : regTable =
    rowsBeforeMembers ++ rowMember :: rowGroupLo :: rowGroupHi :: (regsFAB.drop 19 ++ regsTIL ++ regsMGT ++ regsMSIX) := by
  have htab : regTable = rowsBeforeFAB ++ regsFAB ++ regsTIL ++ regsMGT ++ regsMSIX := rfl
  have hfab : regsFAB = regsFAB.take 16 ++ rowMember :: rowGroupLo :: rowGroupHi :: regsFAB.drop 19 := rfl
  rw [htab]
  refine (congrArg (fun l => rowsBeforeFAB ++ l ++ regsTIL ++ regsMGT ++ regsMSIX) hfab).trans ?_
  simp only [rowsBeforeMembers, List.append_assoc, List.cons_append]

theorem rowsBeforeMembers_end : ∀ r ∈ rowsBeforeMembers, 0 < r.st1 ∧ r.base + r.st1 * r.n1 ≤ 0x0210000 := by decide +kernel

theorem RRow.holds_eq_false_of_end {r : RRow} {o : Nat} (hst : 0 < r.st1) (h : r.base + r.st1 * r.n1 ≤ o) : r.holds o = false :=
  Bool.eq_false_iff.mpr fun hh => absurd (RRow.lt_of_holds hst hh) (Nat.not_lt.mpr h)

theorem not_holds_before_members {o : Nat} (h : 0x0210000 ≤ o) : ∀ r ∈ rowsBeforeMembers, r.holds o = false := fun r hr => by
  obtain ⟨hst, hend⟩ := rowsBeforeMembers_end r hr
  exact RRow.holds_eq_false_of_end hst (Nat.le_trans hend h)

section Entries
variable {n : Nat} (hn : n < 4096)
include hn

theorem rowAt_member : rowAt (0x0210000 + 4 * n) = some rowMember := by
  have hholds : rowMember.holds (0x0210000 + 4 * n) = true :=
    Nat.mul_comm n 4 ▸ RRow.holds_elem (r := rowMember) (by decide) hn (by decide)
  exact rowAt_of_split regTable_entries (not_holds_before_members (by omega)) hholds

theorem rowAt_groupLo : rowAt (0x0218000 + 8 * n) = some rowGroupLo := by
  have hholds : rowGroupLo.holds (0x0218000 + 8 * n) = true :=
    Nat.mul_comm n 8 ▸ RRow.holds_elem (r := rowGroupLo) (by decide) hn (by decide)
  have hmember : rowMember.holds (0x0218000 + 8 * n) = false := 
    RRow.holds_eq_false_of_end (by decide) (show 0x0210000 + 4 * 4096 ≤ _ by omega)
  refine rowAt_of_split (before := rowsBeforeMembers ++ [rowMember]) (by rw [List.append_assoc]; exact regTable_entries) (fun x hx => ?_) hholds
  rcases List.mem_append.mp hx with hx | hx
  · exact not_holds_before_members (by omega) x hx
  · exact List.mem_singleton.mp hx ▸ hmember

theorem rowAt_groupHi : rowAt (0x0218004 + 8 * n) = some rowGroupHi := by
  have hholds : rowGroupHi.holds (0x0218004 + 8 * n) = true :=
    Nat.mul_comm n 8 ▸ RRow.holds_elem (r := rowGroupHi) (by decide) hn (by decide)
  have hmember : rowMember.holds (0x0218004 + 8 * n) = false := 
    RRow.holds_eq_false_of_end (by decide) (show 0x0210000 + 4 * 4096 ≤ _ by omega)
  have hlo : rowGroupLo.holds (0x0218004 + 8 * n) = false := by
    have hrest : (0x0218004 + 8 * n - 0x0218000) % 8 = 4 := by omega
    simp [RRow.holds, rowGroupLo, hrest]
  refine rowAt_of_split (before := rowsBeforeMembers ++ [rowMember, rowGroupLo]) (by rw [List.append_assoc]; exact regTable_entries)
    (fun x hx => ?_) hholds
  rcases List.mem_append.mp hx with hx | hx
  · exact not_holds_before_members (by omega) x hx
  · rcases List.mem_cons.mp hx with rfl | hx
    · exact hmember
    · exact List.mem_singleton.mp hx ▸ hlo

end Entries

/-- R347: the members of a casement are the entries of its range that are valid. -/
theorem State.mem_members_iff (s : State) (d m id : Nat) : (m, id) ∈ s.members d ↔
    m < s.rf (rFab d 4) 24 12 ∧ rfld (s.reg (0x0210000 + 4 * (s.rf (rFab d 4) 11 0 + m))) 16 16 = 1 ∧
      id = rfld (s.reg (0x0210000 + 4 * (s.rf (rFab d 4) 11 0 + m))) 15 0 := by
  simp only [State.members, List.mem_filterMap, List.mem_map, List.mem_range]
  constructor
  · rintro ⟨x, ⟨i, hi, rfl⟩, hx⟩
    split at hx
    · rename_i hv
      cases hx
      exact ⟨hi, hv, rfl⟩
    · cases hx
  · rintro ⟨hm, hv, rfl⟩
    exact ⟨_, ⟨m, hm, rfl⟩, if_pos hv⟩

/-- Settles O33: each command is one case of State.fabCmd; the entries' rows are the first that hold them. -/
theorem fabricCommands : Obligations.FabricCommands := by
  unfold Obligations.FabricCommands
  refine ⟨fun rq d s hw hexist => ?commands, fun n hn => ?entries, fun d m id s => ?members⟩
  case commands =>
    intro u n no e w x z
    have hexist' : (u.casement d).exist = true := by rw [State.placed_casement]; exact hexist
    have hstate : u.fabState d = s.fabState d := s.placed_fabState rq _ d
    have hno : u.fabNo d n = no := by rw [State.fabNo, State.placed_tagOf]
    rw [exec_fabCommit, exec_fabHold, exec_fabResume, exec_fabEnd, State.wr32_fabCmd d.isLt (by decide) hw,
      State.wr32_fabCmd d.isLt (by decide) hw, State.wr32_fabCmd d.isLt (by decide) hw, State.wr32_fabCmd d.isLt (by decide) hw,
      State.fabCmd_commit hexist', State.fabCmd_hold hexist', State.fabCmd_resume hexist', State.fabCmd_end hexist', hstate,
      State.placed_tagOf, hno]
    refine ⟨fun h => ?commit, fun h => congrArg _ (if_pos h), fun h => ?resume, rfl, u.fabEnd_spec d, fun h => congrArg _ (if_neg (by omega)),
      fun h => congrArg _ (if_neg h), fun h => congrArg _ (if_neg h)⟩
    case commit => rw [if_pos h]; rfl
    case resume => rw [if_pos h]; rfl
  case members =>
    intro e
    have hv (w : Word) : rfld w 16 16 = w.toNat / 2 ^ 16 % 2 :=
      congrArg (· % 2) (Nat.shiftRight_eq_div_pow w.toNat 16)
    have hid (w : Word) : rfld w 15 0 = w.toNat % 2 ^ 16 := congrArg (· % 2 ^ 16) (Nat.shiftRight_zero)
    rw [State.mem_members_iff, hv, hid]
  case entries => exact ⟨by rw [rowAt_member hn]; rfl, by rw [rowAt_groupLo hn]; rfl, by rw [rowAt_groupHi hn]; rfl⟩

end Sys2Proof.Machine
end

section
/-! PROOFS. R328, R337, R351, R363: writes of the fabric's tables, of the package's ID and of the floors; RETRAIN. -/

namespace Sys2Proof.Machine

/-! ### Refusals (R337, R351, R363) -/

theorem isEntry_iff (off : Nat) : isEntry off = true ↔ (0x0210000 ≤ off ∧ off < 0x0220000) ∨ (0x0400000 ≤ off ∧ off < 0x0480000) :=
  decide_eq_true_iff

theorem State.entryWrite_isNone (s : State) (off : Nat) (v : Word) :
    (s.entryWrite off v).isNone = (s.entryOwners off).any (fun d => ((s.setReg off v).fabCheck d).isSome) := by
  simp only [State.entryWrite]
  cases (s.entryOwners off).any (fun d => ((s.setReg off v).fabCheck d).isSome) <;> rfl

/-- R351: an entry's write is refused when it would fail the check of a LIVE casement. -/
theorem State.refuses_entry (s : State) {off : Nat} (v : BitVec 32) (h : isEntry off = true) :
    s.refuses off v.toNat = (s.entryOwners off).any (fun d => ((s.setReg off v).fabCheck d).isSome) := by
  have hoff := (isEntry_iff off).mp h
  have hv : BitVec.ofNat 32 v.toNat = v := by rw [BitVec.ofNat_toNat, BitVec.setWidth_eq]
  simp (disch := omega) only [State.refuses, within_eq_false, if_neg, h, hv, Bool.false_eq_true, if_false, if_true]
  exact s.entryWrite_isNone off v

/-- R337: the package's ID is refused while a port is not down. -/
theorem State.refuses_pkgId (s : State) (v : Nat) : s.refuses 0x0200000 v = true ↔ ∃ p, p < 8 ∧ s.portState p ≠ 0 := by
  show s.portsBusy = true ↔ _
  simp [State.portsBusy]

/-- R363: floors that do not fit are refused. -/
theorem State.refuses_floor (s : State) (v : BitVec 32) : s.refuses 0x0200008 v.toNat = true ↔
    6144 < 32 * (rfld v 7 0 + rfld v 15 8 + rfld v 23 16 + rfld v 31 24) ∨ rfld v 7 0 < 16 := by
  show floorBad v.toNat = true ↔ _
  exact decide_eq_true_iff

/-! ### The registers' rules -/

theorem plainReg_of_entry {off : Nat} (h : isEntry off = true) : plainReg off = true := by
  have hoff := (isEntry_iff off).mp h
  have hne (k : Nat) (hk : k < 0x0210000) : (off == k) = false := beq_eq_false_iff_ne.mpr (by omega)
  have hlt : decide (0x3FF0000 ≤ off) = false := decide_eq_false (by omega)
  simp (disch := omega) only [plainReg, isRstBit, isStaged, within_eq_false, hne, hlt, Bool.false_and, Bool.or_self, Bool.not_false]

/-- An unlocked write of a plain hardened register takes effect by its type codes, where no rule refuses it. -/
theorem State.wr32_plain_of_accepted {s : State} {rq : Req} {off : Nat} {v : BitVec 32} {u : During} (hp : plainReg off = true)
    (hw : s.writesHard rq off = true) (h : (s.placed rq off).refuses off v.toNat = false) :
    s.wr32 rq off v.toNat u = (((s.placed rq off).wrGen off v.toNat true).heal off).windowUse rq := by
  rw [State.wr32_of_accepted hw h (plainReg_ne_wdt hp), State.wrAt_of_plain _ _ _ _ _ hp]

/-- R328: a write of FAB_PCTLp follows the ports' rule. -/
theorem State.wrAt_portCtl (s : State) (rq : Req) {p : Nat} (hp : p < 8) (v n : Nat) (u : During) :
    s.wrAt rq (rPort p 4) v n u = s.portCtl (rPort p 4) v n := by
  have hoff : rPort p 4 = 0x0201004 + 0x100 * p := by unfold rPort; omega
  have hctl : (within (0x0201004 + 0x100 * p) 0x0201000 0x800 && (0x0201004 + 0x100 * p) % 0x100 == 4) = true := by
    rw [within_eq_true.mpr (by omega), show (0x0201004 + 0x100 * p) % 0x100 = 4 by omega]
    rfl
  rw [hoff]
  simp (disch := omega) only [State.wrAt, isRstBit, isStaged, within_eq_false, hctl, if_neg, Bool.false_and, Bool.or_self,
    Bool.false_eq_true, if_false, if_true]

/-! ### RETRAIN (R328; log 50) -/

/-- A write by type codes changes its register at most. -/
theorem State.wrGen_eq_regs (s : State) (k v : Nat) (hrw : Bool) : ∃ l, s.wrGen k v hrw = { s with regs := l } := by
  unfold State.wrGen
  split
  · exact ⟨_, rfl⟩
  · exact ⟨s.regs, rfl⟩

theorem State.mayTrain_congr {s t : State} {p : Nat} (hid : t.rf 0x0200000 16 16 = s.rf 0x0200000 16 16)
    (hport : t.port p = s.port p) (hidle : t.txIdle = s.txIdle) (hdown : t.blkDown 4 p = s.blkDown 4 p) : t.mayTrain p = s.mayTrain p := by
  rw [State.mayTrain, hid, hport, hidle, hdown, State.mayTrain]

theorem State.txIdle_congr {s t : State} (hstep : t.rf 0x0020808 8 8 = s.rf 0x0020808 8 8) (hlc : t.rf 0x0020804 2 0 = s.rf 0x0020804 2 0) :
    t.txIdle = s.txIdle := by
  rw [State.txIdle, hstep, hlc, State.txIdle]

theorem State.rf_wrGen_ne (s : State) {k j : Nat} (v : Nat) (hrw : Bool) (hi lo : Nat) (h : j ≠ k) :
    (s.wrGen k v hrw).rf j hi lo = s.rf j hi lo := by
  rw [State.rf, State.reg_wrGen_ne _ _ _ h, State.rf]

/-- The control register of a port does not say whether the port may train. -/
theorem State.mayTrain_wrGen_portCtl (s : State) (p v : Nat) (hrw : Bool) : (s.wrGen (rPort p 4) v hrw).mayTrain p = s.mayTrain p := by
  have hne (k : Nat) (hk : k < 0x0201000) : k ≠ rPort p 4 := by unfold rPort; omega
  obtain ⟨l, hl⟩ := s.wrGen_eq_regs (rPort p 4) v hrw
  refine State.mayTrain_congr (s.rf_wrGen_ne _ _ _ _ (hne _ (by decide))) (by rw [hl]; rfl)
    (State.txIdle_congr (s.rf_wrGen_ne _ _ _ _ (hne _ (by decide))) (s.rf_wrGen_ne _ _ _ _ (hne _ (by decide)))) (by rw [hl]; rfl)

theorem State.portUp_wrGen_portCtl (s : State) (p v : Nat) (hrw : Bool) : (s.wrGen (rPort p 4) v hrw).portUp p = s.portUp p := by
  have hne : rPort p 0 ≠ rPort p 4 := by unfold rPort; omega
  rw [State.portUp, State.portState, s.rf_wrGen_ne _ _ _ _ hne]
  rfl

@[simp] theorem State.placed_port (s : State) (rq : Req) (off q : Nat) : (s.placed rq off).port q = s.port q := by
  obtain ⟨l, h⟩ := s.placed_eq_grant rq off
  rw [h]; rfl

theorem State.mayTrain_placed (s : State) (rq : Req) (off p : Nat) : (s.placed rq off).mayTrain p = s.mayTrain p :=
  State.mayTrain_congr (s.placed_rf rq off _ _ _) (s.placed_port rq off p)
    (State.txIdle_congr (s.placed_rf rq off _ _ _) (s.placed_rf rq off _ _ _)) (s.placed_blkDown rq off 4 p)

theorem State.portUp_placed (s : State) (rq : Req) (off p : Nat) : (s.placed rq off).portUp p = s.portUp p := by
  rw [State.portUp, State.portState, State.placed_rf]
  rfl

/-- R328, log 50: EN and RETRAIN written together. -/
theorem State.portCtl_retrain (s : State) (p n : Nat) : s.portCtl (rPort p 4) 3 n =
    if s.mayTrain p then
      (if s.portUp p then (s.wrGen (rPort p 4) 3 false).linkGone p 1 false n
        else (s.wrGen (rPort p 4) 3 false).setRf (rPort p 0) 2 0 1)
    else s.wrGen (rPort p 4) 3 false := by
  have hp : (rPort p 4 - 0x0201000) / 0x100 = p := by unfold rPort; omega
  have hen : bit 3 0 = true := by decide
  have hretrain : bit 3 1 = true := by decide
  simp only [State.portCtl, hp, hen, hretrain, State.mayTrain_wrGen_portCtl, State.portUp_wrGen_portCtl, Bool.not_true, Bool.true_and,
    Bool.false_eq_true, if_false]

theorem exec_portRetrain_of_enabled {rq : Req} {p : Fin 8} {s : State} (hw : s.writes rq (rPort p 4) = true)
    (hen : s.rf (rPort p 4) 0 0 = 1) : exec (.portRetrain rq p) s =
      .next ((s.placed rq (rPort p 4)).portCtl (rPort p 4) 3 (s.arbN (arbReg (rPort p 4)))) := by
  show execPortRetrain rq p s = _
  have hv : (1 + 2) % 2 ^ 32 = 3 := by decide
  rw [execPortRetrain, hen, State.wr32_of_writes _ _ hw, State.wrAt_portCtl _ _ p.isLt, hv]

theorem exec_fabEntryWrite {off : Nat} (rq : Req) (v : BitVec 32) (s : State) (h : isEntry off = true) (ho : off % 4 = 0) :
    exec (.fabEntryWrite rq off v) s = .next (s.wr32 rq off v.toNat .none) := congrArg _ (if_pos ⟨h, ho⟩)

theorem exec_pkgidWrite (rq : Req) (v : BitVec 32) (s : State) :
    exec (.pkgidWrite rq v) s = .next (s.wr32 rq 0x0200000 v.toNat .none) := rfl

theorem exec_floorWrite (rq : Req) (v : BitVec 32) (s : State) :
    exec (.floorWrite rq v) s = .next (s.wr32 rq 0x0200008 v.toNat .none) := rfl

/-- Settles O34: each write is refused by its register's rule, or takes effect by the type codes; RETRAIN is the rule of the ports. -/
theorem fabricTables : Obligations.FabricTables := by
  unfold Obligations.FabricTables
  refine ⟨fun rq v s => ⟨fun off hentry ho hw => ?entry, fun hw => ?pkgId, fun hw => ?floor⟩, fun rq p s hw hen => ?retrain⟩
  case entry =>
    intro u bad
    have hrefuses : u.refuses off v.toNat = bad := u.refuses_entry v hentry
    rw [exec_fabEntryWrite rq v s hentry ho]
    exact ⟨fun hbad => congrArg _ (State.wr32_of_refused_value hw (hrefuses.trans hbad)),
      fun hok => congrArg _ (State.wr32_plain_of_accepted (plainReg_of_entry hentry) hw (hrefuses.trans hok))⟩
  case pkgId =>
    intro u
    have hrefuses : u.refuses 0x0200000 v.toNat = true ↔ ∃ p, p < 8 ∧ s.portState p ≠ 0 := by
      simpa only [State.portState, u, State.placed_rf] using u.refuses_pkgId v.toNat
    rw [exec_pkgidWrite]
    refine ⟨fun hbusy => congrArg _ (State.wr32_of_refused_value hw (hrefuses.mpr hbusy)), fun hdown => ?_⟩
    have hok : u.refuses 0x0200000 v.toNat = false :=
      Bool.eq_false_iff.mpr fun h => (hrefuses.mp h).elim fun p hp => hp.2 (hdown p hp.1)
    exact congrArg _ (State.wr32_plain_of_accepted (by decide) hw hok)
  case floor =>
    intro u bad
    rw [exec_floorWrite]
    exact ⟨fun hbad => congrArg _ (State.wr32_of_refused_value hw ((u.refuses_floor v).mpr hbad)),
      fun hok => congrArg _ (State.wr32_plain_of_accepted (by decide) hw (Bool.eq_false_iff.mpr (mt (u.refuses_floor v).mp hok)))⟩
  case retrain =>
    intro u
    rw [exec_portRetrain_of_enabled hw hen, State.portCtl_retrain, State.mayTrain_placed, State.portUp_placed]
    refine ⟨fun hmay => ?barred, fun hmay hdown => ?down, fun hmay hup => ?up, fun hid => State.mayTrain_eq_false (.inl hid)⟩
    case barred => rw [hmay]; rfl
    case down => rw [hmay, hdown]; rfl
    case up => rw [hmay, hup]; rfl

end Sys2Proof.Machine
end

section
/-! PROOFS. Log 1: a step is exec of the command at the front of the queue. -/

namespace Sys2Proof.Machine

/-- Settles O58: State.pending is what a step's two cases ask for. -/
theorem stepRunsFront : Obligations.StepRunsFront := by
  unfold Obligations.StepRunsFront
  refine ⟨fun c r s hfront => ?front, fun s hempty => ?idle⟩
  case front => rw [step, hfront]
  case idle => rw [step, hempty]

end Sys2Proof.Machine
end

section
/-! PROOFS. R458, R468, R470, R472, R479, R480: the pins, the temperatures, and the throttling of hot dies. -/

namespace Sys2Proof.Machine

/-! ### Pins (R458, R468, R470, R472, R480) -/

theorem exec_supplyRsv (b : Bool) (s : State) : exec (.supplyRsv b) s =
    .next (let u := s.setRf 0x1000014 2 2 (b2n b)
      if b && s.sealState == 1 then { u with sealing := { u.sealing with rsv := true } } else u) := rfl

theorem exec_supplyRsv_of_noTest {b : Bool} {s : State} (h : b = false ∨ s.sealState ≠ 1) :
    exec (.supplyRsv b) s = .next (s.setRf 0x1000014 2 2 (b2n b)) := by
  have hno : (b && s.sealState == 1) = false := by rcases h with h | h <;> simp [h]
  rw [exec_supplyRsv, hno]
  rfl

theorem exec_rsvStuckTimeout_of_low {s : State} (hlow : s.rsvLow = true) (hnot : s.rf 0x0030004 14 14 = 0) :
    exec .rsvStuckTimeout s = .next ((s.setRf 0x0030004 14 14 1).post { kind := 9 }) := by
  have hrun : (s.rsvLow && s.rf rFwuStat 14 14 == 0) = true := by rw [hlow, rFwuStat, hnot]; rfl
  show execRsvStuckTimeout s = _
  rw [execRsvStuckTimeout, if_pos hrun, rFwuStat]

theorem exec_rsvstkClearTimeout_of_high {s : State} (hhigh : s.rsvLow = false) :
    exec .rsvstkClearTimeout s = .next (s.setRf 0x0030004 14 14 0) :=
  congrArg _ (if_neg (ne_true_of_eq_false hhigh))

theorem exec_pwrLimStuckTimeout_of_low {s : State} (hp : s.powered = true) (hlow : s.rf 0x1000014 3 3 = 1) :
    exec .pwrLimStuckTimeout s = .next (s.post { kind := 8 }) := by
  have hrun : (s.powered && s.rf rPins 3 3 == 1) = true := by rw [hp, rPins, hlow]; rfl
  exact congrArg _ (if_pos hrun)

/-- R480: TRIPPED and THERMTRIP_L, as a trip leaves them. -/
def State.tripped (s : State) : State := (s.setRf 0x1000008 16 16 1).setRf 0x1000014 4 4 1

theorem exec_thermtrip_of_untripped {s : State} (h : s.rf 0x1000008 16 16 = 0) :
    exec .thermtrip s = .next (if s.powered then s.tripped.post { kind := 8 } else s.tripped) := by
  have hne : ¬ s.rf rTherm 16 16 = 1 := by rw [rTherm, h]; decide
  exact congrArg _ (if_neg hne)

/-! ### Temperatures (R479) -/

theorem exec_temperatureChange_of_powered {s : State} (hp : s.powered = true) (d : Fin 4) (tj : Nat) (st : Fin 6) (temp : Nat) :
    exec (.temperatureChange d tj st temp) s =
      .next ((((s.setRf (rDie d) 29 22 tj).setRf (rMem (6 * d + st) 0) 23 16 temp).warnCheck d).hotCheck d) :=
  congrArg _ (if_pos hp)

/-- R479: above TWARN, while its event may be raised. -/
theorem State.warnCheck_of_above {s : State} {d : Nat} (hw : s.pwr.warn = true) (habove : s.rf rTherm 15 8 < s.tj d) :
    s.warnCheck d = { s with pwr := { s.pwr with warn := false } }.post { kind := 8, unit := d, info := s.tj d } := by
  have hraise : (s.pwr.warn && decide (s.rf rTherm 15 8 < s.tj d)) = true := by rw [hw, decide_eq_true habove]; rfl
  exact if_pos hraise

/-- R479: every sensor is 3 °C below TWARN: its event may be raised again. -/
theorem State.warnCheck_of_below {s : State} (d : Nat) (hw : s.pwr.warn = false) (hbelow : ∀ x, x < 4 → s.tj x + 3 ≤ s.rf rTherm 15 8) :
    s.warnCheck d = { s with pwr := { s.pwr with warn := true } } := by
  have hquiet : ¬ (s.pwr.warn && decide (s.rf rTherm 15 8 < s.tj d)) = true := by rw [hw]; exact Bool.false_ne_true
  have hall : (List.range 4).all (fun x => decide (s.tj x + 3 ≤ s.rf rTherm 15 8)) = true := by simpa using hbelow
  exact (if_neg hquiet).trans (if_pos hall)

/-- R479: throttling of a die begins. -/
theorem State.hotCheck_of_begins {s : State} {d : Nat} (hot : s.tooHot d = true) (hnew : bit s.pwr.hot d = false) : s.hotCheck d =
    ({ s with pwr := { s.pwr with hot := s.pwr.hot + 2 ^ d } }.setRf 0x1000004 14 14 1).post { kind := 8, unit := d, info := s.tj d } := by
  have hbegins : (s.tooHot d && !bit s.pwr.hot d) = true := by rw [hot, hnew]; rfl
  exact if_pos hbegins

theorem State.cool_of_below {s : State} {d : Nat} (hdie : s.tj d + 3 ≤ s.rf rTherm 7 0)
    (hst : ∀ i, i < 6 → s.stackTemp (6 * d + i) + 3 ≤ 95) : s.cool d = true := by
  simp only [State.cool, rangeFrom, Bool.and_eq_true, decide_eq_true_eq, List.all_map, List.all_eq_true, List.mem_range,
    Function.comp_apply]
  exact ⟨hdie, hst⟩

/-- The state with die d no longer hot; THROT holds while another is. -/
def State.released (s : State) (d : Nat) : State :=
  { s with pwr := { s.pwr with hot := setFld s.pwr.hot d d 0 } }.setRf 0x1000004 14 14 (b2n (decide (0 < setFld s.pwr.hot d d 0)))

theorem exec_thermalRelease_of_cool {s : State} {d : Fin 4} (hp : s.powered = true) (hot : bit s.pwr.hot d = true)
    (hcool : s.cool d = true) : exec (.thermalRelease d) s = .next (s.released d) := by
  have hrun : (s.powered && bit s.pwr.hot d && s.cool d) = true := by rw [hp, hot, hcool]; rfl
  exact congrArg _ (if_pos hrun)

theorem bit_setFld_zero (x d : Nat) : bit (setFld x d d 0) d = false := by
  rw [bit, fld_setFld_self _ _ (Nat.le_succ d), Nat.zero_mod]
  rfl

theorem b2n_lt_two (b : Bool) : b2n b < 2 := by cases b <;> decide

/-- Settles O54: each command by the case of its guard. -/
theorem pinsAndTemperatures : Obligations.PinsAndTemperatures := by
  unfold Obligations.PinsAndTemperatures
  refine ⟨fun s => ⟨fun b => ⟨exec_supplyRsv_of_noTest, fun hb htest => ?rsv⟩, exec_rsvStuckTimeout_of_low, exec_rsvstkClearTimeout_of_high,
    fun _ => rfl, exec_pwrLimStuckTimeout_of_low, fun h => ⟨fun hp => ?trip, fun hp => ?tripDown⟩⟩,
    fun d s hp => ⟨exec_temperatureChange_of_powered hp d, State.warnCheck_of_above, State.warnCheck_of_below d,
      State.hotCheck_of_begins, fun hot hdie hst => ?release⟩⟩
  case rsv => rw [exec_supplyRsv, hb, htest]; rfl
  case trip => rw [exec_thermtrip_of_untripped h, if_pos hp]; rfl
  case tripDown => rw [exec_thermtrip_of_untripped h, hp, if_neg Bool.false_ne_true]; rfl
  case release =>
    refine ⟨s.released d, exec_thermalRelease_of_cool hp hot (State.cool_of_below hdie hst), bit_setFld_zero _ _, ?_⟩
    rw [State.released, State.rf_setRf_self _ _ _ (by decide) (by decide)]
    exact Nat.mod_eq_of_lt (b2n_lt_two _)

end Sys2Proof.Machine
end

section
/-! PROOFS. R474 to R478: power measurements, the rails and their regulators. -/

namespace Sys2Proof.Machine

/-! ### Measurements (R477, R478; log 35) -/

/-- What a measurement compares: a new millisecond begins, the power and the power in force are taken, and the average shows. -/
def State.measured (s : State) (w avg : Nat) : State :=
  { s.dropTick with pwr := { s.pwr with watts := w, force := s.powerInForce } }.setRf 0x1000004 11 0 avg

/-- The dies that a burst can lower: above VMIN, their regulators answer. -/
def State.lowerable (s : State) : List Nat := (List.range 4).filter (fun d => !s.atVmin d && !bit s.pwr.held d)

/-- The dies throttled for temperature. -/
def State.hotDies (s : State) : List Nat := (List.range 4).filter (fun d => bit s.pwr.hot d)

theorem State.dropTick_eq_ports (s : State) : ∃ l, s.dropTick = { s with ports := l } := ⟨_, rfl⟩

theorem State.measured_eq (s : State) (w avg : Nat) : ∃ l, s.measured w avg =
    State.setRf { s with ports := l, pwr := { s.pwr with watts := w, force := s.powerInForce } } 0x1000004 11 0 avg := by
  obtain ⟨l, hl⟩ := s.dropTick_eq_ports
  exact ⟨l, by rw [State.measured, hl]⟩

theorem exec_powerMeasurement_of_powered {s : State} (hp : s.powered = true) (w avg : Nat) :
    exec (.powerMeasurement w avg) s = .next ((s.measured w avg).measure w) := by
  show execPowerMeasurement w avg s = _
  obtain ⟨l, hl⟩ := s.dropTick_eq_ports
  rw [execPowerMeasurement, State.measured, hl]
  exact congrArg _ (if_pos hp)

theorem State.rf_measured_ne (s : State) (w avg hi lo : Nat) {k : Nat} (h : k ≠ 0x1000004) : (s.measured w avg).rf k hi lo = s.rf k hi lo := by
  obtain ⟨l, hl⟩ := s.measured_eq w avg
  rw [hl]
  exact State.rf_setRf_ne _ _ _ _ _ _ h

@[simp] theorem State.vcmd_measured (s : State) (w avg d : Nat) : (s.measured w avg).vcmd d = s.vcmd d := by
  obtain ⟨l, hl⟩ := s.measured_eq w avg
  rw [hl]; rfl

@[simp] theorem State.hot_measured (s : State) (w avg : Nat) : (s.measured w avg).pwr.hot = s.pwr.hot := by
  obtain ⟨l, hl⟩ := s.measured_eq w avg
  rw [hl]; rfl

@[simp] theorem State.held_measured (s : State) (w avg : Nat) : (s.measured w avg).pwr.held = s.pwr.held := by
  obtain ⟨l, hl⟩ := s.measured_eq w avg
  rw [hl]; rfl

theorem State.powerInForce_measured (s : State) (w avg : Nat) : (s.measured w avg).powerInForce = s.powerInForce := by
  simp only [State.powerInForce, s.rf_measured_ne w avg _ _ (show rPwrCap ≠ 0x1000004 by decide),
    s.rf_measured_ne w avg _ _ (show rPins ≠ 0x1000004 by decide)]

theorem State.atVmin_measured (s : State) (w avg d : Nat) : (s.measured w avg).atVmin d = s.atVmin d := by
  rw [State.atVmin, State.vmin, s.rf_measured_ne w avg _ _ (by decide), State.vcmd_measured]
  rfl

theorem State.lowerable_measured (s : State) (w avg : Nat) : (s.measured w avg).lowerable = s.lowerable := by
  simp only [State.lowerable, State.atVmin_measured, State.held_measured]

theorem State.hotDies_measured (s : State) (w avg : Nat) : (s.measured w avg).hotDies = s.hotDies := by
  simp only [State.hotDies, State.hot_measured]

/-- A burst makes steps due; it moves no rail. -/
theorem State.atVmin_burst (l : List Nat) (s : State) (d : Nat) : (s.burst l).atVmin d = s.atVmin d := by
  unfold State.burst
  induction l generalizing s with
  | nil => rfl
  | cons a l ih =>
    rw [List.foldl_cons, ih]
    split <;> rfl

/-- R477: over the power in force. -/
theorem State.measure_of_over {s : State} {w : Nat} (h : s.powerInForce < w) :
    s.measure w = if s.lowerable = [] then s.throttle else (s.burst s.lowerable).capped := by
  refine (if_pos h).trans ?_
  by_cases hnone : s.lowerable = []
  · rw [if_pos hnone]; exact if_pos (List.isEmpty_iff.mpr hnone)
  · rw [if_neg hnone]; exact if_neg (mt List.isEmpty_iff.mp hnone)

/-- R477, R479: not over the power in force: hot dies first. -/
theorem State.measure_of_within {s : State} {w : Nat} (h : w ≤ s.powerInForce) :
    s.measure w = if s.hotDies.any s.atVmin then (s.burst s.hotDies).throttle
      else if w * 100 < s.powerInForce * 95 then (s.burst s.hotDies).reverseStep else s.burst s.hotDies := by
  refine (if_neg (Nat.not_lt.mpr h)).trans ?_
  have hrails : (fun d => (s.burst s.hotDies).atVmin d) = s.atVmin := funext (State.atVmin_burst s.hotDies s)
  rw [← hrails]
  rfl

section Measurement
variable {s : State} {w : Nat} (avg : Nat)

theorem exec_powerMeasurement_of_over (hp : s.powered = true) (h : s.powerInForce < w) : exec (.powerMeasurement w avg) s =
    .next (if s.lowerable = [] then (s.measured w avg).throttle else ((s.measured w avg).burst s.lowerable).capped) := by
  rw [exec_powerMeasurement_of_powered hp, State.measure_of_over (by rwa [State.powerInForce_measured]), State.lowerable_measured]

theorem exec_powerMeasurement_of_within (hp : s.powered = true) (h : w ≤ s.powerInForce) : exec (.powerMeasurement w avg) s =
    .next (let y := (s.measured w avg).burst s.hotDies
      if s.hotDies.any s.atVmin then y.throttle else if w * 100 < s.powerInForce * 95 then y.reverseStep else y) := by
  have hat : (s.measured w avg).atVmin = s.atVmin := funext (s.atVmin_measured w avg)
  rw [exec_powerMeasurement_of_powered hp, State.measure_of_within (by rwa [State.powerInForce_measured]), State.powerInForce_measured,
    State.hotDies_measured, hat]

end Measurement

/-! ### Rails (R474, R475; log 57) -/

theorem exec_voltageStep_of_free {s : State} {d : Fin 4} (h : s.railFree d = true) :
    exec (.voltageStep d) s = .next (s.voltageStep d) := congrArg _ (if_pos h)

theorem State.voltageStep_of_below {s : State} {d : Nat} (h : s.vcmd d < s.vmin) : s.voltageStep d = s.setRail d (s.vcmd d + 5) := if_pos h

theorem State.voltageStep_of_above {s : State} {d : Nat} (hmin : s.vmin ≤ s.vcmd d) (h : s.vmax < s.vcmd d) :
    s.voltageStep d = s.setRail d (s.vcmd d - 5) := (if_neg (Nat.not_lt.mpr hmin)).trans (if_pos h)

section Rail
variable {s : State} {d : Nat}

/-- R475: a rail in its range moves as the steps due say: down before up. -/
theorem State.voltageStep_of_inRange (hmin : s.vmin ≤ s.vcmd d) (hmax : s.vcmd d ≤ s.vmax) : s.voltageStep d =
    if 0 < s.pwr.down.getD d 0 then
      if s.atVmin d then { s with pwr := { s.pwr with down := setNth s.pwr.down d 0 } }
      else { s with pwr := { s.pwr with down := drop1 s.pwr.down d, low := bump s.pwr.low d } }.setRail d (s.vcmd d - 5)
    else if 0 < s.pwr.up.getD d 0 ∧ s.vcmd d + 5 ≤ s.vmax then
      ({ s with pwr := { s.pwr with up := drop1 s.pwr.up d, low := drop1 s.pwr.low d } }.setRail d (s.vcmd d + 5)).showCapped
    else s := (if_neg (Nat.not_lt.mpr hmin)).trans (if_neg (Nat.not_lt.mpr hmax))

theorem State.voltageStep_of_down (hmin : s.vmin + 5 ≤ s.vcmd d) (hmax : s.vcmd d ≤ s.vmax) (h : 0 < s.pwr.down.getD d 0) :
    s.voltageStep d =
      { s with pwr := { s.pwr with down := drop1 s.pwr.down d, low := bump s.pwr.low d } }.setRail d (s.vcmd d - 5) := by
  have hroom : ¬ s.atVmin d = true := by rw [State.atVmin, decide_eq_true_eq]; omega
  rw [State.voltageStep_of_inRange (by omega) hmax, if_pos h, if_neg hroom]

theorem State.voltageStep_of_atVmin (hmin : s.vmin ≤ s.vcmd d) (hmax : s.vcmd d ≤ s.vmax) (hat : s.vcmd d < s.vmin + 5)
    (h : 0 < s.pwr.down.getD d 0) : s.voltageStep d = { s with pwr := { s.pwr with down := setNth s.pwr.down d 0 } } := by
  rw [State.voltageStep_of_inRange hmin hmax, if_pos h, State.atVmin, if_pos (decide_eq_true hat)]

theorem State.voltageStep_of_up (hmin : s.vmin ≤ s.vcmd d) (hmax : s.vcmd d + 5 ≤ s.vmax) (hdown : s.pwr.down.getD d 0 = 0)
    (h : 0 < s.pwr.up.getD d 0) : s.voltageStep d =
      ({ s with pwr := { s.pwr with up := drop1 s.pwr.up d, low := drop1 s.pwr.low d } }.setRail d (s.vcmd d + 5)).showCapped := by
  rw [State.voltageStep_of_inRange hmin (by omega), if_neg (by omega), if_pos ⟨h, hmax⟩]

theorem State.voltageStep_of_still (hmin : s.vmin ≤ s.vcmd d) (hmax : s.vcmd d ≤ s.vmax) (hdown : s.pwr.down.getD d 0 = 0)
    (h : s.pwr.up.getD d 0 = 0 ∨ s.vmax < s.vcmd d + 5) : s.voltageStep d = s := by
  rw [State.voltageStep_of_inRange hmin hmax, if_neg (by omega), if_neg (by omega)]

end Rail

/-! ### Regulators (R474, R476) -/

theorem exec_regulatorPoll_of_powered {s : State} (hp : s.powered = true) (d : Fin 4) (mv pace : Nat) :
    exec (.regulatorPoll d mv pace) s = .next ((s.setRf (rDie d) 21 12 mv).setRf (rDie d) 11 0 pace) := congrArg _ (if_pos hp)

/-- R474: a regulator's silence in a package that is neither held nor safe: bring-up stops, or the die is lost, once. -/
theorem exec_regulatorTimeout_of_out {s : State} (hheld : s.sysHeld = false) (hsafe : s.isSafe = false) (d : Fin 4) :
    exec (.regulatorTimeout d) s = .next (if s.rf 0x0020808 3 0 ≠ 9 then s.safeUp 10
      else if bit s.pwr.held d then s
      else ({ s with pwr := { s.pwr with held := s.pwr.held + 2 ^ d.val, down := setNth s.pwr.down d 0, up := setNth s.pwr.up d 0 } }.post
        { kind := 5, unit := d, ctag := s.dieTag d }).dieLost d) := by
  have hout : ¬ (s.sysHeld || s.isSafe) = true := by rw [hheld, hsafe]; decide
  show Host.Outcome.next _ = _
  rw [if_neg hout]
  simp only [bne_iff_ne]

/-- Settles O55: a measurement by its two comparisons, a rail by the steps due, a regulator by whether it answers. -/
theorem powerControl : Obligations.PowerControl := by
  unfold Obligations.PowerControl
  refine fun s => ⟨fun w avg hp => ⟨fun hover (hsome : s.lowerable ≠ []) => ?burst,
    fun hover (hnone : s.lowerable = []) => ?halve, fun hwithin => ?within⟩, fun d hfree => ?rail,
    fun d mv pace hp => exec_regulatorPoll_of_powered hp d mv pace, fun d hheld hsafe => ⟨fun hboot => ?bringup, fun hup hnew => ?lost⟩⟩
  case burst =>
    rw [exec_powerMeasurement_of_over avg hp hover, if_neg hsome]
    rfl
  case halve =>
    rw [exec_powerMeasurement_of_over avg hp hover, if_pos hnone]
    rfl
  case within =>
    intro hots y
    rw [exec_powerMeasurement_of_within avg hp hwithin]
    refine ⟨fun hfloor => congrArg _ (if_pos (List.any_eq_true.mpr hfloor)), fun hroom => ?_⟩
    have hno : ¬ s.hotDies.any s.atVmin = true := fun h => by
      obtain ⟨d, hd, hat⟩ := List.any_eq_true.mp h
      exact Bool.false_ne_true ((hroom d hd).symm.trans hat)
    exact ⟨fun hlow => congrArg _ ((if_neg hno).trans (if_pos hlow)),
      fun hnear => congrArg _ ((if_neg hno).trans (if_neg (Nat.not_lt.mpr hnear)))⟩
  case rail =>
    rw [exec_voltageStep_of_free hfree]
    exact ⟨fun h => congrArg _ (State.voltageStep_of_below h), fun hmin h => congrArg _ (State.voltageStep_of_above hmin h),
      fun hmin hmax hat h => congrArg _ (State.voltageStep_of_atVmin hmin hmax hat h),
      fun hmin hmax hdown h => congrArg _ (State.voltageStep_of_still hmin hmax hdown h),
      fun hmin hmax h => congrArg _ (State.voltageStep_of_down hmin hmax h),
      fun hmin hmax hdown h => congrArg _ (State.voltageStep_of_up hmin hmax hdown h)⟩
  case bringup => rw [exec_regulatorTimeout_of_out hheld hsafe, if_pos hboot]
  case lost =>
    rw [exec_regulatorTimeout_of_out hheld hsafe, if_neg (not_not.mpr hup), hnew, if_neg Bool.false_ne_true]

end Sys2Proof.Machine
end

section
/-! SUPPORT. Bytes: what the sparse maps, the flash and the host's memory read after a write or an erasure, and numbers as their bytes
(R6, R451). -/

namespace Sys2Proof.Machine

/-! ### Slices of a sparse map -/

section Slice
variable {α : Type}

/-- What lies before the first key that is not below k does not show from k on. -/
theorem Assoc.get_from (l : List (Nat × α)) {k j : Nat} (d : α) (h : k ≤ j) : Assoc.get (Assoc.from l k) j d = Assoc.get l j d := by
  induction l with
  | nil => rfl
  | cons x r ih =>
    obtain ⟨k', v⟩ := x
    by_cases hk : k' < k
    · rw [Assoc.from, if_pos hk, ih, Assoc.get, if_neg (by omega)]
    · rw [Assoc.from, if_neg hk]

theorem Assoc.slice_eq_map (l : List (Nat × α)) (k n : Nat) (d : α) :
    Assoc.slice l k n d = (List.range n).map (fun i => Assoc.get l (k + i) d) := by
  induction n generalizing l k with
  | zero => rfl
  | succ n ih =>
    rw [Assoc.slice, ih, List.range_succ_eq_map, List.map_cons, List.map_map, Assoc.get_from _ _ (Nat.le_refl k), Nat.add_zero]
    congr 1
    refine List.map_congr_left fun i _ => ?_
    rw [Assoc.get_from _ _ (by omega), Function.comp_apply, Nat.add_assoc, Nat.add_comm 1 i]

@[simp] theorem Assoc.length_slice (l : List (Nat × α)) (k n : Nat) (d : α) : (Assoc.slice l k n d).length = n := by
  rw [Assoc.slice_eq_map, List.length_map, List.length_range]

theorem Assoc.slice_congr {l m : List (Nat × α)} {k n : Nat} {d : α} (h : ∀ j, k ≤ j → j < k + n → Assoc.get l j d = Assoc.get m j d) :
    Assoc.slice l k n d = Assoc.slice m k n d := by
  rw [Assoc.slice_eq_map, Assoc.slice_eq_map]
  refine List.map_congr_left fun i hi => h _ (Nat.le_add_right k i) ?_
  have := List.mem_range.mp hi
  omega

/-- What has been stored is what is read. -/
theorem Assoc.slice_splice_self [DecidableEq α] (l : List (Nat × α)) (k : Nat) (vs : List α) (d : α) :
    Assoc.slice (Assoc.splice l k vs d) k vs.length d = vs := by
  rw [Assoc.slice_eq_map]
  refine List.ext_getElem (by simp) fun i hi hi' => ?_
  rw [List.getElem_map, List.getElem_range, Assoc.get_splice, if_pos (by omega), Nat.add_sub_cancel_left]
  exact (List.getElem_eq_getD d).symm

end Slice

/-! ### The flash (R451) -/

theorem map_toNat_ofNat (bs : List Nat) : (bs.map (BitVec.ofNat 8)).map BitVec.toNat = bs.map (· % 256) := by
  rw [List.map_map]
  exact List.map_congr_left fun b _ => BitVec.toNat_ofNat b 8

@[simp] theorem State.length_flashRead (s : State) (a n : Nat) : (s.flashRead a n).length = n := by
  rw [State.flashRead, List.length_map, Assoc.length_slice]

theorem State.flashRead_congr {s t : State} {a n : Nat}
    (h : ∀ j, a ≤ j → j < a + n → Assoc.get t.flash j 0xFF = Assoc.get s.flash j 0xFF) : t.flashRead a n = s.flashRead a n :=
  congrArg _ (Assoc.slice_congr h)

/-- A cell of the flash after a write. -/
theorem State.flash_flashWrite (s : State) (a : Nat) (bs : List Nat) (j : Nat) (h : j < a ∨ a + bs.length ≤ j) :
    Assoc.get (s.flashWrite a bs).flash j 0xFF = Assoc.get s.flash j 0xFF := by
  show Assoc.get (Assoc.splice s.flash a (bs.map (BitVec.ofNat 8)) 0xFF) j 0xFF = _
  rw [Assoc.get_splice, List.length_map, if_neg (by omega)]

theorem State.flash_flashErase (s : State) (a n j : Nat) (h : j < a ∨ a + n ≤ j) :
    Assoc.get (s.flashErase a n).flash j 0xFF = Assoc.get s.flash j 0xFF := by
  show Assoc.get (Assoc.clear s.flash a n) j 0xFF = _
  rw [Assoc.get_clear, if_neg (by omega)]

theorem State.flashRead_flashWrite_self (s : State) (a : Nat) (bs : List Nat) :
    (s.flashWrite a bs).flashRead a bs.length = bs.map (· % 256) := by
  have hlen : bs.length = (bs.map (BitVec.ofNat 8)).length := (List.length_map _).symm
  rw [State.flashRead, State.flashWrite, hlen, Assoc.slice_splice_self, map_toNat_ofNat]

/-! ### The host's memory (R394) -/

@[simp] theorem State.length_hostRead (s : State) (a n : Nat) : (s.hostRead a n).length = n := by
  rw [State.hostRead, List.length_map, Assoc.length_slice]

theorem State.hostRead_lt (s : State) (a n : Nat) : ∀ b ∈ s.hostRead a n, b < 256 := fun b hb => by
  obtain ⟨v, -, rfl⟩ := List.mem_map.mp hb
  exact v.isLt

theorem map_mod_eq_self {l : List Nat} (h : ∀ b ∈ l, b < 256) : l.map (· % 256) = l :=
  (List.map_congr_left fun b hb => Nat.mod_eq_of_lt (h b hb)).trans (List.map_id l)

theorem State.hostRead_hostWrite_self (s : State) (f a : Nat) (bs : List Nat) :
    (s.hostWrite f a bs).hostRead a bs.length = bs.map (· % 256) := by
  have hlen : bs.length = (bs.map (BitVec.ofNat 8)).length := (List.length_map _).symm
  show (Assoc.slice (Assoc.splice s.host.cells a (bs.map (BitVec.ofNat 8)) 0) a bs.length 0).map BitVec.toNat = _
  rw [hlen, Assoc.slice_splice_self, map_toNat_ofNat]

/-! ### Numbers and their bytes (R6) -/

@[simp] theorem length_leBytes (n x : Nat) : (leBytes n x).length = n := by
  induction n generalizing x with
  | zero => rfl
  | succ n ih => rw [leBytes, List.length_cons, ih]

theorem leBytes_leNat {bs : List Nat} (h : ∀ b ∈ bs, b < 256) : leBytes bs.length (leNat bs) = bs := by
  induction bs with
  | nil => rfl
  | cons b bs ih =>
    have hb : b < 256 := h b List.mem_cons_self
    have hdiv : (b % 256 + 256 * leNat bs) / 256 = leNat bs := by omega
    have hmod : (b % 256 + 256 * leNat bs) % 256 = b := by omega
    rw [List.length_cons, leNat, leBytes, hdiv, hmod, ih fun c hc => h c (List.mem_cons_of_mem b hc)]

theorem leNat_lt (bs : List Nat) : leNat bs < 256 ^ bs.length := by
  induction bs with
  | nil => decide
  | cons b bs ih =>
    rw [leNat, List.length_cons, Nat.pow_succ]
    omega

/-- A list is its pieces of n elements. -/
theorem flatMap_pieces {α : Type} (l : List α) (n m : Nat) :
    (List.range m).flatMap (fun i => (l.drop (n * i)).take n) = l.take (n * m) := by
  induction m with
  | zero => simp
  | succ m ih => rw [List.range_succ, List.flatMap_append, ih, List.flatMap_singleton, Nat.mul_succ, List.take_add]

end Sys2Proof.Machine
end

section
/-! SUPPORT. Folds over states: a fact that one element establishes and the others keep; registers set one after the other. -/

namespace Sys2Proof.Machine

section Fold
variable {σ α : Type} {P : σ → Prop} {f : σ → α → σ}

theorem foldl_keeps {l : List α} (hkeep : ∀ u b, b ∈ l → P u → P (f u b)) {s : σ} (h : P s) : P (l.foldl f s) :=
  List.foldlRecOn (motive := P) l f h fun u hu b hb => hkeep u b hb hu

/-- What the step of a establishes, whatever stood before, and every step keeps. -/
theorem foldl_establishes {l : List α} {a : α} (ha : a ∈ l) (hest : ∀ u, P (f u a)) (hkeep : ∀ u b, b ∈ l → P u → P (f u b)) (s : σ) :
    P (l.foldl f s) := by
  obtain ⟨l₁, l₂, rfl⟩ := List.append_of_mem ha
  rw [List.foldl_append, List.foldl_cons]
  exact foldl_keeps (fun u b hb => hkeep u b (List.mem_append_right _ (List.mem_cons_of_mem _ hb))) (hest _)

/-- What no step changes. -/
theorem foldl_same {β : Type} (g : σ → β) {l : List α} (h : ∀ u b, b ∈ l → g (f u b) = g u) (s : σ) : g (l.foldl f s) = g s :=
  foldl_keeps (P := fun u => g u = g s) (fun u b hb hu => (h u b hb).trans hu) rfl

end Fold

end Sys2Proof.Machine
end

section
/-! SUPPORT. Which registers an event leaves as they were (R413 to R419), and what else of the state. -/

namespace Sys2Proof.Machine

/-- An offset where an event can leave a trace: the head, the tail and the lost count of a ring, or a pending bit of MSI-X. -/
def evtReg (k : Nat) : Prop := (0x0050000 ≤ k ∧ (k % 0x100 = 0x1C ∨ k % 0x100 = 0x20 ∨ k % 0x100 = 0x24)) ∨ 0x3FF8000 ≤ k

theorem not_evtReg_of_lt {k : Nat} (h : k < 0x0050000) : ¬ evtReg k := by unfold evtReg; omega

section Event
variable {k : Nat} (hk : ¬ evtReg k)
include hk

theorem State.reg_setRf_evt (s : State) (f : Nat) {o : Nat} (ho : o = 0x1C ∨ o = 0x20 ∨ o = 0x24) (hi lo v : Nat) :
    (s.setRf (ringWin f true + o) hi lo v).reg k = s.reg k := by
  refine s.reg_setRf_ne _ _ _ fun he => hk (.inl ?_)
  have hwin : ringWin f true = 0x50000 + 0x100 * f := rfl
  omega

theorem State.reg_sendVec (s : State) (f v : Nat) : (s.sendVec f v).reg k = s.reg k := by
  unfold State.sendVec
  split
  · exact s.reg_setRf_ne _ _ _ fun he => hk (.inr (by unfold pbaKey at he; omega))
  · rfl

theorem State.reg_ringSignal (s : State) (f : Nat) : (s.ringSignal f true).reg k = s.reg k := by
  unfold State.ringSignal
  split
  · rw [State.reg_sendVec hk, s.reg_setRf_evt hk f (.inl rfl)]
  · rfl

theorem State.reg_ringWrite (s : State) (f : Nat) (bs : List Nat) : (s.ringWrite f true bs).reg k = s.reg k := by
  unfold State.ringWrite
  extract_lets tail s1 next s2 s3
  have htail : s2.reg k = s1.reg k := s1.reg_setRf_evt hk f (.inr (.inl rfl)) _ _ _
  have hphase : s3.reg k = s2.reg k := by
    unfold s3
    split <;> rfl
  rw [State.reg_ringSignal hk, hphase, htail]
  rfl

theorem State.reg_ringEvent (s : State) (f : Nat) (e : Ev) (n : Nat) : (s.ringEvent f e n).reg k = s.reg k := by
  unfold State.ringEvent
  split
  · exact s.reg_ringWrite hk f _
  · exact s.reg_setRf_evt hk f (.inr (.inr rfl)) _ _ _

/-- R417: an event changes no register but those of the event rings and the pending bits. -/
theorem State.reg_post (s : State) (e : Ev) : (s.post e).reg k = s.reg k := by
  unfold State.post
  rw [State.reg_ringEvent hk]
  split
  · split
    · rfl
    · exact State.reg_ringEvent hk _ _ _ _
  · rfl

theorem State.rf_post (s : State) (e : Ev) (hi lo : Nat) : (s.post e).rf k hi lo = s.rf k hi lo := by
  rw [State.rf, s.reg_post hk, State.rf]

end Event

/-- R394, R417: what an event leaves of the rest of the state. -/
theorem State.post_frame (s : State) (e : Ev) : ∃ regs arb host fns out,
    s.post e = { s with regs := regs, arb := arb, host := host, fns := fns, out := out } := s.sameButRings_post e

@[simp] theorem State.post_cas (s : State) (e : Ev) : (s.post e).cas = s.cas := by
  obtain ⟨_, _, _, _, _, h⟩ := s.post_frame e
  rw [h]

@[simp] theorem State.post_flash (s : State) (e : Ev) : (s.post e).flash = s.flash := by
  obtain ⟨_, _, _, _, _, h⟩ := s.post_frame e
  rw [h]

@[simp] theorem State.post_fuses (s : State) (e : Ev) : (s.post e).fuses = s.fuses := by
  obtain ⟨_, _, _, _, _, h⟩ := s.post_frame e
  rw [h]

@[simp] theorem State.post_jrn (s : State) (e : Ev) : (s.post e).jrn = s.jrn := by
  obtain ⟨_, _, _, _, _, h⟩ := s.post_frame e
  rw [h]

end Sys2Proof.Machine
end

section
/-! PROOFS. R481, R483, R484: the management transports, and the arrival of requests. -/

namespace Sys2Proof.Machine

theorem exec_i3cEntdaa_of_up {s : State} (h : s.sysHeld = false) (a : Nat) :
    exec (.i3cEntdaa a) s = .next { s with mgt := { s.mgt with addr := a % 128 } } := congrArg _ (if_neg (ne_true_of_eq_false h))

/-- The state with a transport's endpoint ID. -/
def State.withEid (s : State) (pcie : Bool) (e : Nat) : State :=
  { s with mgt := if pcie then { s.mgt with eidPcie := e } else { s.mgt with eidI3c := e } }

theorem State.eid_withEid_self (s : State) (pcie : Bool) (e : Nat) : (s.withEid pcie e).eid pcie = e := by cases pcie <;> rfl

theorem State.eid_withEid_other (s : State) (pcie : Bool) (e : Nat) : (s.withEid pcie e).eid (!pcie) = s.eid (!pcie) := by
  cases pcie <;> rfl

/-- The bodies of the control answers that R481 leaves to MCTP (log 43). -/
def mctpBody : McCtl → List Nat
  | .version => [1, 0xF1, 0xF3, 0xF1, 0x00]
  | .types => [1, 0x7E]
  | .vendor => [0xFF, 0x00, Config.cfgWord 0 / 256 % 256, Config.cfgWord 0 % 256]
  | .setEid _ => []
  | .getEid => []

section Transport
variable {s : State} {pcie : Bool}

theorem exec_mctpControl_setEid (h : s.mgtUp pcie = true) (e : Nat) : exec (.mctpControl pcie (.setEid e)) s =
    .next ((s.withEid pcie (e % 256)).emit (.mctp pcie [0, e % 256])) := by
  show execMctpControl pcie (.setEid e) s = _
  rw [execMctpControl, h]
  rfl

theorem exec_mctpControl_getEid (h : s.mgtUp pcie = true) : exec (.mctpControl pcie .getEid) s =
    .next (s.emit (.mctp pcie [0, s.eid pcie])) := by
  show execMctpControl pcie .getEid s = _
  rw [execMctpControl, h]
  rfl

theorem exec_mctpControl_other (h : s.mgtUp pcie = true) {c : McCtl} (hc : c = .version ∨ c = .types ∨ c = .vendor) :
    exec (.mctpControl pcie c) s = .next (s.emit (.mctp pcie (0 :: mctpBody c))) := by
  have hup : ¬ (!s.mgtUp pcie) = true := by rw [h]; decide
  rcases hc with rfl | rfl | rfl <;> exact congrArg _ (if_neg hup)

/-- R484: a request arrives at a port that works. -/
theorem exec_mgtRequestArrival_of_up (h : s.mgtUp pcie = true) (r : MReq) : exec (.mgtRequestArrival pcie r) s =
    .next (if s.pkcHeld || decide (8 ≤ s.mgt.queue.length) then s.answer pcie r 2 []
      else if !mGood r.body then s.answer pcie r 4 [] else s.withQueue (s.mgt.queue ++ [(pcie, r)])) := by
  show execMgtRequestArrival pcie r s = _
  rw [execMgtRequestArrival, h]
  rfl

end Transport

/-- Settles O56: each command by the case of its guard. -/
theorem requestsArrive : Obligations.RequestsArrive := by
  unfold Obligations.RequestsArrive
  refine ⟨fun a s h => exec_i3cEntdaa_of_up h a, fun pcie s h => ⟨fun e => ?setEid, exec_mctpControl_getEid h, fun c hc => ?other⟩,
    fun pcie r s h => ?arrival⟩
  case setEid =>
    exact ⟨_, exec_mctpControl_setEid h e, s.eid_withEid_self pcie _, s.eid_withEid_other pcie _, rfl⟩
  case other => exact ⟨_, exec_mctpControl_other h hc⟩
  case arrival =>
    rw [exec_mgtRequestArrival_of_up h]
    refine ⟨fun hbusy => ?busy, fun hrun hroom hbad => ?bad, fun hrun hroom hgood => ?queued⟩
    case busy => rw [if_pos (by simpa using hbusy)]
    case bad => rw [hrun, decide_eq_false (by omega), hbad]; rfl
    case queued => rw [hrun, decide_eq_false (by omega), hgood]; rfl

end Sys2Proof.Machine
end

section
/-! PROOFS. R482, R484 to R486: the requests of the management path execute. -/

namespace Sys2Proof.Machine

/-! ### The front request (R483, R484) -/

section Front
variable {s : State} {pcie : Bool} {r : MReq} {rest : List (Bool × MReq)} {go : MBody → Option (State → Bool → MReq → State)}
  {f : State → Bool → MReq → State} {b : MBody}

/-- The request at the front executes. -/
theorem next_runReq_of_mgtRun (h : s.mgtRun pcie r rest) (hb : r.body = b) (hgo : go b = some f) :
    (Host.Outcome.next (s.runReq go) : Host.Outcome State Fault Refusal) = .next (f (s.withQueue rest) pcie r) := by
  subst hb
  obtain ⟨hqueue, hrun, hserved⟩ := h
  have hok : (s.isSafe && !mSafeOk r.body) = false := by
    cases hsafe : s.isSafe with
    | false => rfl
    | true => rw [hserved hsafe]; rfl
  unfold State.runReq
  rw [hqueue]
  dsimp only
  rw [hgo]
  dsimp only
  rw [hrun, hok]
  rfl

/-- The safe state denies the request at the front. -/
theorem next_runReq_of_denied (hqueue : s.mgt.queue = (pcie, r) :: rest) (hrun : s.pkcHeld = false) (hsafe : s.isSafe = true)
    (hb : r.body = b) (hgo : go b = some f) (hno : mSafeOk b = false) :
    (Host.Outcome.next (s.runReq go) : Host.Outcome State Fault Refusal) = .next ((s.withQueue rest).answer pcie r 3 []) := by
  subst hb
  unfold State.runReq
  rw [hqueue]
  dsimp only
  rw [hgo]
  dsimp only
  rw [hrun, hsafe, hno]
  rfl

end Front

/-! ### Answers (R484) -/

theorem State.out_emit (s : State) (o : Out) : (s.emit o).out = s.out ++ [o] := by rw [State.emit]

theorem State.answer_out (s : State) (pcie : Bool) (r : MReq) (status : Nat) (body : List Nat) :
    (s.answer pcie r status body).out = s.out ++ [.mgt pcie (mCode r.body) r.inst status body] := by
  unfold State.answer
  extract_lets _ s1 s2
  have h1 : s1.out = s.out := rfl
  have h2 : s2.out = s.out := (s1.count_out _ _ _ _).trans h1
  clear_value s2
  rw [State.out_emit, apply_ite State.out, State.count_out, ite_self, h2]

theorem State.answer_queue (s : State) (pcie : Bool) (r : MReq) (status : Nat) (body : List Nat) :
    (s.answer pcie r status body).mgt.queue = s.mgt.queue := by
  simp only [State.answer, State.emit_mgt, apply_ite State.mgt, State.count_mgt, ite_self]

/-- An answer counts in MGT_MREQ and in no other register. -/
theorem State.reg_answer_ne (s : State) (pcie : Bool) (r : MReq) (status : Nat) (body : List Nat) {k : Nat} (h : k ≠ rMreq) :
    (s.answer pcie r status body).reg k = s.reg k := by
  simp only [State.answer, State.emit_reg, apply_ite (State.reg · k), State.reg_count_ne _ _ _ _ h, ite_self]
  rfl

/-! ### The nonce of an ATTEST (R466, R467; log 59) -/

theorem State.reg_setNonce_ne (s : State) (nonce : List Nat) {k : Nat} (h : ∀ n, n < 16 → k ≠ 0x0030040 + 4 * n) :
    (s.setNonce nonce).reg k = s.reg k :=
  foldl_same (fun u => u.reg k) (fun u _ hn => u.reg_setReg_ne _ (h _ (List.mem_range.mp hn))) s

theorem State.reg_setNonce (s : State) (nonce : List Nat) {n : Nat} (h : n < 16) :
    (s.setNonce nonce).reg (0x0030040 + 4 * n) = BitVec.ofNat 32 (leAt nonce (4 * n) 4) := by
  refine foldl_establishes (f := fun u m => State.setReg u (0x0030040 + 4 * m) (BitVec.ofNat 32 (leAt nonce (4 * m) 4)))
    (P := fun u => u.reg (0x0030040 + 4 * n) = BitVec.ofNat 32 (leAt nonce (4 * n) 4)) (List.mem_range.mpr h)
    (fun u => u.reg_setReg_self _ _) (fun u m _ hu => ?_) s
  by_cases hm : n = m
  · subst hm; exact u.reg_setReg_self _ _
  · exact (u.reg_setReg_ne _ (by omega)).trans hu

/-- Every state that a nonce's registers are set in is the first with other registers. -/
theorem State.setNonce_eq_regs (s : State) (nonce : List Nat) : ∃ l, s.setNonce nonce = { s with regs := l } :=
  foldl_keeps (f := fun u m => State.setReg u (0x0030040 + 4 * m) (BitVec.ofNat 32 (leAt nonce (4 * m) 4)))
    (P := fun u => ∃ l, u = { s with regs := l }) (fun u n _ hu => by obtain ⟨l, rfl⟩ := hu; exact ⟨_, rfl⟩) ⟨s.regs, rfl⟩

/-- Four bytes of a nonce are the bytes of their register. -/
theorem leBytes_leAt {l : List Nat} {o : Nat} (hl : ∀ b ∈ l, b < 256) (ho : o + 4 ≤ l.length) :
    leBytes 4 (BitVec.ofNat 32 (leAt l o 4)).toNat = (l.drop o).take 4 := by
  have hlen : ((l.drop o).take 4).length = 4 := by rw [List.length_take, List.length_drop]; omega
  have hlt : leAt l o 4 < 2 ^ 32 := by simpa [leAt, hlen] using leNat_lt ((l.drop o).take 4)
  have hbytes := leBytes_leNat (bs := (l.drop o).take 4) fun b hb => hl b (List.mem_of_mem_drop (List.mem_of_mem_take hb))
  rw [hlen] at hbytes
  rw [BitVec.toNat_ofNat, Nat.mod_eq_of_lt hlt]
  exact hbytes

theorem State.fwuNonce_congr {s t : State} (h : ∀ n, n < 16 → t.reg (0x0030040 + 4 * n) = s.reg (0x0030040 + 4 * n)) :
    t.fwuNonce = s.fwuNonce :=
  List.flatMap_congr fun n hn => by rw [h n (List.mem_range.mp hn)]

theorem State.fwuNonce_setNonce (s : State) {nonce : List Nat} (hlen : nonce.length = 64) (hb : ∀ b, b ∈ nonce → b < 256) :
    (s.setNonce nonce).fwuNonce = nonce := by
  calc (s.setNonce nonce).fwuNonce
    _ = (List.range 16).flatMap (fun n => (nonce.drop (4 * n)).take 4) := List.flatMap_congr fun n hn => by
        have := List.mem_range.mp hn
        rw [s.reg_setNonce nonce this, leBytes_leAt hb (by omega)]
    _ = nonce := by rw [flatMap_pieces, List.take_of_length_le (by omega)]

/-- R466: the nonce's registers are no part of a report. -/
theorem State.report_setNonce (s : State) (nonce x : List Nat) : (s.setNonce nonce).report x = s.report x := by
  have hpart : (s.setNonce nonce).reg 0 = s.reg 0 := s.reg_setNonce_ne nonce (by omega)
  have hseal : (s.setNonce nonce).reg 0x0020818 = s.reg 0x0020818 := s.reg_setNonce_ne nonce (by omega)
  have hstat : (s.setNonce nonce).reg rFwuStat = s.reg rFwuStat := s.reg_setNonce_ne nonce (by unfold rFwuStat; omega)
  have hbody : (s.setNonce nonce).reportBody x = s.reportBody x := by
    unfold State.reportBody State.rf
    rw [hpart, hseal, hstat]
    obtain ⟨l, hl⟩ := s.setNonce_eq_regs nonce
    rw [hl]
    rfl
  unfold State.report
  rw [hbody]
  obtain ⟨l, hl⟩ := s.setNonce_eq_regs nonce
  rw [hl]
  rfl

/-- R467: the state after an ATTEST whose nonce is in the registers: PENDING, and the report for POLL. -/
def State.attested (s : State) (pcie : Bool) (r : MReq) : State :=
  State.keepRes { s.answer pcie r 1 [] with rseq := s.rseq + 1 } pcie r.inst (s.report s.fwuNonce)

section Attested
variable (s : State) (pcie : Bool) (r : MReq)

theorem State.rseq_attested : (s.attested pcie r).rseq = s.rseq + 1 := by rw [State.attested, State.keepRes]

theorem State.reg_attested_ne {k : Nat} (h : k ≠ rMreq) : (s.attested pcie r).reg k = s.reg k := by
  refine Eq.trans ?_ (s.reg_answer_ne pcie r 1 [] h)
  rw [State.attested, State.keepRes, State.reg, State.reg]

theorem State.mem_results_attested : (⟨pcie, r.inst, s.report s.fwuNonce, 0, 0⟩ : MRes) ∈ (s.attested pcie r).mgt.results := by
  rw [State.attested, State.keepRes]
  exact List.mem_append_right _ (List.mem_singleton_self _)

end Attested

/-! ### The requests -/

section Run
variable {s : State} {pcie : Bool} {r : MReq} {rest : List (Bool × MReq)} (h : s.mgtRun pcie r rest)
include h

/-- R463: a life-cycle request; its token, or the one at FWU_ADDR. -/
theorem exec_mgtLifecycle_of_run {target : Nat} {tok : List Nat} (hb : r.body = .lifecycle target tok) :
    exec .mgtLifecycle s = .next (let k := if tok = [] then s.hostToken else tok
      ((s.withQueue rest).lcRequest .mgt target k 0).answer pcie r
        (if s.anyCas = false ∧ s.lcAllowed .mgt target k = true then 0 else 3) []) := by
  refine (next_runReq_of_mgtRun h hb rfl).trans ?_
  simp only [List.isEmpty_iff, Bool.and_eq_true, Bool.not_eq_true']
  rfl

theorem exec_mgtAttest_of_run {nonce : List Nat} (hb : r.body = .attest nonce) : exec .mgtAttest s = .next (
    if s.fwuBusy then (s.withQueue rest).answer pcie r 2 [] else ((s.withQueue rest).setNonce nonce).attested pcie r) :=
  (next_runReq_of_mgtRun h hb rfl).trans rfl

end Run

/-- Settles O57: the request at the front executes by its body, or the safe state denies it. -/
theorem requestsExecute : Obligations.RequestsExecute := by
  unfold Obligations.RequestsExecute
  refine ⟨fun pcie r rest s h => ?runs, fun pcie r rest s x hqueue hrun hsafe => ?denied⟩
  case runs =>
    intro u
    refine ⟨fun hb => (next_runReq_of_mgtRun h hb rfl).trans rfl, fun hb => (next_runReq_of_mgtRun h hb rfl).trans rfl,
      fun hb => (next_runReq_of_mgtRun h hb rfl).trans rfl, fun off n hb => (next_runReq_of_mgtRun h hb rfl).trans rfl,
      fun off vs hb hup => ?write, fun off vs hb hdown => ?writeReset, fun x hb => (next_runReq_of_mgtRun h hb rfl).trans rfl,
      fun op addr len arm epoch cut x hb => ?fwu, fun hb => (next_runReq_of_mgtRun h hb rfl).trans rfl,
      fun target tok hb => ?lifecycle, fun nonce hb => ?attest, fun inst off hb => ?poll⟩
    case write => exact (next_runReq_of_mgtRun h hb rfl).trans (congrArg Host.Outcome.next (if_neg (ne_true_of_eq_false hup)))
    case writeReset => exact (next_runReq_of_mgtRun h hb rfl).trans (congrArg Host.Outcome.next (if_pos hdown))
    case fwu =>
      intro v
      have hexec : exec (.mgtFwu cut x) s = .next (if v.pkcHeld then v else v.keepRes pcie r.inst (v.regBytes [0x0030004])) :=
        (next_runReq_of_mgtRun h hb rfl).trans rfl
      rw [hexec]
      exact ⟨fun hup => congrArg _ (if_neg (ne_true_of_eq_false hup)), fun hdown => congrArg _ (if_pos hdown)⟩
    case lifecycle =>
      intro k v
      rw [exec_mgtLifecycle_of_run h hb]
      refine ⟨fun hok => ?_, fun hno => ?_⟩
      · dsimp only
        rw [if_pos hok]
      · have hnot : ¬(s.anyCas = false ∧ s.lcAllowed .mgt target k = true) := fun ⟨hfree, hallowed⟩ =>
          hno.elim (fun hcas => Bool.false_ne_true (hfree.symm.trans hcas)) fun hrefused => Bool.false_ne_true (hrefused.symm.trans hallowed)
        dsimp only
        rw [if_neg hnot]
    case attest =>
      rw [exec_mgtAttest_of_run h hb]
      refine ⟨fun hbusy => congrArg _ (if_pos hbusy), fun hidle hlen hbytes => ?_⟩
      rw [hidle]
      have hnonce := u.fwuNonce_setNonce hlen hbytes
      refine ⟨(u.setNonce nonce).attested pcie r, rfl, ?_, ?_, _, State.mem_results_attested _ pcie r, rfl, rfl, rfl, ?_⟩
      · obtain ⟨l, hl⟩ := u.setNonce_eq_regs nonce
        rw [State.rseq_attested, hl]
        rfl
      · refine (State.fwuNonce_congr fun n hn => State.reg_attested_ne _ pcie r ?_).trans hnonce
        unfold rMreq
        omega
      · rw [hnonce, State.report_setNonce]
    case poll =>
      have hexec : exec .mgtPoll s = .next (u.poll pcie r inst off) := (next_runReq_of_mgtRun h hb rfl).trans rfl
      rw [hexec]
      refine ⟨fun hnone => ?_, fun x hsome => ?_⟩
      · rw [State.poll, show u.mgt.results.find? _ = none from hnone]
        rfl
      · rw [State.poll, show u.mgt.results.find? _ = some x from hsome]
        refine ⟨_, rfl, ?_, State.answer_queue _ _ _ _ _⟩
        rw [State.answer_out, hb]
        rfl
  case denied =>
    exact ⟨fun hb => next_runReq_of_denied hqueue hrun hsafe hb rfl rfl, fun _ _ hb => next_runReq_of_denied hqueue hrun hsafe hb rfl rfl,
      fun _ _ hb => next_runReq_of_denied hqueue hrun hsafe hb rfl rfl, fun hb => next_runReq_of_denied hqueue hrun hsafe hb rfl rfl,
      fun _ _ _ _ _ _ hb => next_runReq_of_denied hqueue hrun hsafe hb rfl rfl,
      fun hb => next_runReq_of_denied hqueue hrun hsafe hb rfl rfl, fun _ _ hb => next_runReq_of_denied hqueue hrun hsafe hb rfl rfl,
      fun _ hb => next_runReq_of_denied hqueue hrun hsafe hb rfl rfl⟩

end Sys2Proof.Machine
end

section
/-! SUPPORT. Writes of 32-bit values to registers without hardened bits, and the fields that they set (R8). -/

namespace Sys2Proof.Machine

/-- R8: a 32-bit value written to a register without hardened bits. -/
theorem State.wr32_of_writes_word {s : State} {rq : Req} {off : Nat} (v : BitVec 32) (u : During) (hw : s.writes rq off = true) :
    s.wr32 rq off v.toNat u = (s.placed rq off).wrAt rq off v.toNat (s.arbN (arbReg off)) u := by
  rw [State.wr32_of_writes v.toNat u hw, Nat.mod_eq_of_lt v.isLt]

/-- The field's bits are all of type RW. -/
def rwField (off hi lo : Nat) : Bool :=
  match rowAt off with
  | none => false
  | some r => (List.range (hi + 1 - lo)).all fun i => bit (r.mask (fun t => t == .rw || (t == .hrw && false))) (lo + i) &&
      !bit (r.mask (fun t => t == .rw1s)) (lo + i) && !bit (r.mask (fun t => t == .rw1c)) (lo + i)

theorem bit_of_rwField {off hi lo i : Nat} (h : rwField off hi lo = true) (hi' : i < hi + 1 - lo) :
    bit (typeMask off (fun t => t == .rw || (t == .hrw && false))) (lo + i) = true ∧
      bit (typeMask off (fun t => t == .rw1s)) (lo + i) = false ∧ bit (typeMask off (fun t => t == .rw1c)) (lo + i) = false := by
  cases hr : rowAt off with
  | none =>
    rw [rwField, hr] at h
    exact absurd h Bool.false_ne_true
  | some r =>
    rw [rwField, hr] at h
    have hbits := List.all_eq_true.mp h i (List.mem_range.mpr hi')
    simp only [Bool.and_eq_true, Bool.not_eq_true', and_assoc] at hbits
    simpa only [typeMask_of_row hr] using hbits

/-- R8: a field of RW bits takes the value's. -/
theorem State.rf_wrGen_of_rwField (s : State) {k hi lo : Nat} (v : Nat) (hhi : hi < 32) (h : rwField (k % 2 ^ 26) hi lo = true) :
    (s.wrGen k v false).rf k hi lo = fld v hi lo := by
  refine Nat.eq_of_testBit_eq fun i => ?_
  rw [State.rf, rfld, testBit_fld, testBit_fld]
  by_cases hi' : i < hi + 1 - lo
  · obtain ⟨hrw, h1s, h1c⟩ := bit_of_rwField h hi'
    rw [BitVec.testBit_toNat, s.getLsbD_wrGen_self k v false (by omega), hrw, h1s, h1c]
    simp
  · rw [decide_eq_false hi', Bool.false_and, Bool.false_and]

end Sys2Proof.Machine
end

section
/-! PROOFS. R375: the unlock window opens, is used up and closes. -/

namespace Sys2Proof.Machine

theorem State.bank_setBank_self (s : State) (b : Nat) (x : Unlock) : (s.setBank b x).bank b = x := Assoc.get_put_self _ _ _ _

/-- A write that takes its turn closes a window at most. -/
theorem State.shut_bank_placed {rq : Req} {b : Nat} (hb : rqBank rq = some b) (s : State) (off : Nat) :
    ((s.placed rq off).bank b).shut = (s.bank b).shut := by
  unfold State.placed State.windowAt
  rw [hb]
  dsimp only
  split
  · rw [State.bank_setBank_self]; rfl
  · rfl

theorem State.placed_regs (s : State) (rq : Req) (off : Nat) : (s.placed rq off).regs = s.regs := by
  obtain ⟨l, h⟩ := s.placed_eq_grant rq off
  rw [h]; rfl

theorem State.placed_arb (s : State) (rq : Req) (off : Nat) : (s.placed rq off).arb = (s.grant (arbReg off)).arb := by
  obtain ⟨l, h⟩ := s.placed_eq_grant rq off
  rw [h]

/-- R375: the registers of the unlock window follow their own rule. -/
theorem State.wrAt_hunlk (s : State) (rq : Req) {off : Nat} (v n : Nat) (u : During) (h : within off 0x0060010 0x0C = true) :
    s.wrAt rq off v n u = s.hunlk rq off v n := by
  obtain ⟨hlo, hhi⟩ := within_eq_true.mp h
  simp (disch := omega) only [State.wrAt, isRstBit, within_eq_false, h, if_neg, Bool.false_and, Bool.false_eq_true, if_false, if_true]

section Window
variable {rq : Req} {b : Nat} (hb : rqBank rq = some b) (s : State)
include hb

theorem State.hunlk_adr (v n : Nat) : s.hunlk rq 0x0060010 v n = s.setBank b { (s.bank b).shut with adr := fld v 24 2 * 4 } := by
  unfold State.hunlk
  rw [hb]
  rfl

theorem State.hunlk_len (v n : Nat) : s.hunlk rq 0x0060014 v n = s.setBank b { (s.bank b).shut with len := fld v 17 0 } := by
  unfold State.hunlk
  rw [hb]
  rfl

theorem State.hunlk_key (v n : Nat) : s.hunlk rq 0x0060018 v n =
    if v = 0x6A5C93F1 then
      s.setBank b { (s.bank b).shut with open_ := true, base := (s.bank b).shut.adr, span := max 1 (s.bank b).shut.len,
                                         left := max 1 (s.bank b).shut.len }
    else if v = 0 then s.setBank b (s.bank b).shut
    else (s.setBank b (s.bank b).shut).accEv rq 0x0060018 n := by
  unfold State.hunlk
  rw [hb]
  rfl

/-- R375: an accepted write counts. -/
theorem State.bank_windowUse : (s.windowUse rq).bank b =
    if (s.bank b).left ≤ 1 then (s.bank b).shut else { s.bank b with left := (s.bank b).left - 1 } := by
  unfold State.windowUse
  rw [hb]
  exact s.bank_setBank_self b _

/-- R375: a write outside the window closes it. -/
theorem State.bank_windowAt_of_outside {off : Nat} (hopen : (s.bank b).open_ = true)
    (hout : ¬((s.bank b).base ≤ off ∧ off < (s.bank b).base + 4 * (s.bank b).span)) :
    (s.windowAt rq off).bank b = (s.bank b).shut := by
  have hlocked : s.unlocked rq off = false := by
    unfold State.unlocked
    rw [hb]
    dsimp only
    rw [hopen, Bool.true_and]
    exact decide_eq_false hout
  unfold State.windowAt
  rw [hb]
  dsimp only
  rw [hopen, hlocked]
  exact s.bank_setBank_self b _

end Window

theorem exec_hunlkAdrWrite (rq : Req) (v : BitVec 32) (s : State) :
    exec (.hunlkAdrWrite rq v) s = .next (s.wr32 rq 0x0060010 v.toNat .none) := rfl

theorem exec_hunlkLenWrite (rq : Req) (v : BitVec 32) (s : State) :
    exec (.hunlkLenWrite rq v) s = .next (s.wr32 rq 0x0060014 v.toNat .none) := rfl

theorem exec_hunlkKeyWrite (rq : Req) (v : BitVec 32) (s : State) :
    exec (.hunlkKeyWrite rq v) s = .next (s.wr32 rq 0x0060018 v.toNat .none) := rfl

/-- Settles O36: each register of the window is one equation of State.hunlk; State.windowUse and State.windowAt are the rest. -/
theorem unlockWindow : Obligations.UnlockWindow := by
  unfold Obligations.UnlockWindow
  refine ⟨fun rq b v s hb hw => ?registers, fun rq b s hb => ?window⟩
  case registers =>
    intro u x
    have hadr := hw _ (.inl rfl)
    have hlen := hw _ (.inr (.inl rfl))
    have hkey := hw _ (.inr (.inr rfl))
    have hrun (off : Nat) (hin : within off 0x0060010 0x0C = true) (hwr : s.writes rq off = true) (y : BitVec 32) :
        s.wr32 rq off y.toNat .none = (s.placed rq off).hunlk rq off y.toNat (s.arbN (arbReg off)) :=
      (State.wr32_of_writes_word y .none hwr).trans (State.wrAt_hunlk _ _ _ _ _ hin)
    have hshut (off : Nat) : ((s.placed rq off).bank b).shut = x.shut := s.shut_bank_placed hb off
    rw [exec_hunlkAdrWrite, exec_hunlkLenWrite, hrun _ (by decide) hadr, hrun _ (by decide) hlen, State.hunlk_adr hb, State.hunlk_len hb,
      hshut, hshut]
    simp only [exec_hunlkKeyWrite, hrun _ (show within 0x0060018 0x0060010 0x0C = true by decide) hkey, State.hunlk_key hb, hshut]
    refine ⟨⟨_, rfl, ?_, s.placed_regs rq _⟩, ⟨_, rfl, ?_, s.placed_regs rq _⟩, ⟨_, rfl, State.bank_setBank_self _ _ _, s.placed_regs rq _⟩,
      ⟨_, rfl, State.bank_setBank_self _ _ _, s.placed_regs rq _⟩, fun hne hne0 => ⟨(s.placed rq 0x0060018).setBank b x.shut, s.placed_regs rq _,
        State.bank_setBank_self _ _ _, s.placed_arb rq _, ?_⟩⟩
    · rw [State.bank_setBank_self, fld_eq_div_mod, Nat.mul_comm]; rfl
    · rw [State.bank_setBank_self, fld_low]; rfl
    · have hkey' : ¬v.toNat = 0x6A5C93F1 := fun h => hne (BitVec.eq_of_toNat_eq h)
      have hzero : ¬v.toNat = 0 := fun h => hne0 (BitVec.eq_of_toNat_eq h)
      rw [if_neg hkey', if_neg hzero]
  case window =>
    rw [State.bank_windowUse hb]
    refine ⟨fun hlast => if_pos hlast, fun hmore => if_neg (Nat.not_le.mpr hmore), fun off hopen hout => ?_⟩
    rw [State.bank_windowAt_of_outside hb s hopen hout]
    rfl

end Sys2Proof.Machine
end

section
/-! PROOFS. R388 to R392: the check-value units feed, combine and empty. -/

namespace Sys2Proof.Machine

/-- R392: a write into the units' registers follows their rule. -/
theorem State.wrAt_cvu (s : State) (rq : Req) {u o : Nat} (hu : u < 8) (ho : o < 0x40) (v n : Nat) (m : During) :
    s.wrAt rq (rCvu u o) v n m = s.cvuWr (rCvu u o) v := by
  have hin : within (rCvu u o) 0x0061000 0x200 = true := within_eq_true.mpr (by unfold rCvu; omega)
  obtain ⟨hlo, hhi⟩ := within_eq_true.mp hin
  simp (disch := omega) only [State.wrAt, isRstBit, within_eq_false, hin, if_neg, Bool.false_and, Bool.false_eq_true, if_false, if_true]

section Unit
variable (s : State) {u : Nat}

theorem rCvu_index (u : Nat) {o : Nat} (ho : o < 0x40) : (rCvu u o - 0x0061000) / 0x40 = u := by unfold rCvu; omega

theorem rCvu_offset (u : Nat) {o : Nat} (ho : o < 0x40) : rCvu u o % 0x40 = o := by unfold rCvu; omega

theorem State.cvuWr_ctl (u v : Nat) : s.cvuWr (rCvu u 0) v = (s.wrGen (rCvu u 0) v false).cvuEmpty u := by
  simp only [State.cvuWr, rCvu_index u (show 0 < 0x40 by decide), rCvu_offset u (show 0 < 0x40 by decide)]

theorem State.cvuWr_feed8 (u v : Nat) : s.cvuWr (rCvu u 0x0C) v = s.cvuFeed u 1 v := by
  simp only [State.cvuWr, rCvu_index u (show 0x0C < 0x40 by decide), rCvu_offset u (show 0x0C < 0x40 by decide)]

theorem State.cvuWr_feed16 (u v : Nat) : s.cvuWr (rCvu u 0x10) v = s.cvuFeed u 2 v := by
  simp only [State.cvuWr, rCvu_index u (show 0x10 < 0x40 by decide), rCvu_offset u (show 0x10 < 0x40 by decide)]

theorem State.cvuWr_feed32 (u v : Nat) : s.cvuWr (rCvu u 0x14) v = s.cvuFeed u 4 v := by
  simp only [State.cvuWr, rCvu_index u (show 0x14 < 0x40 by decide), rCvu_offset u (show 0x14 < 0x40 by decide)]

theorem State.cvuWr_combine (u : Nat) : s.cvuWr (rCvu u 0x28) 1 = s.cvuCombine u := by
  simp only [State.cvuWr, rCvu_index u (show 0x28 < 0x40 by decide), rCvu_offset u (show 0x28 < 0x40 by decide)]
  rfl

theorem State.cvuWr_empty (u : Nat) : s.cvuWr (rCvu u 0x28) 2 = s.cvuEmpty u := by
  simp only [State.cvuWr, rCvu_index u (show 0x28 < 0x40 by decide), rCvu_offset u (show 0x28 < 0x40 by decide)]
  rfl

end Unit

@[simp] theorem State.cvuPoly_placed (s : State) (rq : Req) (off u : Nat) : (s.placed rq off).cvuPoly u = s.cvuPoly u :=
  congrArg crcPoly (s.placed_rf rq off _ _ _)

@[simp] theorem State.cvuVal_placed (s : State) (rq : Req) (off u : Nat) : (s.placed rq off).cvuVal u = s.cvuVal u := by
  rw [State.cvuVal, State.placed_reg, State.placed_reg]
  rfl

/-- R388: the polynomial that a write of CTL chooses. -/
theorem State.cvuPoly_wrGen (s : State) (u : Fin 8) (v : Nat) : (s.wrGen (rCvu u 0) v false).cvuPoly u = crcPoly (fld v 1 0) :=
  congrArg crcPoly (s.rf_wrGen_of_rwField v (by decide)
    ((by decide +kernel : ∀ u : Fin 8, rwField (rCvu u 0 % 2 ^ 26) 1 0 = true) u))

/-- Settles O37: each register of a unit is one equation of State.cvuWr. -/
theorem checkUnits : Obligations.CheckUnits := by
  unfold Obligations.CheckUnits
  intro rq n v s hw u p a
  have hrun (o : Nat) (ho : o < 0x40) (h : s.writes rq (rCvu n o) = true) (y : BitVec 32) :
      s.wr32 rq (rCvu n o) y.toNat .none = (u o).cvuWr (rCvu n o) y.toNat :=
    (State.wr32_of_writes_word y .none h).trans (State.wrAt_cvu _ _ n.isLt ho _ _ _)
  simp only [List.forall_mem_cons] at hw
  obtain ⟨hctl, hfeed8, hfeed16, hfeed32, hcmd, -⟩ := hw
  have hctlPoly : ((u 0).wrGen (rCvu n 0) v.toNat false).cvuEmpty n =
      ((u 0).wrGen (rCvu n 0) v.toNat false).setCvu n (crcEmpty (crcPoly (rfld v 1 0))) := by
    rw [State.cvuEmpty, State.cvuPoly_wrGen]
    rfl
  have hfeed (o k : Nat) : (u o).cvuFeed n k v.toNat = (u o).setCvu n (crcFeeds p a (leBytes k v.toNat)) := by
    rw [State.cvuFeed, State.cvuPoly_placed, State.cvuVal_placed]
  refine ⟨congrArg Host.Outcome.next ?ctl, congrArg Host.Outcome.next ?feed8, congrArg Host.Outcome.next ?feed16,
    congrArg Host.Outcome.next ?feed32, congrArg Host.Outcome.next ?combine, congrArg Host.Outcome.next ?empty⟩
  case ctl => exact (hrun 0 (by decide) hctl v).trans ((State.cvuWr_ctl _ _ _).trans hctlPoly)
  case feed8 => exact (hrun _ (by decide) hfeed8 v).trans ((State.cvuWr_feed8 _ _ _).trans (hfeed _ _))
  case feed16 => exact (hrun _ (by decide) hfeed16 v).trans ((State.cvuWr_feed16 _ _ _).trans (hfeed _ _))
  case feed32 => exact (hrun _ (by decide) hfeed32 v).trans ((State.cvuWr_feed32 _ _ _).trans (hfeed _ _))
  case combine =>
    refine (hrun _ (by decide) hcmd 1#32).trans ((State.cvuWr_combine _ _).trans ?_)
    simp only [State.cvuCombine, State.placed_reg, State.cvuPoly_placed, State.cvuVal_placed, u, p, a]
  case empty =>
    refine (hrun _ (by decide) hcmd 2#32).trans ((State.cvuWr_empty _ _).trans ?_)
    rw [State.cvuEmpty, State.cvuPoly_placed]

end Sys2Proof.Machine
end

section
/-! PROOFS. R418, R419: the head and the control register of a ring. -/

namespace Sys2Proof.Machine

section Ring
variable (s : State) (f : Fin 16) (evt : Bool)

theorem ringOf_ringWin {o : Nat} (ho : o < 0x100) : ringOf (ringWin f evt + o) = (f.val, evt) := by
  have hf := f.isLt
  cases evt with
  | false =>
    show ((0x40000 + 0x100 * f.val + o) % 0x10000 / 0x100, decide (0x0050000 ≤ 0x40000 + 0x100 * f.val + o)) = _
    rw [decide_eq_false (by omega), show (0x40000 + 0x100 * f.val + o) % 0x10000 / 0x100 = f.val by omega]
  | true =>
    show ((0x50000 + 0x100 * f.val + o) % 0x10000 / 0x100, decide (0x0050000 ≤ 0x50000 + 0x100 * f.val + o)) = _
    rw [decide_eq_true (by omega), show (0x50000 + 0x100 * f.val + o) % 0x10000 / 0x100 = f.val by omega]

theorem ringWin_range : 0x40000 ≤ ringWin f evt ∧ ringWin f evt < 0x51000 ∧ ringWin f evt % 0x10000 < 0x1000 ∧
    ringWin f evt % 0x100 = 0 := by
  have hf := f.isLt
  have hwin : ringWin f evt = 0x40000 + 0x100 * f ∨ ringWin f evt = 0x50000 + 0x100 * f := by
    cases evt <;> simp [ringWin]
  omega

/-- R418, R419: the offsets of the head and the control register go to the rings' rules. -/
theorem State.wrAt_ringHead (rq : Req) (v n : Nat) (m : During) :
    s.wrAt rq (ringWin f evt + 0x1C) v n m = s.ringHeadWr (ringWin f evt + 0x1C) v := by
  obtain ⟨hlo, hhi, hblock, hwin⟩ := ringWin_range f evt
  have hin : (within (ringWin f evt + 0x1C) 0x0040000 0x20000 && decide ((ringWin f evt + 0x1C) % 0x10000 < 0x1000)) = true := by
    rw [within_eq_true.mpr (by omega), decide_eq_true (by omega)]
    rfl
  have hoff : (ringWin f evt + 0x1C) % 0x100 = 0x1C := by omega
  simp (disch := omega) only [State.wrAt, isRstBit, within_eq_false, hin, hoff, if_neg, Bool.false_eq_true, if_false, if_true]

theorem State.wrAt_ringCtl (rq : Req) (v n : Nat) (m : During) :
    s.wrAt rq (ringWin f evt + 0x18) v n m = s.ringCtlWr rq (ringWin f evt + 0x18) v n := by
  obtain ⟨hlo, hhi, hblock, hwin⟩ := ringWin_range f evt
  have hin : (within (ringWin f evt + 0x18) 0x0040000 0x20000 && decide ((ringWin f evt + 0x18) % 0x10000 < 0x1000)) = true := by
    rw [within_eq_true.mpr (by omega), decide_eq_true (by omega)]
    rfl
  have hoff : (ringWin f evt + 0x18) % 0x100 = 0x18 := by omega
  simp (disch := omega) only [State.wrAt, isRstBit, within_eq_false, hin, hoff, if_neg, Bool.false_eq_true, if_false, if_true]

theorem State.ringEn_placed (rq : Req) (off : Nat) : (s.placed rq off).ringEn f evt = s.ringEn f evt := by
  rw [State.ringEn, State.placed_rf]
  rfl

/-- R418: a record that waits is signalled to an armed ring. -/
theorem State.ringSignal_of_waiting (ha : s.ringArmed f evt = true) (hne : s.ringHead f evt ≠ s.ringTail f evt) :
    s.ringSignal f evt = (s.setRf (ringWin f evt + 0x1C) 16 16 0).sendVec f (s.ringVec f evt) := by
  have hgo : (s.ringArmed f evt && s.ringHead f evt != s.ringTail f evt) = true := by rw [ha, bne_iff_ne.mpr hne]; rfl
  exact if_pos hgo

theorem State.ringSignal_of_quiet (h : s.ringArmed f evt = false ∨ s.ringHead f evt = s.ringTail f evt) : s.ringSignal f evt = s := by
  have hno : ¬(s.ringArmed f evt && s.ringHead f evt != s.ringTail f evt) = true := by
    rcases h with h | h <;> simp [h]
  exact if_neg hno

/-- R419: the registers of a ring that its enabling write clears, with PHASE. -/
def State.ringCleared (s : State) (f : Nat) (evt : Bool) : State :=
  ((s.setReg (ringWin f evt + 0x1C) (BitVec.ofNat 32 (mergeBits (s.reg (ringWin f evt + 0x1C)).toNat 0 0xFFFF))).setReg
    (ringWin f evt + 0x20) 0).setRingPhase f evt true

theorem State.ringCtlWr_of_off (rq : Req) {v n : Nat} (hoff : s.ringEn f evt = false) (hen : bit v 4 = true) :
    s.ringCtlWr rq (ringWin f evt + 0x18) v n = (s.wrGen (ringWin f evt + 0x18) v false).ringCleared f evt := by
  simp only [State.ringCtlWr, ringOf_ringWin f evt (show 0x18 < 0x100 by decide), hoff, hen, Bool.false_eq_true, if_false, if_true]
  rfl

theorem State.ringCtlWr_of_resize (rq : Req) {v n : Nat} (hon : s.ringEn f evt = true)
    (hne : min 10 (fld v 3 0) ≠ min 10 (s.rf (ringWin f evt + 0x18) 3 0)) : s.ringCtlWr rq (ringWin f evt + 0x18) v n =
      ((s.setRf (ringWin f evt + 0x18) 4 4 (fld v 4 4)).setRf (ringWin f evt + 0x18) 14 8 (fld v 14 8)).accEv rq
        (ringWin f evt + 0x18) n := by
  simp only [State.ringCtlWr, ringOf_ringWin f evt (show 0x18 < 0x100 by decide), hon, bne_iff_ne.mpr hne, if_true]

theorem State.reg_setRingPhase (b : Bool) (k : Nat) : (s.setRingPhase f evt b).reg k = s.reg k := rfl

theorem State.ringPhase_setRingPhase (b : Bool) : (s.setRingPhase f evt b).ringPhase f evt = b := by
  unfold State.ringPhase State.setRingPhase
  rw [State.fn_setFn_self]
  cases evt <;> rfl

theorem State.rf_ringCleared_ctl (hi lo : Nat) : (s.ringCleared f evt).rf (ringWin f evt + 0x18) hi lo = s.rf (ringWin f evt + 0x18) hi lo := by
  rw [State.ringCleared, State.rf, State.reg_setRingPhase, State.reg_setReg_ne _ _ (by omega), State.reg_setReg_ne _ _ (by omega), State.rf]

theorem State.ringHead_ringCleared : (s.ringCleared f evt).ringHead f evt = 0 := by
  rw [State.ringCleared, State.ringHead, State.rf, State.reg_setRingPhase, State.reg_setReg_ne _ _ (by omega), State.reg_setReg_self]
  refine Nat.eq_of_testBit_eq fun i => ?_
  rw [rfld, testBit_fld, BitVec.testBit_toNat, BitVec.getLsbD_ofNat, testBit_mergeBits, Nat.zero_testBit]
  by_cases hi : i < 16
  · have hmask : Nat.testBit 0xFFFF (0 + i) = true := by
      rw [show 0xFFFF = 2 ^ 16 - 1 by decide, Nat.testBit_two_pow_sub_one]
      exact decide_eq_true (by omega)
    rw [hmask, if_pos rfl, Nat.zero_testBit, Bool.and_false, Bool.and_false]
  · rw [decide_eq_false (by omega), Bool.false_and, Nat.zero_testBit]

theorem State.ringTail_ringCleared : (s.ringCleared f evt).ringTail f evt = 0 := by
  rw [State.ringCleared, State.ringTail, State.rf, State.reg_setRingPhase, State.reg_setReg_self]
  rfl

end Ring

/-- The size and the enable bit of a ring's control register are RW. -/
theorem rwField_ringCtl (f : Fin 16) (evt : Bool) : rwField ((ringWin f evt + 0x18) % 2 ^ 26) 3 0 = true ∧
    rwField ((ringWin f evt + 0x18) % 2 ^ 26) 4 4 = true :=
  (by decide +kernel : ∀ (f : Fin 16) (evt : Bool), rwField ((ringWin f evt + 0x18) % 2 ^ 26) 3 0 = true ∧
    rwField ((ringWin f evt + 0x18) % 2 ^ 26) 4 4 = true) f evt

/-- Settles O38: the head's write signals, the control's write clears or keeps the size. -/
theorem ringRegisters : Obligations.RingRegisters := by
  unfold Obligations.RingRegisters
  refine fun rq f evt v s => ⟨fun hw => ?head, fun hw => ⟨fun hoff hen => ?enable, fun hon hne => ?resize⟩⟩
  case head =>
    intro u
    have hexec : exec (.ringHeadWrite rq f evt v) s = .next (u.ringSignal f evt) := by
      show Host.Outcome.next _ = _
      rw [State.wr32_of_writes_word v .none hw, State.wrAt_ringHead, State.ringHeadWr, ringOf_ringWin f evt (by decide)]
    rw [hexec]
    exact ⟨fun ha hne => congrArg _ (u.ringSignal_of_waiting f evt ha hne), fun h => congrArg _ (u.ringSignal_of_quiet f evt h)⟩
  case enable =>
    have hbit : bit v.toNat 4 = true := (bit_toNat v 4).trans hen
    obtain ⟨hsize, hena⟩ := rwField_ringCtl f evt
    refine ⟨((s.placed rq (ringWin f evt + 0x18)).wrGen (ringWin f evt + 0x18) v.toNat false).ringCleared f evt, ?_,
      State.ringHead_ringCleared _ _ _, State.ringTail_ringCleared _ _ _, State.ringPhase_setRingPhase _ _ _ _, ?_, ?_⟩
    · show Host.Outcome.next _ = _
      rw [State.wr32_of_writes_word v .none hw, State.wrAt_ringCtl,
        State.ringCtlWr_of_off _ _ _ _ ((s.ringEn_placed f evt rq _).trans hoff) hbit]
    · rw [State.ringEn, State.rf_ringCleared_ctl, State.rf_wrGen_of_rwField _ _ (by decide) hena]
      exact hbit
    · rw [State.ringSize, State.rf_ringCleared_ctl, State.rf_wrGen_of_rwField _ _ (by decide) hsize]
      rfl
  case resize =>
    show Host.Outcome.next _ = _
    rw [State.wr32_of_writes_word v .none hw, State.wrAt_ringCtl, State.ringCtlWr_of_resize _ _ _ _ ((s.ringEn_placed f evt rq _).trans hon)
      (by rw [State.placed_rf]; exact hne)]
    rfl

end Sys2Proof.Machine
end

section
/-! PROOFS. R424, R431, R448, R449: the watchdog's feed, and the reset bits of blocks. -/

namespace Sys2Proof.Machine

/-- R449: the watchdog's feed. -/
theorem State.wrAt_wdtFeed (s : State) (rq : Req) (v n : Nat) (m : During) :
    s.wrAt rq 0x0010024 v n m = if rq = .pkc ∧ v ≠ 0x5A5A then s.wideReset m.sh 5 else s := if_pos rfl

/-- R431: the reset bits of blocks follow their own rule. -/
theorem State.wrAt_rstBit (s : State) (rq : Req) {off : Nat} (v n : Nat) (m : During) (h : isRstBit off = true) :
    s.wrAt rq off v n m = s.rstWr off v := by
  obtain ⟨hlo, -⟩ := within_eq_true.mp h
  have hfeed : off ≠ 0x0010024 := by omega
  exact (if_neg hfeed).trans (if_pos h)

@[simp] theorem State.placed_blkHeld (s : State) (rq : Req) (off c : Nat) : (s.placed rq off).blkHeld c = s.blkHeld c := by
  obtain ⟨l, h⟩ := s.placed_eq_grant rq off
  rw [h]; rfl

theorem State.blkHeld_iff (s : State) (off : Nat) : s.blkHeld (if off = 0x0010160 then 5 else 0) = true ↔
    s.held = true ∨ (s.isSafe = true ∧ off ≠ 0x0010160) := by
  rw [State.blkHeld, Bool.or_eq_true, Bool.and_eq_true, bne_iff_ne]
  split <;> simp [*]

section RstBit
variable {s : State} {off v : Nat}

theorem State.rstWr_of_same (h : (s.wrGen off v false).reg off = s.reg off) : s.rstWr off v = s := if_pos h

theorem State.rstWr_of_held (h : (s.wrGen off v false).reg off ≠ s.reg off)
    (hheld : s.blkHeld (if off = 0x0010160 then 5 else 0) = true) : s.rstWr off v = s.seen 8 := (if_neg h).trans (if_pos hheld)

theorem State.rstWr_of_new (h : (s.wrGen off v false).reg off ≠ s.reg off)
    (hout : ¬s.blkHeld (if off = 0x0010160 then 5 else 0) = true) :
    s.rstWr off v = ((s.wrGen off v false).cause 8).sealReset 8 := (if_neg h).trans (if_neg hout)

end RstBit

theorem exec_wdtFeed_of_writes {rq : Req} {s : State} (v : BitVec 32) (hw : s.writes rq 0x0010024 = true) : exec (.wdtFeed rq v) s =
    .next (if rq = .pkc ∧ v.toNat ≠ 0x5A5A then (s.placed rq 0x0010024).wideReset .none 5 else s.placed rq 0x0010024) := by
  show Host.Outcome.next _ = _
  rw [State.wr32_of_writes_word v .none hw, State.wrAt_wdtFeed]
  rfl

theorem exec_blockResetWrite_of_writes {rq : Req} {off : Nat} {s : State} (v : BitVec 32) (hrst : isRstBit off = true) (ho : off % 4 = 0)
    (hw : s.writes rq off = true) : exec (.blockResetWrite rq off v) s = .next ((s.placed rq off).rstWr off v.toNat) := by
  show Host.Outcome.next _ = _
  rw [if_pos ⟨hrst, ho⟩, State.wr32_of_writes_word v .none hw, State.wrAt_rstBit _ _ _ _ _ hrst]

/-- Settles O39: the feed by its value and its requester, a reset bit by the cases of State.rstWr. -/
theorem resetRegisters : Obligations.ResetRegisters := by
  unfold Obligations.ResetRegisters
  refine ⟨fun v s hw => ?feed, fun rq v s hrq hw => ?other, fun rq off v s hrst ho hw => ?bits⟩
  case feed =>
    intro u
    rw [exec_wdtFeed_of_writes v hw]
    refine ⟨fun hv => ?_, fun hv => congrArg _ (if_pos ⟨rfl, fun h => hv (BitVec.eq_of_toNat_eq h)⟩)⟩
    subst hv
    rfl
  case other => rw [exec_wdtFeed_of_writes v hw, if_neg fun h => hrq h.1]
  case bits =>
    intro u kept
    rw [exec_blockResetWrite_of_writes v hrst ho hw]
    have hreg : (s.placed rq off).reg off = s.reg off := s.placed_reg rq off off
    have hkept : (s.placed rq off).blkHeld (if off = 0x0010160 then 5 else 0) = true ↔ kept := by
      rw [State.placed_blkHeld]; exact s.blkHeld_iff off
    exact ⟨fun hne hout => congrArg _ (State.rstWr_of_new (hreg.symm ▸ hne) (mt hkept.mp hout)),
      fun hne hheld => congrArg _ (State.rstWr_of_held (hreg.symm ▸ hne) (hkept.mpr hheld)),
      fun hsame => congrArg _ (State.rstWr_of_same (hsame.trans hreg.symm))⟩

end Sys2Proof.Machine
end

section
/-! PROOFS. R432, R443, R463: the start of a seal test, and the transitions of the life cycle. -/

namespace Sys2Proof.Machine

/-- R443, R463: the registers that start a seal test and a transition. -/
theorem State.wrAt_sealStart (s : State) (rq : Req) (v n : Nat) (m : During) :
    s.wrAt rq 0x0020800 v n m = if bit v 0 then s.sealRequest else s := by
  simp (disch := omega) only [State.wrAt, isRstBit, within_eq_false, if_neg, Bool.false_eq_true, if_false, if_true]

theorem State.wrAt_lcCmd (s : State) (rq : Req) (v n : Nat) (m : During) :
    s.wrAt rq 0x0020004 v n m = if bit v 3 then s.lcRequest rq (fld v 2 0) s.hostToken n else s := by
  simp (disch := omega) only [State.wrAt, isRstBit, within_eq_false, if_neg, Bool.false_eq_true, if_false, if_true]

theorem exec_sealTest_of_writes {rq : Req} {s : State} (hw : s.writes rq 0x0020800 = true) :
    exec (.sealTest rq) s = .next (s.placed rq 0x0020800).sealRequest := by
  show Host.Outcome.next _ = _
  rw [State.wr32_of_writes _ _ hw, State.wrAt_sealStart]
  rfl

theorem exec_lcTransition_of_writes {rq : Req} {target : Nat} {s : State} (ht : target < 8) (hw : s.writes rq 0x0020004 = true) :
    exec (.lcTransition rq target) s = .next ((s.placed rq 0x0020004).lcRequest rq target (s.placed rq 0x0020004).hostToken
      (s.arbN (arbReg 0x0020004))) := by
  have hv : (target % 8 + 8) % 2 ^ 32 = target + 8 := by omega
  have hgo : bit (target + 8) 3 = true := by
    rw [bit, fld_eq_div_mod, show (target + 8) / 2 ^ 3 % 2 ^ (3 + 1 - 3) = 1 by omega]; rfl
  have htarget : fld (target + 8) 2 0 = target := by rw [fld_low]; omega
  show Host.Outcome.next _ = _
  rw [State.wr32_of_writes _ _ hw, State.wrAt_lcCmd, hv, hgo, htarget]
  rfl

/-! ### START of a seal test (R443) -/

/-- The package takes a START. -/
def State.sealReady (s : State) : Prop :=
  s.held = false ∧ s.isSafe = false ∧ s.rf 0x0020808 3 0 = 9 ∧ s.sealState ≠ 1 ∧ s.sealState ≠ 2 ∧ s.sealState ≠ 5

/-- A START refused for its reason. -/
def State.sealRefused (s : State) (r : Nat) : State :=
  ((s.setRf 0x0020804 2 0 3).setRf 0x0020804 11 8 r).post { kind := 9, info := r }

/-- R443: READY_L goes high, the test is running, and no function's intake is ready. -/
def State.sealShown (s : State) : State :=
  (List.range 16).foldl (fun s f => s.setRf (0x0040000 + 0x100 * f) 0 0 0) ((s.holdRails.setReg 0x0020804 1).setRf 0x1000014 5 5 0)

/-- R441, R443: the test begins: it overwrites every Pane, slice and stack. -/
def State.sealBegun (s : State) : State :=
  { s.sealShown with sealing := ⟨sealTests, 640, [], false⟩, pane := Mem.empty, scratch := Mem.empty, hbm := Mem.empty
                     clines := [], cdirty := [], cdata := Mem.empty }

section Start
variable {s : State}

theorem State.sealReady_iff : s.sealReady ↔
    (s.held || s.isSafe || s.rf 0x0020808 3 0 != 9 || [1, 2, 5].contains s.sealState) = false := by
  simp [State.sealReady, and_assoc]

theorem State.sealRequest_of_ready (h : s.sealReady) : s.sealRequest =
    if s.anyCas then s.sealRefused 1 else if s.rf 0x0020000 2 0 = 4 then s.sealRefused 2 else if s.rsvLow then s.sealRefused 3
    else s.sealBegun := by
  unfold State.sealRequest
  rw [State.sealReady_iff.mp h, if_neg Bool.false_ne_true]
  cases hc : s.anyCas
  · by_cases hl : s.rf 0x0020000 2 0 = 4
    · simp only [firstReason, hl, beq_self_eq_true, if_true, Bool.false_eq_true, if_false]; rfl
    · cases hr : s.rsvLow
      · simp only [firstReason, beq_eq_false_iff_ne.mpr hl, hl, Bool.false_eq_true, if_false]; rfl
      · simp only [firstReason, beq_eq_false_iff_ne.mpr hl, hl, Bool.false_eq_true, if_false, if_true]; rfl
  · rfl

theorem State.sealRequest_of_notReady (h : ¬s.sealReady) : s.sealRequest = s := by
  rw [State.sealReady_iff, Bool.not_eq_false] at h
  exact if_pos h

end Start

/-- The pins and the intake words of a test that begins. -/
theorem State.rf_sealShown (s : State) {k : Nat} (hi lo : Nat) (h : ∀ f, f < 16 → k ≠ 0x0040000 + 0x100 * f) :
    s.sealShown.rf k hi lo = ((s.holdRails.setReg 0x0020804 1).setRf 0x1000014 5 5 0).rf k hi lo :=
  foldl_same (f := fun u f => State.setRf u (0x0040000 + 0x100 * f) 0 0 0) (fun u => u.rf k hi lo)
    (fun u f hf => u.rf_setRf_ne _ _ _ _ _ (h f (List.mem_range.mp hf))) _

theorem State.rf_sealShown_itk (s : State) {f : Nat} (hf : f < 16) : s.sealShown.rf (0x0040000 + 0x100 * f) 0 0 = 0 := by
  refine foldl_establishes (f := fun u f => State.setRf u (0x0040000 + 0x100 * f) 0 0 0)
    (P := fun u => u.rf (0x0040000 + 0x100 * f) 0 0 = 0) (List.mem_range.mpr hf)
    (fun u => State.rf_setRf_self _ _ _ (by decide) (by decide)) (fun u g _ hu => ?_) _
  by_cases hg : g = f
  · subst hg; exact State.rf_setRf_self _ _ _ (by decide) (by decide)
  · exact (u.rf_setRf_ne _ _ _ _ _ (by omega)).trans hu

theorem rItk_eq (f : Nat) : rItk f 0 = 0x0040000 + 0x100 * f := by unfold rItk; omega

theorem State.regs_sealBegun (s : State) : s.sealBegun.regs = s.sealShown.regs := by rw [State.sealBegun]

theorem State.rf_sealBegun (s : State) (k hi lo : Nat) : s.sealBegun.rf k hi lo = s.sealShown.rf k hi lo := by
  rw [State.rf, State.reg, State.regs_sealBegun]
  rfl

/-- What a test that begins shows (R443). -/
theorem State.sealBegun_spec (s : State) : s.sealBegun.sealState = 1 ∧ s.sealBegun.rf 0x1000014 5 5 = 0 ∧
    (∀ f, f < 16 → s.sealBegun.rf (rItk f 0) 0 0 = 0) := by
  refine ⟨?_, ?_, fun f hf => by rw [State.rf_sealBegun, rItk_eq, s.rf_sealShown_itk hf]⟩
  · refine ((s.rf_sealBegun _ _ _).trans (s.rf_sealShown 2 0 fun f hf => by omega)).trans ?_
    rw [State.rf_setRf_ne _ _ _ _ _ _ (by decide), State.rf_setReg_self]
    rfl
  · exact ((s.rf_sealBegun _ _ _).trans (s.rf_sealShown 5 5 fun f hf => by omega)).trans (State.rf_setRf_self _ _ _ (by decide) (by decide))

/-! ### Transitions (R463) -/

section Life
variable {s : State} {rq : Req} {target : Nat} {tok : List Nat} (n : Nat)

theorem State.lcRequest_of_refused (h : s.anyCas = true ∨ s.lcAllowed rq target tok = false) :
    s.lcRequest rq target tok n = s.post { kind := 9, arbseq := n, info := target } := by
  have hno : (s.anyCas || !s.lcAllowed rq target tok) = true := by rcases h with h | h <;> simp [h]
  exact if_pos hno

/-- R463: a transition that is pending until the next reset; provisioning takes the identity's seed. -/
theorem State.lcRequest_of_allowed (hfree : s.anyCas = false) (h : s.lcAllowed rq target tok = true) : ∃ x n',
    s.lcRequest rq target tok n = State.setRf { s with fuses := x, free := n' } 0x0020000 5 3 target ∧ x.pend = target ∧
      x.lcs = s.fuses.lcs := by
  have hok : ¬(s.anyCas || !s.lcAllowed rq target tok) = true := by simp [hfree, h]
  have hrun : s.lcRequest rq target tok n = State.setRf (if target = 1 then
      { s with fuses := { s.fuses with pend := 1, seed := s.newSeed }, free := s.free + 32 }
      else { s with fuses := { s.fuses with pend := target } }) 0x0020000 5 3 target := if_neg hok
  rw [hrun]
  by_cases ht : target = 1
  · rw [if_pos ht]; exact ⟨_, _, rfl, ht.symm, rfl⟩
  · rw [if_neg ht]; exact ⟨_, s.free, rfl, rfl, rfl⟩

end Life

/-- Settles O42: START by the cases of State.sealRequest, a transition by those of State.lcRequest. -/
theorem sealAndLife : Obligations.SealAndLife := by
  unfold Obligations.SealAndLife
  refine ⟨fun rq s hw => ?start, fun rq target s ht hw => ?transition⟩
  case start =>
    intro up u no
    obtain ⟨l, hu⟩ := s.placed_eq_grant rq 0x0020800
    have hready : u.sealReady ↔ up := by rw [State.sealReady, show u = _ from hu]; rfl
    have hcas : u.anyCas = s.anyCas := by rw [show u = _ from hu]; rfl
    have hlife : u.rf 0x0020000 2 0 = s.rf 0x0020000 2 0 := s.placed_rf _ _ _ _ _
    have hrsv : u.rsvLow = s.rsvLow := by rw [show u = _ from hu]; rfl
    rw [exec_sealTest_of_writes hw]
    have hgo (h : up) := State.sealRequest_of_ready (hready.mpr h)
    rw [hcas, hlife, hrsv] at hgo
    refine ⟨fun h => congrArg _ (State.sealRequest_of_notReady (mt hready.mp h)), fun h hc => ?_, fun h hc hl => ?_, fun h hc hl hr => ?_,
      fun h hc hl hr => ⟨u.sealBegun, ?_, u.sealBegun_spec.1, u.sealBegun_spec.2.1, u.sealBegun_spec.2.2, rfl, rfl, rfl, rfl⟩⟩
    · rw [hgo h, if_pos hc]; rfl
    · rw [hgo h, hc, if_neg Bool.false_ne_true, if_pos hl]; rfl
    · rw [hgo h, hc, if_neg Bool.false_ne_true, if_neg hl, if_pos hr]; rfl
    · rw [hgo h, hc, if_neg Bool.false_ne_true, if_neg hl, hr, if_neg Bool.false_ne_true]
  case transition =>
    intro u ok
    obtain ⟨l, hu⟩ := s.placed_eq_grant rq 0x0020004
    have htok : u.hostToken = s.hostToken := by rw [show u = _ from hu]; rfl
    have hcas : u.anyCas = s.anyCas := by rw [show u = _ from hu]; rfl
    have hok : u.lcAllowed rq target s.hostToken = ok := by rw [show u = _ from hu]; rfl
    have hexec := exec_lcTransition_of_writes ht hw
    rw [htok] at hexec
    rw [hexec]
    refine ⟨fun h => congrArg _ (State.lcRequest_of_refused _ (by rwa [hcas, hok])), fun hfree hallowed => ?_⟩
    obtain ⟨x, m, hrun, hpend, hlcs⟩ := State.lcRequest_of_allowed (s := u) (tok := s.hostToken) (s.arbN (arbReg 0x0020004))
      (hcas.trans hfree) (hok.trans hallowed)
    refine ⟨_, congrArg _ hrun, hpend, hlcs.trans (by rw [show u = _ from hu]; rfl), ?_, ?_⟩
    · rw [State.rf_setRf_self _ _ _ (by decide) (by decide)]
      exact Nat.mod_eq_of_lt ht
    · rw [State.rf_setRf_other _ _ _ (by decide) (by decide) (.inl (by decide))]
      exact s.placed_rf rq _ _ _ _

end Sys2Proof.Machine
end

section
/-! SUPPORT. Commands that their checks refuse (R404, R490). -/

namespace Sys2Proof.Machine

section Checks
variable {s : State} {f : Nat} {k : Cmd} {mask : Nat} {ok pf any : Bool} {xs : List CPhase}

/-- R404 check 2: an unused bit is set. -/
theorem State.freeCmd_of_badField (h : k.plain mask = false ∨ k.ctag ≠ 0) (go : State → CmdOut) :
    s.freeCmd f k mask ok pf go = .done s 0x02 0 := by
  have hbad : (!k.plain mask || k.ctag != 0 || !ok) = true := by rcases h with h | h <;> simp [h]
  exact if_pos hbad

theorem State.freeCmd_of_plain (hplain : k.plain mask = true) (htag : k.ctag = 0) (hok : ok = true) (go : State → CmdOut) :
    s.freeCmd f k mask ok pf go = if pf && f != 0 then .done s 0x03 0 else go s := by
  have hgood : ¬(!k.plain mask || k.ctag != 0 || !ok) = true := by simp [hplain, htag, hok]
  exact if_neg hgood

/-- R404, R490: a function without the right to the casement. -/
theorem State.casCmd_of_denied (hplain : k.plain mask = true) (hok : ok = true)
    (h : (pf = true ∧ f ≠ 0) ∨ s.named f k.ctag any = none) (go : State → Nat → CmdOut) :
    s.casCmd f k mask ok pf any xs go = .done s 0x03 0 := by
  have hgood : ¬(!k.plain mask || !ok) = true := by simp [hplain, hok]
  refine (if_neg hgood).trans ?_
  by_cases hpf : (pf && f != 0) = true
  · exact if_pos hpf
  · rcases h with ⟨hp, hf⟩ | h
    · simp [hp, hf] at hpf
    · rw [if_neg hpf, h]
      rfl

end Checks

end Sys2Proof.Machine
end

section
/-! PROOFS. R400, R401, R403 to R406, R413, R414: blocks are accepted, records are written, plain commands complete. -/

namespace Sys2Proof.Machine

/-! ### The window (R400, R401; log 46) -/

/-- The function's window after a write, to be examined. -/
def State.windowWritten (s : State) (f off : Nat) (bs : List Nat) : State :=
  let u := (s.grant arbAccept).winWrite f off bs
  u.setFn f { u.fn f with exam := true }

theorem exec_intakeWrite_of_open {f : Fin 16} {off : Nat} {s : State} (bytes : List Nat) (hr : s.reaches (.fn f) = true)
    (hd : (s.fn f).d3 = false) (hsafe : s.isSafe = false) (ho : off < winBytes) (hblk : s.blkDown 5 0 = false) :
    exec (.intakeWrite f off bytes) s = .next ((s.windowWritten f off (bytes.take (winBytes - off))).badCrc f off
      (bytes.take (winBytes - off)).length) := by
  have hin : ¬winBytes ≤ off := Nat.not_le.mpr ho
  show execIntakeWrite f off bytes s = _
  simp only [execIntakeWrite, hr, hd, hsafe, hblk, hin, Bool.not_true, Bool.or_self, Bool.false_eq_true, if_false, State.windowWritten]

theorem State.itkRead_windowWritten (s : State) (f off : Nat) (bs : List Nat) : (s.windowWritten f off bs).itkRead f = s.itkRead f := rfl

/-- A write covers the whole trailer of a block whose CRC does not match. -/
theorem State.badCrc_eq (s : State) (f off n : Nat) : s.badCrc f off n =
    if s.headOk f = true ∧ off ≤ s.itkRead f + s.headLen f - 4 ∧ s.itkRead f + s.headLen f ≤ off + n ∧ crcOk (s.headBytes f) = false then
      ((s.raise (rItk f 0) 2).count (rItk f 0xC) 31 16 1).post { kind := 6, unit := f, info := s.itkRead f }
    else s := by
  simp only [State.badCrc, Bool.and_eq_true, decide_eq_true_eq, Bool.not_eq_true', and_assoc]

/-! ### Acceptance (R400) -/

theorem exec_blockAccept_of_ready {f : Fin 16} {s : State} (hexam : (s.fn f).exam = true) (hready : s.isReady = true)
    (hd : (s.fn f).d3 = false) (hblk : s.blkDown 5 0 = false) (hok : s.headOk f = true) (hcrc : crcOk (s.headBytes f) = true)
    (hroom : (s.fn f).q.length < 64) : exec (.blockAccept f) s = .next (s.accept f) := by
  have hgo : s.accepts f = true := by
    rw [State.accepts, hexam, hready, hd, hblk, hok, hcrc]
    exact decide_eq_true hroom
  exact congrArg _ (if_pos hgo)

/-- The block at the end of the queue. -/
def State.queued (s : State) (f : Nat) : State :=
  (s.grant arbAccept).setFn f { s.fn f with q := (s.fn f).q ++ [⟨s.headBytes f, s.arbN arbAccept⟩] }

/-- R400: READ passes the block, NEXT counts. -/
def State.readOn (s : State) (f : Nat) : State :=
  ((s.queued f).setRf (rItk f 8) 19 0 ((s.itkRead f + s.headLen f) % winBytes)).setReg (rItk f 4) (s.reg (rItk f 4) + 1)

theorem State.accept_eq (s : State) (f : Nat) : s.accept f = ((s.readOn f).count (rItk f 0xC) 15 0 1).showQfull f := rfl

theorem rItk_ne {f g o p : Nat} (ho : o < 0x100) (hp : p < 0x100) (h : o ≠ p) : rItk f o ≠ rItk g p := by unfold rItk; omega

theorem State.fn_accept (s : State) (f : Nat) : (s.accept f).fn f = (s.queued f).fn f := by
  simp only [State.accept_eq, State.showQfull, State.readOn, State.setRf_fn, State.count_fn, State.setReg_fn]

theorem State.itkRead_accept (s : State) (f : Nat) : (s.accept f).itkRead f = (s.itkRead f + s.headLen f) % 2 ^ 20 := by
  rw [State.accept_eq, State.itkRead, State.showQfull, State.rf_setRf_ne _ _ _ _ _ _ (rItk_ne (by decide) (by decide) (by decide)),
    State.count, State.rf_setRf_ne _ _ _ _ _ _ (rItk_ne (by decide) (by decide) (by decide)), State.readOn,
    State.rf_setReg_ne _ _ _ _ (rItk_ne (by decide) (by decide) (by decide)), State.rf_setRf_self _ _ _ (by decide) (by decide)]
  exact Nat.mod_mod _ _

theorem State.itkNext_accept (s : State) (f : Nat) : (s.accept f).itkNext f = (s.itkNext f + 1) % 2 ^ 32 := by
  rw [State.accept_eq, State.itkNext, State.showQfull, State.reg_setRf_ne _ _ _ _ (rItk_ne (by decide) (by decide) (by decide)),
    State.reg_count_ne _ _ _ _ (rItk_ne (by decide) (by decide) (by decide)), State.readOn, State.reg_setReg_self, BitVec.toNat_add]
  rfl

theorem State.accepted_accept (s : State) (f : Nat) :
    (s.accept f).rf (rItk f 0xC) 15 0 = min (2 ^ 16 - 1) (s.rf (rItk f 0xC) 15 0 + 1) := by
  have hbefore : (s.readOn f).rf (rItk f 0xC) 15 0 = s.rf (rItk f 0xC) 15 0 := by
    rw [State.readOn, State.rf_setReg_ne _ _ _ _ (rItk_ne (by decide) (by decide) (by decide)),
      State.rf_setRf_ne _ _ _ _ _ _ (rItk_ne (by decide) (by decide) (by decide))]
    rfl
  rw [State.accept_eq, State.showQfull, State.rf_setRf_ne _ _ _ _ _ _ (rItk_ne (by decide) (by decide) (by decide)), State.count,
    State.rf_setRf_self _ _ _ (by decide) (by decide), hbefore, satAdd]
  omega

/-! ### Records (R413, R415) -/

theorem exec_completionRecordWrite_of_room {f : Fin 16} {s : State} {r : CRec} {rest : List CRec} (hrecs : (s.fn f).recs = r :: rest)
    (hroom : s.ringReady f false = true) : exec (.completionRecordWrite f) s =
      .next ((s.setFn f { s.fn f with recs := rest }).ringWrite f false (leBytes 32 (r.bits (s.ringPhase f false)))) := by
  show execCompletionRecordWrite f s = _
  unfold execCompletionRecordWrite
  rw [hrecs]
  exact congrArg _ (if_pos hroom)

/-! ### Commands (R404 to R406) -/

/-- R404 check 1: a TYPE of none. -/
theorem exec_reservedCommandType_of_front {f : Fin 16} {s : State} {k : Cmd} (hk : s.frontCmd f = some k)
    (htype : cmdTypes.contains k.type = false) : exec (.reservedCommandType f) s = .next (s.finish f k 0x01 0) := by
  have hother : (!cmdTypes.contains k.type) = true := by rw [htype]; rfl
  show Host.Outcome.next _ = _
  unfold State.runCmd
  rw [hk]
  exact congrArg _ (if_pos hother)

/-- Settles O44: the window's write by State.badCrc, acceptance by its registers, each command by the check that it meets. -/
theorem intakeAccepts : Obligations.IntakeAccepts := by
  unfold Obligations.IntakeAccepts
  refine ⟨fun f s => ⟨fun off bytes hr hd hsafe ho hblk => ?window, fun hexam hready hd hblk hok hcrc hroom => ?accept,
    fun r rest hrecs hroom => exec_completionRecordWrite_of_room hrecs hroom⟩,
    fun f s k hk => ⟨exec_reservedCommandType_of_front hk, fun htype hplain htag => ?skip, fun htype hplain htag => ?nop,
      fun htype hbad => congrArg _ (State.runCmd_of_done hk htype (State.freeCmd_of_badField hbad _)),
      fun htype hbad => congrArg _ (State.runCmd_of_done hk htype (State.freeCmd_of_badField hbad _)),
      fun hf htype hplain htag hok => ?map, fun htype hplain hdenied x => ?finish, fun htype hplain hnone x => ?reset,
      fun htype hplain hnone => ?start⟩⟩
  case window =>
    intro bs u w e bad
    rw [exec_intakeWrite_of_open bytes hr hd hsafe ho hblk, State.badCrc_eq]
    exact ⟨fun h => congrArg _ (if_pos h), fun h => congrArg _ (if_neg h)⟩
  case accept =>
    refine ⟨_, exec_blockAccept_of_ready hexam hready hd hblk hok hcrc hroom, ?_, s.itkRead_accept f, s.itkNext_accept f, s.accepted_accept f⟩
    rw [State.fn_accept, State.queued, State.fn_setFn_self]
  case skip => exact congrArg _ (State.runCmd_of_done hk htype (State.freeCmd_of_plain hplain htag rfl _))
  case nop => exact congrArg _ (State.runCmd_of_done hk htype (State.freeCmd_of_plain hplain htag rfl _))
  case map =>
    have hvf : (true && f.val != 0) = true := (Bool.true_and _).trans (bne_iff_ne.mpr hf)
    exact congrArg _ (State.runCmd_of_done hk htype ((State.freeCmd_of_plain hplain htag hok _).trans (if_pos hvf)))
  case finish =>
    exact congrArg _ (State.runCmd_of_done hk htype (State.casCmd_of_denied hplain rfl (hdenied.imp_left fun hf => ⟨rfl, hf⟩) _))
  case reset => exact congrArg _ (State.runCmd_of_done hk htype (State.casCmd_of_denied hplain rfl (.inr hnone) _))
  case start => exact congrArg _ (State.runCmd_of_done hk htype (State.casCmd_of_denied hplain rfl (.inr hnone) _))

end Sys2Proof.Machine
end

section
/-! PROOFS. R408, R409: programs are loaded, started and end. -/

namespace Sys2Proof.Machine

/-! ### PROGRAM_LOAD (R408) -/

section Load
variable {f : Fin 16} {s u : State} {k : Cmd} {d st res : Nat}

theorem exec_programLoad_of_done (hrun : s.casRun f k 0x20 loadMask false [.idle] d) (hok : loadOk k = true)
    (h : s.progLoad d k = .done u st res) : exec (.programLoad f) s = .next (u.finish f k st res) := by
  have ⟨hfront, htype, _⟩ := hrun
  have hcmd := (State.casCmd_of_casRun hrun hok fun s d => s.progLoad d k).trans h
  exact congrArg _ (State.runCmd_of_done hfront htype hcmd)

/-- The casement has neither the physical tiles nor the context slots for the logical ones. -/
def State.noSlots (s : State) (d nlt : Nat) : Prop :=
  s.physP d < nlt ∧ (s.casement d).ctxFrames * frameBytes < nlt * slotBytes

theorem State.progLoad_of_noSlots (h : s.noSlots d (k.f 172 160)) : s.progLoad d k = .done s 0x08 0 := if_pos h

theorem State.progLoad_of_badAddress (h : ¬s.noSlots d (k.f 172 160))
    (hbad : s.codeOk d (k.f 159 96) (k.f 95 64) = false ∨ s.hostAnswer (k.f 63 0) (k.f 95 64) ≠ 0) : s.progLoad d k = .done s 0x07 0 := by
  refine (if_neg h).trans ?_
  cases hcode : s.codeOk d (k.f 159 96) (k.f 95 64) with
  | false => rfl
  | true =>
    have hhost := bne_iff_ne.mpr (hbad.resolve_left (ne_of_eq_of_ne hcode (by decide)))
    exact if_pos hhost

/-- R408: the image as the host answers, copied page by page; false where a page can take none. -/
def State.imageCopy (s : State) (d : Nat) (k : Cmd) : State × Bool :=
  (s.hostAsk (s.casement d).owner (k.f 63 0) (k.f 95 64)).codeCopy d (cuts frameBytes (k.f 159 96) (k.f 95 64))
    (s.hostRead (k.f 63 0) (k.f 95 64))

/-- The casement of a loaded program. -/
def Cas.withProgram (c : Cas) (k : Cmd) : Cas :=
  { c with phase := .loaded, held := false, steps := 0, nlt := k.f 172 160, gx := k.f 188 176, gy := k.f 172 160 / k.f 188 176
           entry := k.f 223 192, plen := k.f 95 64, pva := k.f 159 96 }

theorem State.progLoad_of_image (h : ¬s.noSlots d (k.f 172 160)) (hcode : s.codeOk d (k.f 159 96) (k.f 95 64) = true)
    (hhost : s.hostAnswer (k.f 63 0) (k.f 95 64) = 0) : s.progLoad d k =
      if (s.imageCopy d k).2 then
        .done ((((s.imageCopy d k).1.setCas d (((s.imageCopy d k).1.casement d).withProgram k)).putKey d (k.f 287 224)).freshTiles d) 0x00 0
      else .done (s.imageCopy d k).1 0x07 0 := by
  refine (if_neg h).trans ?_
  rw [hcode, hhost]
  show (match s.imageCopy d k with | (s1, false) => CmdOut.done s1 stAddress 0 | (s1, true) => _) = _
  obtain ⟨y, b⟩ := s.imageCopy d k
  cases b <;> rfl

end Load

/-! ### START (R409) -/

section Start
variable {f : Fin 16} {s u : State} {k : Cmd} {d st res : Nat}

theorem exec_start_of_done (hrun : s.casRun f k 0x21 0 false [.loaded] d) (h : s.startCas f d k = .done u st res) :
    exec (.start f) s = .next (u.finish f k st res) := by
  have ⟨hfront, htype, _⟩ := hrun
  have hcmd := (State.casCmd_of_casRun hrun rfl fun s d => s.startCas f d k).trans h
  exact congrArg _ (State.runCmd_of_done hfront htype hcmd)

theorem State.startCas_of_notLive (hmember : s.rf (rFab d 4) 24 12 ≠ 0) (hlive : s.fabState d ≠ 1) :
    s.startCas f d k = .done s 0x04 0 := by
  have hbad : (s.rf (rFab d 4) 24 12 != 0 && s.fabState d != 1) = true := by
    rw [bne_iff_ne.mpr hmember, bne_iff_ne.mpr hlive]
    rfl
  exact if_pos hbad

theorem State.startCas_of_live (h : s.rf (rFab d 4) 24 12 = 0 ∨ s.fabState d = 1) (f : Nat) : s.startCas f d k =
    if !(diesOf (s.mask d)).all s.dieAvail then .done s 0x04 0
    else if ((s.bindable d).take (min (s.casement d).nlt (s.physP d))).length < min (s.casement d).nlt (s.physP d) then .wait s
    else
      let v := s.bindAll d ((s.bindable d).take (min (s.casement d).nlt (s.physP d)))
      let w := v.setCas d { v.casement d with phase := .running, held := false, quiesce := false, start := some ⟨f, k.seq, k.tag, k.aseq⟩ }
      .done { w with heldPane := w.heldPane.zero 8 (ltKey d 0 * 2 ^ 19) (2 ^ 31) } 0x10 0 := by
  have hok : ¬(s.rf (rFab d 4) 24 12 != 0 && s.fabState d != 1) = true := by
    rcases h with h | h <;> simp [h]
  exact if_neg hok

end Start

/-! ### PROGRAM_END (R409) -/

theorem State.unbind_fns (s : State) (p v : Nat) : (s.unbind p v).fns = s.fns := by
  unfold State.unbind
  extract_lets s1
  have hregs : s1.fns = s.fns := (State.setRf_fns _ _ _ _ _).trans (State.setRf_fns _ _ _ _ _)
  exact (s1.setTile_fns p _).trans hregs

theorem State.unbindAll_fns (s : State) (d : Nat) : (s.unbindAll d).fns = s.fns := by
  refine foldl_same State.fns (fun u t _ => ?_) s
  cases (State.lt u d t).phys with
  | none => rfl
  | some p => exact State.unbind_fns u p 1

section Fresh
variable (s : State) (d : Nat)

theorem State.freshTiles_fns : (s.freshTiles d).fns = s.fns :=
  foldl_same (f := fun u t => State.setLt u d t (LTile.fresh (s.casement d).entry)) State.fns (fun _ _ _ => rfl)
    { s with heldPane := s.heldPane.zero 8 (ltKey d 0 * 2 ^ 19) (2 ^ 31), lts := Assoc.clear s.lts (ltKey d 0) 4096 }

theorem State.freshTiles_cas : (s.freshTiles d).cas = s.cas :=
  foldl_same (f := fun u t => State.setLt u d t (LTile.fresh (s.casement d).entry)) State.cas (fun _ _ _ => rfl)
    { s with heldPane := s.heldPane.zero 8 (ltKey d 0 * 2 ^ 19) (2 ^ 31), lts := Assoc.clear s.lts (ltKey d 0) 4096 }

end Fresh

/-- R409: the casement is loaded with a fresh program. -/
def State.programOver (s : State) (d : Nat) : State :=
  ((s.unbindAll d).setCas d
    { s.casement d with phase := .loaded, held := false, steps := 0, start := none, quiesce := false }).freshTiles d

theorem State.programOver_casement (s : State) (d : Nat) : (s.programOver d).casement d =
    { s.casement d with phase := .loaded, held := false, steps := 0, start := none, quiesce := false } := by
  rw [State.casement, State.programOver, State.freshTiles_cas]
  exact State.casement_setCas_self _ _ _

theorem State.programOver_fn (s : State) (d f : Nat) : (s.programOver d).fn f = s.fn f := by
  rw [State.fn, State.programOver, State.freshTiles_fns, State.setCas_fns, State.unbindAll_fns, State.fn]

theorem State.progEnd_of_start {s : State} {d : Nat} {r : StartRec} (h : (s.casement d).start = some r) : s.progEnd d =
    (s.programOver d).setFn r.f { (s.programOver d).fn r.f with
      recs := ((s.programOver d).fn r.f).recs ++ [⟨r.seq, 0x21, 0x11, r.tag, r.aseq, 0⟩] } := by
  unfold State.progEnd
  dsimp only
  rw [h]
  rfl

theorem State.progEnd_of_noStart {s : State} {d : Nat} (h : (s.casement d).start = none) : s.progEnd d = s.programOver d := by
  unfold State.progEnd
  dsimp only
  rw [h]
  rfl

theorem exec_programEnd_of_halted {d : Fin 4} {s : State} (hrun : (s.casement d).phase = .running) (hhalt : s.allHalted d = true) :
    exec (.programEnd d) s = .next (s.progEnd d) := congrArg _ (if_pos ⟨hrun, hhalt⟩)

/-- Settles O46: PROGRAM_LOAD and START by the checks that they meet; PROGRAM_END by START's record. -/
theorem programLife : Obligations.ProgramLife := by
  unfold Obligations.ProgramLife
  refine ⟨fun f s k d _ hrun hok => ?load, fun f s k d _ hrun => ?start, fun d s hrun hhalt => ?halted⟩
  case load =>
    intro src n pva small
    refine ⟨fun h => exec_programLoad_of_done hrun hok (State.progLoad_of_noSlots (not_not.mp h)),
      fun h hbad => exec_programLoad_of_done hrun hok (State.progLoad_of_badAddress h hbad), fun h hcode hhost => ?_⟩
    intro y u c
    have hload := State.progLoad_of_image h hcode hhost
    exact ⟨fun hno => exec_programLoad_of_done hrun hok (hload.trans (if_neg (ne_true_of_eq_false hno))),
      fun hyes => exec_programLoad_of_done hrun hok (hload.trans (if_pos hyes))⟩
  case start =>
    intro want ps
    refine ⟨fun hmember hlive => exec_start_of_done hrun (State.startCas_of_notLive hmember hlive), fun h hdie => ?_, fun h hdies hroom => ?_⟩
    · obtain ⟨x, hx, hout⟩ := hdie
      have hlost : (!(diesOf (s.mask d)).all s.dieAvail) = true := by
        rw [Bool.not_eq_true', List.all_eq_false]
        exact ⟨x, hx, ne_true_of_eq_false hout⟩
      exact exec_start_of_done hrun ((State.startCas_of_live h _).trans (if_pos hlost))
    · have hall : ¬(!(diesOf (s.mask d)).all s.dieAvail) = true := by
        rw [Bool.not_eq_true', Bool.not_eq_false, List.all_eq_true]
        exact hdies
      exact exec_start_of_done hrun
        ((State.startCas_of_live h _).trans ((if_neg hall).trans (if_neg (Nat.not_lt.mpr hroom))))
  case halted =>
    refine ⟨_, exec_programEnd_of_halted hrun hhalt, ?_⟩
    cases hstart : (s.casement d).start with
    | none =>
      rw [State.progEnd_of_noStart hstart, State.programOver_casement]
      exact ⟨rfl, rfl, fun r hr => nomatch hr⟩
    | some r =>
      rw [State.progEnd_of_start hstart]
      have hcas : (State.setFn (s.programOver d) r.f { (s.programOver d).fn r.f with
          recs := ((s.programOver d).fn r.f).recs ++ [⟨r.seq, 0x21, 0x11, r.tag, r.aseq, 0⟩] }).casement d =
          (s.programOver d).casement d := rfl
      rw [hcas, State.programOver_casement]
      refine ⟨rfl, rfl, fun r' hr' => ?_⟩
      obtain rfl := Option.some.inj hr'
      rw [State.fn_setFn_self, State.programOver_fn]

end Sys2Proof.Machine
end

section
/-! SUPPORT. The control journal (R455): an entry's 64 bytes, where a new one goes, and what the update state shows in FWU_STAT. -/

namespace Sys2Proof.Machine

theorem length_jrnBytes (j : Jrn) : j.bytes.length = 64 := by
  have hmagic : (ascii "DZJ1").length = 4 := by decide
  simp only [Jrn.bytes, List.length_append, length_leBytes, List.length_map, List.length_range, List.length_replicate, hmagic,
    List.length_cons, List.length_nil]

/-! ### Where an entry goes -/

/-- The journal that takes the next entry. -/
def State.jrnBase (s : State) : Nat :=
  match s.jrnForce with
  | some (a, _) => if a < jrnB then jrnB else jrnA
  | none => jrnA

theorem State.jrnAppend_eq (s : State) (j : Jrn) : s.jrnAppend j =
    if s.jrnUsed s.jrnBase < 1024 then s.flashWrite (s.jrnBase + 64 * s.jrnUsed s.jrnBase) j.bytes
    else (s.flashErase s.jrnBase sectorSize).flashWrite s.jrnBase j.bytes := rfl

theorem State.jrnBase_cases (s : State) : s.jrnBase = jrnA ∨ s.jrnBase = jrnB := by
  unfold State.jrnBase
  split
  · split
    · exact .inr rfl
    · exact .inl rfl
  · exact .inl rfl

/-- An entry is written whole into its journal. -/
theorem State.flashRead_jrnAppend (s : State) (j : Jrn) : ∃ a, s.jrnBase ≤ a ∧ a + 64 ≤ s.jrnBase + sectorSize ∧
    (s.jrnAppend j).flashRead a 64 = j.bytes.map (· % 256) := by
  have hread (u : State) (a : Nat) : (u.flashWrite a j.bytes).flashRead a 64 = j.bytes.map (· % 256) := by
    have h := u.flashRead_flashWrite_self a j.bytes
    rwa [length_jrnBytes] at h
  rw [State.jrnAppend_eq]
  by_cases hroom : s.jrnUsed s.jrnBase < 1024
  · refine ⟨s.jrnBase + 64 * s.jrnUsed s.jrnBase, Nat.le_add_right _ _, ?_, ?_⟩
    · unfold sectorSize; omega
    · rw [if_pos hroom, hread]
  · refine ⟨s.jrnBase, Nat.le_refl _, Nat.add_le_add_left (by decide) _, ?_⟩
    rw [if_neg hroom, hread]

/-- Outside its journal an entry leaves the flash as it was. -/
theorem State.flash_jrnAppend (s : State) (j : Jrn) {k : Nat} (h : k < s.jrnBase ∨ s.jrnBase + sectorSize ≤ k) :
    Assoc.get (s.jrnAppend j).flash k 0xFF = Assoc.get s.flash k 0xFF := by
  have hlen := length_jrnBytes j
  have hsector : sectorSize = 65536 := rfl
  rw [State.jrnAppend_eq]
  split
  · exact s.flash_flashWrite _ _ _ (by omega)
  · exact (State.flash_flashWrite _ _ _ _ (by omega)).trans (s.flash_flashErase _ _ _ h)

theorem State.jrnAppend_eq_flash (s : State) (j : Jrn) : ∃ l, s.jrnAppend j = { s with flash := l } := by
  rw [State.jrnAppend_eq]
  split <;> exact ⟨_, rfl⟩

/-! ### A new entry -/

theorem State.journal_flash (s : State) (j : Jrn) : (s.journal j).flash = (s.jrnAppend { j with seq := s.jrn.seq + 1 }).flash := rfl

theorem State.journal_eq (s : State) (j : Jrn) : ∃ l, s.journal j =
    (State.setRf { s with flash := l, jrn := { j with seq := s.jrn.seq + 1 } } 0x0030004 13 11 j.st).setRf 0x0030004 10 10 (b2n j.db) := by
  obtain ⟨l, hl⟩ := s.jrnAppend_eq_flash { j with seq := s.jrn.seq + 1 }
  refine ⟨l, ?_⟩
  unfold State.journal
  dsimp only
  rw [hl]

@[simp] theorem State.journal_jrn (s : State) (j : Jrn) : (s.journal j).jrn = { j with seq := s.jrn.seq + 1 } := by
  obtain ⟨l, h⟩ := s.journal_eq j
  rw [h, State.setRf_jrn, State.setRf_jrn]

@[simp] theorem State.journal_fuses (s : State) (j : Jrn) : (s.journal j).fuses = s.fuses := by
  obtain ⟨l, h⟩ := s.journal_eq j
  rw [h, State.setRf_fuses, State.setRf_fuses]

theorem State.rf_journal_ne (s : State) (j : Jrn) {k : Nat} (hi lo : Nat) (h : k ≠ 0x0030004) : (s.journal j).rf k hi lo = s.rf k hi lo := by
  obtain ⟨l, he⟩ := s.journal_eq j
  rw [he, State.rf_setRf_ne _ _ _ _ _ _ h, State.rf_setRf_ne _ _ _ _ _ _ h]
  rfl

theorem State.rf_journal_stat (s : State) (j : Jrn) : (s.journal j).rf 0x0030004 10 10 = b2n j.db ∧
    (s.journal j).rf 0x0030004 13 11 = j.st % 2 ^ 3 := by
  obtain ⟨l, he⟩ := s.journal_eq j
  rw [he, State.rf_setRf_self _ _ _ (by decide) (by decide), State.rf_setRf_other _ _ _ (by decide) (by decide) (.inr (by decide)),
    State.rf_setRf_self _ _ _ (by decide) (by decide)]
  exact ⟨Nat.mod_eq_of_lt (b2n_lt_two j.db), rfl⟩

theorem State.flashRead_journal (s : State) (j : Jrn) : ∃ a, jrnA ≤ a ∧ a + 64 ≤ jrnB + sectorSize ∧
    (s.journal j).flashRead a 64 = (Jrn.bytes { j with seq := s.jrn.seq + 1 }).map (· % 256) := by
  obtain ⟨a, hlo, hhi, hread⟩ := s.flashRead_jrnAppend { j with seq := s.jrn.seq + 1 }
  have hA : jrnA = 0x30000 := rfl
  have hB : jrnB = 0x40000 := rfl
  refine ⟨a, ?_, ?_, hread⟩ <;> rcases s.jrnBase_cases with hb | hb <;> omega

/-- R451: the journals lie below the certificate and the banks. -/
theorem State.flash_journal_of_above (s : State) (j : Jrn) {k : Nat} (h : 0x50000 ≤ k) :
    Assoc.get (s.journal j).flash k 0xFF = Assoc.get s.flash k 0xFF := by
  rw [State.journal_flash]
  refine s.flash_jrnAppend _ (.inr ?_)
  have hsector : sectorSize = 0x10000 := rfl
  have hA : jrnA = 0x30000 := rfl
  have hB : jrnB = 0x40000 := rfl
  rcases s.jrnBase_cases with hb | hb <;> omega

/-! ### The entry in force -/

theorem State.jrnForce_spec {s : State} {a : Nat} {i : Jrn} (h : s.jrnForce = some (a, i)) : a ∈ s.jrnPlaces ∧ s.jrnAt a = some i := by
  refine foldl_keeps (P := fun best => ∀ a i, best = some (a, i) → a ∈ s.jrnPlaces ∧ s.jrnAt a = some i)
    (fun best b hb hbest a i hai => ?_) ?_ a i h
  · split at hai
    · next j c i' hj =>
      split at hai
      · cases hai; exact ⟨hb, hj⟩
      · exact hbest a i hai
    · next j hj => cases hai; exact ⟨hb, hj⟩
    · exact hbest a i hai
  · intro a i hai
    exact nomatch hai

theorem State.jrnPlaces_range {s : State} {a : Nat} (h : a ∈ s.jrnPlaces) : jrnA ≤ a ∧ a < jrnB + sectorSize ∧ a % 64 = 0 := by
  have hA : jrnA = 0x30000 := rfl
  have hB : jrnB = 0x40000 := rfl
  have hsector : sectorSize = 0x10000 := rfl
  unfold State.jrnPlaces at h
  rw [List.mem_eraseDups, List.mem_map] at h
  obtain ⟨c, hc, rfl⟩ := h
  have hrange := of_decide_eq_true (List.mem_filter.mp hc).2
  omega

/-- R455: the entry in force stands in the other journal, so a new one leaves it. -/
theorem State.jrnAt_journal {s : State} {a : Nat} {i : Jrn} (j : Jrn) (h : s.jrnForce = some (a, i)) : (s.journal j).jrnAt a = some i := by
  have hA : jrnA = 0x30000 := rfl
  have hB : jrnB = 0x40000 := rfl
  have hsector : sectorSize = 0x10000 := rfl
  obtain ⟨hplace, hat⟩ := State.jrnForce_spec h
  obtain ⟨hlo, hhi, halign⟩ := State.jrnPlaces_range hplace
  have hbase : s.jrnBase = if a < jrnB then jrnB else jrnA := by rw [State.jrnBase, h]
  have hread : (s.journal j).flashRead a 64 = s.flashRead a 64 := State.flashRead_congr fun k hk hk' => by
    rw [State.journal_flash]
    refine s.flash_jrnAppend _ ?_
    rw [hbase]
    split <;> omega
  rw [State.jrnAt, hread]
  exact hat

/-! ### What the update state shows (R456, R468) -/

/-- FWU_STAT shows the journal's state and a command's result. -/
def State.showsJrn (t : State) (j : Jrn) (res reason : Nat) : Prop :=
  t.jrn = j ∧ t.rf 0x0030004 3 1 = res ∧ t.rf 0x0030004 7 4 = reason ∧ t.rf 0x0030004 10 10 = b2n j.db ∧
    (j.st < 8 → t.rf 0x0030004 13 11 = j.st)

theorem State.rf_fwuRes_stat (s : State) (res reason : Nat) : (s.fwuRes res reason).rf 0x0030004 3 1 = res % 2 ^ 3 ∧
    (s.fwuRes res reason).rf 0x0030004 7 4 = reason % 2 ^ 4 := by
  unfold State.fwuRes rFwuStat
  rw [State.rf_setRf_self _ _ _ (by decide) (by decide), State.rf_setRf_other _ _ _ (by decide) (by decide) (.inl (by decide)),
    State.rf_setRf_self _ _ _ (by decide) (by decide)]
  exact ⟨rfl, rfl⟩

theorem State.rf_fwuRes_above (s : State) (res reason hi : Nat) {lo : Nat} (h : 7 < lo) :
    (s.fwuRes res reason).rf 0x0030004 hi lo = s.rf 0x0030004 hi lo := by
  unfold State.fwuRes rFwuStat
  rw [State.rf_setRf_other _ _ _ (by decide) (by decide) (.inr h), State.rf_setRf_other _ _ _ (by decide) (by decide) (.inr (by omega))]

theorem State.rf_fwuRes_ne (s : State) (res reason : Nat) {k : Nat} (hi lo : Nat) (h : k ≠ 0x0030004) :
    (s.fwuRes res reason).rf k hi lo = s.rf k hi lo :=
  (State.rf_setRf_ne _ _ _ _ _ _ h).trans (State.rf_setRf_ne _ _ _ _ _ _ h)

@[simp] theorem State.fwuRes_jrn (s : State) (res reason : Nat) : (s.fwuRes res reason).jrn = s.jrn :=
  (State.setRf_jrn _ _ _ _ _).trans (State.setRf_jrn _ _ _ _ _)

@[simp] theorem State.fwuRes_flash (s : State) (res reason : Nat) : (s.fwuRes res reason).flash = s.flash :=
  (State.setRf_flash _ _ _ _ _).trans (State.setRf_flash _ _ _ _ _)

@[simp] theorem State.fwuRes_fuses (s : State) (res reason : Nat) : (s.fwuRes res reason).fuses = s.fuses :=
  (State.setRf_fuses _ _ _ _ _).trans (State.setRf_fuses _ _ _ _ _)

theorem State.showsJrn_journal (s : State) (j : Jrn) {res reason : Nat} (hres : res < 8) (hreason : reason < 16) :
    ((s.journal j).fwuRes res reason).showsJrn { j with seq := s.jrn.seq + 1 } res reason := by
  obtain ⟨hdb, hst⟩ := s.rf_journal_stat j
  obtain ⟨hr, hn⟩ := (s.journal j).rf_fwuRes_stat res reason
  refine ⟨(State.fwuRes_jrn _ _ _).trans (s.journal_jrn j), hr.trans (Nat.mod_eq_of_lt hres), hn.trans (Nat.mod_eq_of_lt hreason),
    (State.rf_fwuRes_above _ _ _ _ (by decide)).trans hdb, fun hlt => ?_⟩
  exact (State.rf_fwuRes_above _ _ _ _ (by decide)).trans (hst.trans (Nat.mod_eq_of_lt hlt))

theorem State.showsJrn.post {t : State} {j : Jrn} {res reason : Nat} (h : t.showsJrn j res reason) (e : Ev) :
    (t.post e).showsJrn j res reason := by
  have hk : ¬evtReg 0x0030004 := not_evtReg_of_lt (by decide)
  obtain ⟨hjrn, hres, hreason, hdb, hst⟩ := h
  exact ⟨(t.post_jrn e).trans hjrn, (t.rf_post hk e _ _).trans hres, (t.rf_post hk e _ _).trans hreason,
    (t.rf_post hk e _ _).trans hdb, fun hlt => (t.rf_post hk e _ _).trans (hst hlt)⟩

end Sys2Proof.Machine
end

section
/-! SUPPORT. A write of FWU_CMD (R456), and what each of its commands comes to. -/

namespace Sys2Proof.Machine

/-- R456: the command of an OP, while none is in progress. -/
def State.fwuOp (s : State) (rq : Req) (op : Nat) (m : During) (n : Nat) : State :=
  match op with
  | 1 => s.fwuStage m.cut n
  | 2 => s.fwuArm n
  | 3 => s.fwuDisarm n
  | 4 => s.fwuActivate m.sh n
  | 5 => s.fwuSvncommit n
  | 6 => s.fwuDbset n
  | 7 => s.fwuDbclr rq n
  | _ => s.fwuAttest

theorem State.fwuCmd_of_idle {s : State} {op : Nat} (rq : Req) (m : During) (n : Nat) (hidle : s.fwuBusy = false)
    (hop : 1 ≤ op ∧ op ≤ 8) : s.fwuCmd rq op m n = s.fwuOp rq op m n :=
  (if_neg (by omega)).trans (if_neg (ne_true_of_eq_false hidle))

theorem State.wrAt_fwuCmd (s : State) (rq : Req) (v n : Nat) (m : During) :
    s.wrAt rq 0x0030000 v n m = s.fwuCmd rq (fld v 3 0) m n := by
  simp (disch := omega) only [State.wrAt, isRstBit, within_eq_false, if_neg, Bool.false_eq_true, if_false, if_true]

/-- R456: an OP written to FWU_CMD is carried out at once. -/
theorem State.wr32_fwuCmd {s : State} {rq : Req} (hw : s.writes rq 0x0030000 = true) (hidle : s.fwuBusy = false) {op : Nat}
    (hop : 1 ≤ op ∧ op ≤ 8) (m : During) :
    s.wr32 rq 0x0030000 op m = (s.placed rq 0x0030000).fwuOp rq op m (s.arbN (arbReg 0x0030000)) := by
  have hfld : fld (op % 2 ^ 32) 3 0 = op := by rw [fld_low]; omega
  have hbusy : (s.placed rq 0x0030000).fwuBusy = false := by
    rw [State.fwuBusy, State.placed_rf]; exact hidle
  rw [State.wr32_of_writes _ _ hw, State.wrAt_fwuCmd, hfld, State.fwuCmd_of_idle _ _ _ hbusy hop]

/-! ### The commands by their reasons (R456) -/

section Reasons
variable {α : Type} (go : α) (no : Nat → α)

/-- The reasons are tried one after the other. -/
theorem firstReason_elim_cons (b : Bool) (r : Nat) (l : List (Bool × Nat)) :
    (firstReason ((b, r) :: l)).elim go no = if b then no r else (firstReason l).elim go no := by cases b <;> rfl

theorem firstReason_elim_nil : (firstReason []).elim go no = go := rfl

end Reasons

section Commands
variable (s : State) (n : Nat)

/-- What ARM is refused for. -/
def State.armReasons : List (Bool × Nat) :=
  [(s.jrn.db, 3), (s.rsvLow, 2), (!(s.jrn.st == 2 || s.jrn.st == 3 || s.jrn.st == 4), 5)]

/-- The entry of ARM: STATE, the casement and the epoch that it waits for. -/
def State.armedEntry : Jrn :=
  { s.jrn with st := if s.rf 0x0030014 16 16 = 1 then 4 else 3, ctag := s.rf 0x0030014 15 0, epoch := (s.reg 0x0030018).toNat }

theorem State.fwuArm_elim : s.fwuArm n =
    (firstReason s.armReasons).elim (((s.journal s.armedEntry).fwuRes 0 0).armEvent n) (fun r => s.fwuNo 2 r n) := by
  show (match firstReason s.armReasons with | some r => _ | none => _) = _
  cases firstReason s.armReasons <;> rfl

theorem State.fwuArm_eq : s.fwuArm n =
    if s.jrn.db then s.fwuNo 2 3 n else if s.rsvLow then s.fwuNo 2 2 n
    else if s.jrn.st = 2 ∨ s.jrn.st = 3 ∨ s.jrn.st = 4 then ((s.journal s.armedEntry).fwuRes 0 0).armEvent n else s.fwuNo 2 5 n := by
  rw [State.fwuArm_elim, State.armReasons, firstReason_elim_cons, firstReason_elim_cons, firstReason_elim_cons, firstReason_elim_nil]
  by_cases h : s.jrn.st = 2 ∨ s.jrn.st = 3 ∨ s.jrn.st = 4
  · have hst : (!(s.jrn.st == 2 || s.jrn.st == 3 || s.jrn.st == 4)) = false := by rcases h with h | h | h <;> rw [h] <;> rfl
    rw [hst, if_pos h, if_neg Bool.false_ne_true]
  · have hst : (!(s.jrn.st == 2 || s.jrn.st == 3 || s.jrn.st == 4)) = true := by
      simp only [not_or] at h
      rw [beq_eq_false_iff_ne.mpr h.1, beq_eq_false_iff_ne.mpr h.2.1, beq_eq_false_iff_ne.mpr h.2.2]
      rfl
    rw [hst, if_neg h, if_pos rfl]

theorem State.fwuActivate_elim (x : ShutIn) : s.fwuActivate x n =
    (firstReason [(s.anyCas, 1), (s.rsvLow, 2), (s.jrn.db, 3), (s.jrn.st != 4, 4)]).elim (s.wideReset x 5) (fun r => s.fwuNo 2 r n) := by
  unfold State.fwuActivate
  cases firstReason [(s.anyCas, 1), (s.rsvLow, 2), (s.jrn.db, 3), (s.jrn.st != 4, 4)] <;> rfl

theorem State.fwuActivate_eq (x : ShutIn) : s.fwuActivate x n =
    if s.anyCas then s.fwuNo 2 1 n else if s.rsvLow then s.fwuNo 2 2 n else if s.jrn.db then s.fwuNo 2 3 n
    else if s.jrn.st = 4 then s.wideReset x 5 else s.fwuNo 2 4 n := by
  rw [State.fwuActivate_elim, firstReason_elim_cons, firstReason_elim_cons, firstReason_elim_cons, firstReason_elim_cons, firstReason_elim_nil]
  by_cases h : s.jrn.st = 4
  · rw [bne_eq_false_iff_eq.mpr h, if_pos h, if_neg Bool.false_ne_true]
  · rw [bne_iff_ne.mpr h, if_neg h, if_pos rfl]

/-- R461: the fuse counter of security versions takes the running image's. -/
def State.svnBurnt (s : State) : State := ({ s with fuses := { s.fuses with svnctr := s.run.svn } }.showTrust).fwuRes 0 0

/-- What SVNCOMMIT is refused for. -/
def State.svnReasons : List (Bool × Nat) :=
  [(s.rsvLow, 2), (s.run.gold, 7), (decide (s.run.svn ≤ s.fuses.svnctr), 6), (decide (128 < s.run.svn), 8)]

theorem State.fwuSvncommit_elim : s.fwuSvncommit n = (firstReason s.svnReasons).elim
    (if s.svnBurnt.rf rFwuStat 9 9 = 0 then s.svnBurnt.post { kind := 9, arbseq := n } else s.svnBurnt) (fun r => s.fwuNo 2 r n) := by
  show (match firstReason s.svnReasons with | some r => _ | none => _) = _
  cases firstReason s.svnReasons <;> rfl

theorem State.fwuSvncommit_eq : s.fwuSvncommit n =
    if s.rsvLow then s.fwuNo 2 2 n else if s.run.gold then s.fwuNo 2 7 n else if s.run.svn ≤ s.fuses.svnctr then s.fwuNo 2 6 n
    else if 128 < s.run.svn then s.fwuNo 2 8 n
    else if s.svnBurnt.rf rFwuStat 9 9 = 0 then s.svnBurnt.post { kind := 9, arbseq := n } else s.svnBurnt := by
  rw [State.fwuSvncommit_elim, State.svnReasons, firstReason_elim_cons, firstReason_elim_cons, firstReason_elim_cons, firstReason_elim_cons,
    firstReason_elim_nil]
  simp only [decide_eq_true_eq]

theorem State.fuses_showTrust : s.showTrust.fuses = s.fuses := by
  unfold State.showTrust
  exact (State.setRf_fuses _ _ _ _ _).trans (State.setReg_fuses _ _ _)

theorem State.rf_showTrust_burnt : s.showTrust.rf 0x0030024 31 16 = s.fuses.svnctr % 2 ^ 16 := by
  unfold State.showTrust
  rw [State.rf_setRf_ne _ _ _ _ _ _ (by decide), State.rf_setReg_self, rfld, BitVec.toNat_ofNat, fld_eq_div_mod]
  omega

theorem State.svnBurnt_spec (h : s.run.svn ≤ 128) : s.svnBurnt.fuses = { s.fuses with svnctr := s.run.svn } ∧
    s.svnBurnt.rf 0x0030004 3 1 = 0 ∧ s.svnBurnt.rf 0x0030024 31 16 = s.run.svn := by
  unfold State.svnBurnt
  refine ⟨(State.fwuRes_fuses _ _ _).trans (State.fuses_showTrust _), (State.rf_fwuRes_stat _ _ _).1, ?_⟩
  rw [State.rf_fwuRes_ne _ _ _ _ _ (by decide), State.rf_showTrust_burnt]
  exact Nat.mod_eq_of_lt (Nat.lt_of_le_of_lt h (by decide))

/-- R467: the state after the report has gone to FWU_ADDR. -/
theorem State.fwuAttest_spec : s.fwuAttest.rseq = s.rseq + 1 ∧ s.fwuAttest.rf 0x0030004 3 1 = 0 ∧
    s.fwuAttest.out = s.out ++ [.host 0 true s.fwuAddr (s.report s.fwuNonce).length] ∧
    s.fwuAttest.hostRead s.fwuAddr (s.report s.fwuNonce).length = (s.report s.fwuNonce).map (· % 256) := by
  unfold State.fwuAttest
  refine ⟨(State.setRf_rseq _ _ _ _ _).trans (State.setRf_rseq _ _ _ _ _), (State.rf_fwuRes_stat _ _ _).1, ?_, ?_⟩
  · exact (State.setRf_out _ _ _ _ _).trans ((State.setRf_out _ _ _ _ _).trans (State.out_emit _ _))
  · rw [State.fwuRes, State.hostRead, State.setRf_host, State.setRf_host]
    exact s.hostRead_hostWrite_self 0 s.fwuAddr (s.report s.fwuNonce)

/-- An entry of the journal, a command that is done, and its event. -/
def State.jrnDone (t : State) (j : Jrn) : Prop :=
  t.showsJrn j 0 0 ∧ ∃ a, jrnA ≤ a ∧ a + 64 ≤ jrnB + sectorSize ∧ t.flashRead a 64 = j.bytes.map (· % 256)

theorem State.jrnDone_journal (j : Jrn) : ((s.journal j).fwuRes 0 0).jrnDone { j with seq := s.jrn.seq + 1 } := by
  obtain ⟨a, hlo, hhi, hread⟩ := s.flashRead_journal j
  refine ⟨s.showsJrn_journal j (by decide) (by decide), a, hlo, hhi, ?_⟩
  rw [State.flashRead, State.fwuRes_flash]
  exact hread

end Commands

theorem State.jrnDone.post {t : State} {j : Jrn} (h : t.jrnDone j) (e : Ev) : (t.post e).jrnDone j := by
  obtain ⟨hshows, a, hlo, hhi, hread⟩ := h
  refine ⟨hshows.post e, a, hlo, hhi, ?_⟩
  rw [State.flashRead, State.post_flash]
  exact hread

end Sys2Proof.Machine
end

section
/-! PROOFS. R455, R456, R457, R468: the firmware commands are refused or carried out. -/

namespace Sys2Proof.Machine

section Exec
variable {rq : Req} {s : State} (hw : s.writes rq 0x0030000 = true) (hidle : s.fwuBusy = false)
include hw hidle

theorem exec_fwuArm_of_writes : exec (.fwuArm rq) s = .next ((s.placed rq 0x0030000).fwuArm (s.arbN (arbReg 0x0030000))) :=
  congrArg Host.Outcome.next (State.wr32_fwuCmd hw hidle (op := 2) (by decide) .none)

theorem exec_fwuDisarm_of_writes : exec (.fwuDisarm rq) s = .next ((s.placed rq 0x0030000).fwuDisarm (s.arbN (arbReg 0x0030000))) :=
  congrArg Host.Outcome.next (State.wr32_fwuCmd hw hidle (op := 3) (by decide) .none)

theorem exec_fwuActivate_of_writes (x : ShutIn) :
    exec (.fwuActivate rq x) s = .next ((s.placed rq 0x0030000).fwuActivate x (s.arbN (arbReg 0x0030000))) :=
  congrArg Host.Outcome.next (State.wr32_fwuCmd hw hidle (op := 4) (by decide) ⟨none, x⟩)

theorem exec_fwuSvncommit_of_writes :
    exec (.fwuSvncommit rq) s = .next ((s.placed rq 0x0030000).fwuSvncommit (s.arbN (arbReg 0x0030000))) :=
  congrArg Host.Outcome.next (State.wr32_fwuCmd hw hidle (op := 5) (by decide) .none)

theorem exec_fwuDbset_of_writes : exec (.fwuDbset rq) s = .next ((s.placed rq 0x0030000).fwuDbset (s.arbN (arbReg 0x0030000))) :=
  congrArg Host.Outcome.next (State.wr32_fwuCmd hw hidle (op := 6) (by decide) .none)

theorem exec_fwuDbclr_of_writes : exec (.fwuDbclr rq) s = .next ((s.placed rq 0x0030000).fwuDbclr rq (s.arbN (arbReg 0x0030000))) :=
  congrArg Host.Outcome.next (State.wr32_fwuCmd hw hidle (op := 7) (by decide) .none)

theorem exec_fwuAttest_of_writes : exec (.fwuAttest rq) s = .next (s.placed rq 0x0030000).fwuAttest :=
  congrArg Host.Outcome.next (State.wr32_fwuCmd hw hidle (op := 8) (by decide) .none)

end Exec

section Disarm
variable {s : State} (n : Nat)

theorem State.jrnDone_armEvent {j : Jrn} (h : s.jrnDone j) : (s.armEvent n).jrnDone j := h.post _

theorem State.fwuDisarm_of_armed (h : s.jrn.st = 3 ∨ s.jrn.st = 4) :
    s.fwuDisarm n = ((s.journal { s.jrn with st := 2 }).fwuRes 0 0).armEvent n := if_pos h

theorem State.fwuDisarm_of_unarmed (h : ¬(s.jrn.st = 3 ∨ s.jrn.st = 4)) : s.fwuDisarm n = s.fwuNo 2 5 n := if_neg h

/-- R461: DBSET's entry; an arm goes with it. -/
theorem State.jrnDone_fwuDbset (s : State) (n : Nat) : (s.fwuDbset n).jrnDone
    { s.jrn with seq := s.jrn.seq + 1, db := true, st := if s.jrn.st = 3 ∨ s.jrn.st = 4 then 2 else s.jrn.st } := by
  have harm : ((s.jrn.st == 3 || s.jrn.st == 4) = true) = (s.jrn.st = 3 ∨ s.jrn.st = 4) := by
    rw [Bool.or_eq_true, beq_iff_eq, beq_iff_eq]
  have hdone := s.jrnDone_journal { s.jrn with db := true, st := if s.jrn.st = 3 ∨ s.jrn.st = 4 then 2 else s.jrn.st }
  unfold State.fwuDbset
  simp only [harm]
  split
  · next h => rw [if_pos h] at hdone; exact State.jrnDone_armEvent n hdone
  · next h => rw [if_neg h] at hdone; exact hdone

theorem State.fwuDbclr_mgt (s : State) (n : Nat) : s.fwuDbclr .mgt n = (s.journal { s.jrn with db := false }).fwuRes 0 0 := rfl

theorem State.fwuDbclr_of_other {rq : Req} (h : rq ≠ .mgt) : s.fwuDbclr rq n = s.fwuNo 5 0 n := by
  cases rq with
  | mgt => exact absurd rfl h
  | fn f => rfl
  | pkc => rfl

end Disarm

/-- The put of a command that leaves an entry: its conditions in the order of the statement. -/
theorem State.jrnDone.spec {t : State} {j : Jrn} (h : t.jrnDone j) : t.jrn = j ∧ t.rf 0x0030004 3 1 = 0 ∧ t.rf 0x0030004 7 4 = 0 ∧
    t.rf 0x0030004 10 10 = b2n j.db ∧ (j.st < 8 → t.rf 0x0030004 13 11 = j.st) ∧
      ∃ a, jrnA ≤ a ∧ a + 64 ≤ jrnB + sectorSize ∧ t.flashRead a 64 = j.bytes.map (· % 256) := by
  obtain ⟨⟨hjrn, hres, hreason, hdb, hst⟩, hflash⟩ := h
  exact ⟨hjrn, hres, hreason, hdb, hst, hflash⟩

/-- Settles O40: each command by its reasons; the journal by State.jrnDone and State.jrnAt_journal. -/
theorem firmwareCommands : Obligations.FirmwareCommands := by
  unfold Obligations.FirmwareCommands
  refine ⟨fun rq s hw hidle => ?commands, fun j s a i hforce => State.jrnAt_journal j hforce⟩
  intro u no st put
  obtain ⟨l, hu⟩ := s.placed_eq_grant rq 0x0030000
  replace hu : u = { s.grant (arbReg 0x0030000) with unlock := l } := hu
  have hjrn : u.jrn = s.jrn := by rw [hu]; rfl
  have hrsv : u.rsvLow = s.rsvLow := by rw [hu]; rfl
  have hcas : u.anyCas = s.anyCas := by rw [hu]; rfl
  have hrun : u.run = s.run := by rw [hu]; rfl
  have hfuses : u.fuses = s.fuses := by rw [hu]; rfl
  have harmed : u.armedEntry = s.armedEntry := by rw [hu]; rfl
  have hno (res reason : Nat) : u.fwuNo res reason (s.arbN (arbReg 0x0030000)) = no res reason := rfl
  have harm := u.fwuArm_eq (s.arbN (arbReg 0x0030000))
  have hact (x : ShutIn) := u.fwuActivate_eq (s.arbN (arbReg 0x0030000)) x
  have hsvn := u.fwuSvncommit_eq (s.arbN (arbReg 0x0030000))
  rw [hjrn, hrsv] at harm
  simp only [hcas, hjrn, hrsv] at hact
  rw [hrsv, hrun, hfuses] at hsvn
  have hentry (j : Jrn) : ((u.journal j).fwuRes 0 0).jrnDone { j with seq := s.jrn.seq + 1 } := by
    have h := u.jrnDone_journal j
    rwa [hjrn] at h
  have hdbset : (u.fwuDbset (s.arbN (arbReg 0x0030000))).jrnDone
      { s.jrn with seq := s.jrn.seq + 1, db := true, st := if st = 3 ∨ st = 4 then 2 else st } := by
    have h := u.jrnDone_fwuDbset (s.arbN (arbReg 0x0030000))
    rwa [hjrn] at h
  rw [exec_fwuArm_of_writes hw hidle, exec_fwuDisarm_of_writes hw hidle, exec_fwuSvncommit_of_writes hw hidle,
    exec_fwuDbclr_of_writes hw hidle]
  simp only [exec_fwuActivate_of_writes hw hidle]
  refine ⟨fun hdb => ?armDb, fun hdb hr => ?armRsv, fun hdb hr hst => ?armState, fun hdb hr hst => ?arm, fun hst => ?disarm, fun hst => ?disarmState,
    fun x hc hr hdb hst => ?activate, fun x => ⟨fun hc => ?actCas, fun hc hr => ?actRsv, fun hc hr hdb => ?actDb, fun hc hr hdb hst => ?actState⟩,
    fun hr hgold hnew hshort => ?svn, fun hr hgold => ?svnGold, fun hr hgold hold => ?svnOld,
    ⟨_, exec_fwuDbset_of_writes hw hidle, hdbset.spec⟩, fun hmgt => ?dbclr, fun hother => congrArg _ (State.fwuDbclr_of_other _ hother), ?attest⟩
  case armDb => rw [harm, if_pos hdb, hno]
  case armRsv => rw [harm, hdb, if_neg Bool.false_ne_true, if_pos hr, hno]
  case armState => rw [harm, hdb, hr, if_neg Bool.false_ne_true, if_neg Bool.false_ne_true, if_neg (by omega), hno]
  case arm =>
    have hdone := State.jrnDone_armEvent (s.arbN (arbReg 0x0030000)) (hentry s.armedEntry)
    rw [hdb, hr, if_neg Bool.false_ne_true, if_neg Bool.false_ne_true, if_pos hst, harmed] at harm
    exact ⟨_, exec_fwuArm_of_writes hw hidle, harm ▸ hdone.spec⟩
  case disarm =>
    have hdone := State.jrnDone_armEvent (s.arbN (arbReg 0x0030000)) (hentry { s.jrn with st := 2 })
    have hrun := State.fwuDisarm_of_armed (s := u) (s.arbN (arbReg 0x0030000)) (hjrn.symm ▸ hst)
    rw [hjrn] at hrun
    exact ⟨_, exec_fwuDisarm_of_writes hw hidle, hrun ▸ hdone.spec⟩
  case disarmState =>
    have hunarmed : ¬(u.jrn.st = 3 ∨ u.jrn.st = 4) := by rw [hjrn]; omega
    rw [State.fwuDisarm_of_unarmed _ hunarmed, hno]
  case activate =>
    rw [hact, hc, hr, hdb, if_neg Bool.false_ne_true, if_neg Bool.false_ne_true, if_neg Bool.false_ne_true, if_pos hst]
  case actCas => rw [hact, if_pos hc, hno]
  case actRsv => rw [hact, hc, if_neg Bool.false_ne_true, if_pos hr, hno]
  case actDb => rw [hact, hc, hr, if_neg Bool.false_ne_true, if_neg Bool.false_ne_true, if_pos hdb, hno]
  case actState =>
    rw [hact, hc, hr, hdb, if_neg Bool.false_ne_true, if_neg Bool.false_ne_true, if_neg Bool.false_ne_true, if_neg hst, hno]
  case svn =>
    rw [hr, hgold, if_neg Bool.false_ne_true, if_neg Bool.false_ne_true, if_neg (Nat.not_le.mpr hnew), if_neg (Nat.not_lt.mpr hshort)] at hsvn
    obtain ⟨hburnt, hres, hshow⟩ := u.svnBurnt_spec (hrun.symm ▸ hshort)
    rw [hfuses, hrun] at hburnt
    rw [hrun] at hshow
    refine ⟨_, rfl, ?_⟩
    rw [hsvn]
    split
    · exact ⟨(State.post_fuses _ _).trans hburnt, (State.rf_post (not_evtReg_of_lt (by decide)) _ _ _ _).trans hres,
        (State.rf_post (not_evtReg_of_lt (by decide)) _ _ _ _).trans hshow⟩
    · exact ⟨hburnt, hres, hshow⟩
  case svnGold => rw [hsvn, hr, if_neg Bool.false_ne_true, if_pos hgold, hno]
  case svnOld => rw [hsvn, hr, hgold, if_neg Bool.false_ne_true, if_neg Bool.false_ne_true, if_pos hold, hno]
  case dbclr =>
    subst hmgt
    have hdone := hentry { s.jrn with db := false }
    have hrun := u.fwuDbclr_mgt (s.arbN (arbReg 0x0030000))
    rw [hjrn] at hrun
    exact ⟨_, exec_fwuDbclr_of_writes hw hidle, hrun ▸ hdone.spec⟩
  case attest =>
    have hnonce : u.fwuNonce = s.fwuNonce := by rw [hu]; rfl
    have haddr : u.fwuAddr = s.fwuAddr := by rw [hu]; rfl
    obtain ⟨hseq, hres, hout, hhost⟩ := u.fwuAttest_spec
    rw [hnonce, haddr] at hout hhost
    refine ⟨_, exec_fwuAttest_of_writes hw hidle, hseq.trans ?_, hres, hout.trans ?_, hhost⟩ <;> rw [hu] <;> rfl

end Sys2Proof.Machine
end

section
/-! PROOFS. R456, R458: STAGE writes an image to the sill and judges it. -/

namespace Sys2Proof.Machine

/-! ### The banks after an entry of the journal (R451) -/

/-- The fuses and the flash above the journals are the same. -/
def State.sameBanks (s t : State) : Prop :=
  t.fuses = s.fuses ∧ ∀ k, 0x50000 ≤ k → Assoc.get t.flash k 0xFF = Assoc.get s.flash k 0xFF

section Banks
variable {s t : State} (h : s.sameBanks t)
include h

theorem State.sameBanks.flashRead {a : Nat} (ha : 0x50000 ≤ a) (n : Nat) : t.flashRead a n = s.flashRead a n :=
  State.flashRead_congr fun j hj _ => h.2 j (Nat.le_trans ha hj)

theorem State.sameBanks.imgHdr {a : Nat} (ha : 0x50000 ≤ a) : t.imgHdr a = s.imgHdr a := by
  unfold State.imgHdr
  rw [h.flashRead ha]

theorem State.sameBanks.imgValid {a : Nat} (ha : 0x50000 ≤ a) : t.imgValid a = s.imgValid a := by
  unfold State.imgValid
  simp only [h.flashRead ha, h.flashRead (Nat.le_trans ha (Nat.le_add_right a 8192)), h.1]

theorem State.sameBanks.flashErase (a n : Nat) : (s.flashErase a n).sameBanks (t.flashErase a n) := by
  refine ⟨h.1, fun k hk => ?_⟩
  show Assoc.get (Assoc.clear t.flash a n) k 0xFF = Assoc.get (Assoc.clear s.flash a n) k 0xFF
  rw [Assoc.get_clear, Assoc.get_clear, h.2 k hk]

theorem State.sameBanks.flashWrite (a : Nat) (bs : List Nat) : (s.flashWrite a bs).sameBanks (t.flashWrite a bs) := by
  refine ⟨h.1, fun k hk => ?_⟩
  show Assoc.get (Assoc.splice t.flash a (bs.map (BitVec.ofNat 8)) 0xFF) k 0xFF =
    Assoc.get (Assoc.splice s.flash a (bs.map (BitVec.ofNat 8)) 0xFF) k 0xFF
  rw [Assoc.get_splice, Assoc.get_splice, h.2 k hk]

theorem State.sameBanks.journal (j : Jrn) : s.sameBanks (t.journal j) :=
  ⟨(t.journal_fuses j).trans h.1, fun k hk => (t.flash_journal_of_above j hk).trans (h.2 k hk)⟩

theorem State.sameBanks.fwuRes (res reason : Nat) : s.sameBanks (t.fwuRes res reason) :=
  ⟨(t.fwuRes_fuses res reason).trans h.1, fun k hk => (congrArg (Assoc.get · k 0xFF) (t.fwuRes_flash res reason)).trans (h.2 k hk)⟩

end Banks

/-! ### The image in the sill (R453, R458) -/

/-- The first k bytes of an image, in the sill erased for them. -/
def State.sillWith (s : State) (img : List Nat) (k : Nat) : State :=
  (s.flashErase bankSill (min bankSize (roundUp k 65536))).flashWrite bankSill (img.take k)

/-- The journal says STAGING and the host has been asked. -/
def State.stageBegun (s : State) : State := (s.journal { s.jrn with st := 1 }).hostAsk 0 s.fwuAddr (s.rf 0x0030010 23 0)

/-- The image that the host answers, as much as a bank holds. -/
def State.stageBytes (s : State) : List Nat := s.hostRead s.fwuAddr (min (s.rf 0x0030010 23 0) bankSize)

/-- The sill when k bytes of the image have been written. -/
def State.stagePut (s : State) (k : Nat) : State := s.stageBegun.sillWith s.stageBytes k

/-- R456: STAGE of an image that the host answers. -/
def State.stageRun (s : State) (cut : Option (Nat × Bool)) (n : Nat) : State :=
  let m := min (s.rf 0x0030010 23 0) bankSize
  match cut with
  | none => (s.stagePut m).stageDone (s.rf 0x0030010 23 0)
  | some (k, true) =>
    let t := (s.stagePut (min m (65536 * k))).setRf 0x1000014 2 2 1
    (t.journal { t.jrn with st := 0 }).fwuNo 2 2 n
  | some (k, false) => (s.stagePut (min m (65536 * k))).setRf rFwuStat 0 0 1

section Stage
variable (s : State) (cut : Option (Nat × Bool)) (n : Nat)

theorem State.fwuStage_elim : s.fwuStage cut n = (firstReason [(s.jrn.db, 3), (s.rsvLow, 2)]).elim
    (if s.hostAnswer s.fwuAddr (s.rf 0x0030010 23 0) != 0 then (s.stageBegun.journal { s.stageBegun.jrn with st := 0 }).fwuRes 4 0
      else s.stageRun cut n) (fun r => s.fwuNo 2 r n) := by
  unfold State.fwuStage
  cases firstReason [(s.jrn.db, 3), (s.rsvLow, 2)] <;> rfl

theorem State.fwuStage_eq : s.fwuStage cut n =
    if s.jrn.db then s.fwuNo 2 3 n else if s.rsvLow then s.fwuNo 2 2 n
    else if s.hostAnswer s.fwuAddr (s.rf 0x0030010 23 0) = 0 then s.stageRun cut n
    else (s.stageBegun.journal { s.stageBegun.jrn with st := 0 }).fwuRes 4 0 := by
  rw [State.fwuStage_elim, firstReason_elim_cons, firstReason_elim_cons, firstReason_elim_nil]
  by_cases h : s.hostAnswer s.fwuAddr (s.rf 0x0030010 23 0) = 0
  · rw [bne_eq_false_iff_eq.mpr h, if_pos h, if_neg Bool.false_ne_true]
  · rw [bne_iff_ne.mpr h, if_neg h, if_pos rfl]

theorem State.stageBegun_jrn : s.stageBegun.jrn = { s.jrn with st := 1, seq := s.jrn.seq + 1 } := by
  unfold State.stageBegun State.hostAsk
  rw [State.emit_jrn, State.journal_jrn]

theorem State.sameBanks_emit (o : Out) : s.sameBanks (s.emit o) := ⟨rfl, fun _ _ => rfl⟩

theorem State.sameBanks.trans {s t u : State} (h : s.sameBanks t) (g : t.sameBanks u) : s.sameBanks u :=
  ⟨g.1.trans h.1, fun k hk => (g.2 k hk).trans (h.2 k hk)⟩

theorem State.sameBanks_journal (j : Jrn) : s.sameBanks (s.journal j) :=
  State.sameBanks.journal (t := s) ⟨rfl, fun _ _ => rfl⟩ j

theorem State.sameBanks_stageBegun : s.sameBanks s.stageBegun :=
  (s.sameBanks_journal { s.jrn with st := 1 }).trans (State.sameBanks_emit _ _)

theorem State.stagePut_jrn (k : Nat) : (s.stagePut k).jrn = s.stageBegun.jrn := rfl

theorem roundUp_sector_le {n : Nat} (h : n ≤ bankSize) : min bankSize (roundUp n 65536) = roundUp n 65536 := by
  have hsize : bankSize = 128 * 65536 := rfl
  unfold roundUp
  omega

/-- The sill holds the whole image. -/
theorem State.sameBanks_stagePut (hn : s.rf 0x0030010 23 0 ≤ bankSize) :
    ((s.flashErase bankSill (roundUp (s.rf 0x0030010 23 0) 65536)).flashWrite bankSill
      (s.hostRead s.fwuAddr (s.rf 0x0030010 23 0))).sameBanks (s.stagePut (s.rf 0x0030010 23 0)) := by
  unfold State.stagePut State.sillWith State.stageBytes
  rw [roundUp_sector_le hn, Nat.min_eq_left hn, List.take_of_length_le (by rw [State.length_hostRead])]
  exact (s.sameBanks_stageBegun.flashErase _ _).flashWrite _ _

end Stage

/-! ### The image judged (R454, R458) -/

section Judge
variable (s : State) (len : Nat)

/-- The entry of an image that is staged. -/
def State.stagedEntry : Jrn :=
  { s.jrn with st := 2, svn := (s.imgHdr bankSill).svn, ver := (s.imgHdr bankSill).ver, len := (s.imgHdr bankSill).len
               dig := (s.imgHdr bankSill).dig.take 16, ctag := 0, epoch := 0 }

theorem State.stageDone_eq : s.stageDone len =
    if s.imgValid bankSill = true ∧ len = (s.imgHdr bankSill).len + 8192 then (s.journal s.stagedEntry).fwuRes 0 0
    else (s.journal { s.jrn with st := 0 }).fwuRes 3 0 := by
  unfold State.stageDone
  simp only [Bool.and_eq_true, beq_iff_eq]
  rfl

theorem State.sameBanks_stageDone : s.sameBanks (s.stageDone len) := by
  rw [State.stageDone_eq]
  split
  · exact (s.sameBanks_journal s.stagedEntry).fwuRes 0 0
  · exact (s.sameBanks_journal { s.jrn with st := 0 }).fwuRes 3 0

/-- R454: a valid image fits its bank. -/
theorem State.len_of_imgValid {base : Nat} (h : s.imgValid base = true) : (s.imgHdr base).len + 8192 ≤ bankSize := by
  unfold State.imgValid at h
  simp only [Bool.and_eq_true, decide_eq_true_eq] at h
  have hlen : leAt (s.flashRead base 8192) 16 4 ≤ 8380416 := h.1.1.1.1.2
  have hsize : bankSize = 8388608 := rfl
  have hhdr : (s.imgHdr base).len = leAt (s.flashRead base 8192) 16 4 := rfl
  omega

end Judge

/-- FWU_STAT shows STATE and a command's result; what a showsJrn says of it. -/
theorem State.showsJrn.result {t : State} {j : Jrn} {res reason : Nat} (h : t.showsJrn j res reason) (hst : j.st < 8) :
    t.jrn.st = j.st ∧ t.rf 0x0030004 13 11 = j.st ∧ t.rf 0x0030004 3 1 = res ∧ t.rf 0x0030004 7 4 = reason := by
  obtain ⟨hjrn, hres, hreason, -, hshow⟩ := h
  exact ⟨congrArg Jrn.st hjrn, hshow hst, hres, hreason⟩

theorem exec_fwuStage_of_writes {rq : Req} {s : State} (hw : s.writes rq 0x0030000 = true) (hidle : s.fwuBusy = false)
    (cut : Option (Nat × Bool)) : exec (.fwuStage rq cut) s = .next ((s.placed rq 0x0030000).fwuStage cut (s.arbN (arbReg 0x0030000))) :=
  congrArg Host.Outcome.next (State.wr32_fwuCmd hw hidle (op := 1) (by decide) ⟨cut, .none⟩)

section Results
variable (s : State) (n : Nat)

/-- R458: the host answers with an error. -/
theorem State.stage_unanswered : ((s.stageBegun.journal { s.stageBegun.jrn with st := 0 }).fwuRes 4 0).showsJrn
    { s.stageBegun.jrn with st := 0, seq := s.stageBegun.jrn.seq + 1 } 4 0 :=
  State.showsJrn_journal _ { s.stageBegun.jrn with st := 0 } (by decide) (by decide)

/-- R458: SUPPLY_RSV_L asserts meanwhile. -/
theorem State.stageRun_of_rsv (k : Nat) : ∃ t j, s.stageRun (some (k, true)) n = t ∧ t.showsJrn j 2 2 ∧ j.st = 0 ∧ t.rsvLow = true := by
  obtain ⟨t, ht⟩ : ∃ t, t = (s.stagePut (min (min (s.rf 0x0030010 23 0) bankSize) (65536 * k))).setRf 0x1000014 2 2 1 := ⟨_, rfl⟩
  have hrun : s.stageRun (some (k, true)) n = (t.journal { t.jrn with st := 0 }).fwuNo 2 2 n := by rw [ht]; rfl
  have hpin : t.rf 0x1000014 2 2 = 1 := by rw [ht]; exact State.rf_setRf_self _ _ _ (by decide) (by decide)
  refine ⟨_, _, hrun, (t.showsJrn_journal { t.jrn with st := 0 } (by decide) (by decide)).post _, rfl, ?_⟩
  rw [State.rsvLow, State.fwuNo, State.rf_post (by unfold evtReg; omega), State.rf_fwuRes_ne _ _ _ _ _ (by decide),
    State.rf_journal_ne _ _ _ _ (by decide), hpin]
  rfl

/-- R458: a reset comes meanwhile: the journal says STAGING. -/
theorem State.stageRun_of_reset (k : Nat) : (s.stageRun (some (k, false)) n).jrn.st = 1 ∧ (s.stageRun (some (k, false)) n).fwuBusy = true := by
  obtain ⟨t, ht⟩ : ∃ t, t = s.stagePut (min (min (s.rf 0x0030010 23 0) bankSize) (65536 * k)) := ⟨_, rfl⟩
  have hrun : s.stageRun (some (k, false)) n = t.setRf rFwuStat 0 0 1 := by rw [ht]; rfl
  rw [hrun]
  refine ⟨?_, ?_⟩
  · rw [State.setRf_jrn, ht, State.stagePut_jrn, State.stageBegun_jrn]
  · rw [State.fwuBusy, State.rf_setRf_self _ _ _ (by decide) (by decide)]
    rfl

end Results

section Whole
variable (s : State) (n : Nat)

theorem State.stageRun_of_fits (hn : s.rf 0x0030010 23 0 ≤ bankSize) :
    s.stageRun none n = (s.stagePut (s.rf 0x0030010 23 0)).stageDone (s.rf 0x0030010 23 0) := by
  unfold State.stageRun
  dsimp only
  rw [Nat.min_eq_left hn]

/-- R456: an image longer than a bank is not valid as long as its header says. -/
theorem State.stageRun_of_long (hn : bankSize < s.rf 0x0030010 23 0) : s.stageRun none n =
    ((s.stagePut bankSize).journal { (s.stagePut bankSize).jrn with st := 0 }).fwuRes 3 0 := by
  have hbad : ¬((s.stagePut bankSize).imgValid bankSill = true ∧ s.rf 0x0030010 23 0 = ((s.stagePut bankSize).imgHdr bankSill).len + 8192) :=
    fun ⟨hvalid, hlen⟩ => by
      have := State.len_of_imgValid _ hvalid
      omega
  unfold State.stageRun
  dsimp only
  rw [Nat.min_eq_right (Nat.le_of_lt hn), State.stageDone_eq, if_neg hbad]

/-- The bytes of an image in the sill. -/
theorem State.flashRead_sill (m : Nat) (a : Nat) :
    ((s.flashErase bankSill (roundUp m 65536)).flashWrite bankSill (s.hostRead a m)).flashRead bankSill m = s.hostRead a m := by
  have h := (s.flashErase bankSill (roundUp m 65536)).flashRead_flashWrite_self bankSill (s.hostRead a m)
  rwa [State.length_hostRead, map_mod_eq_self (s.hostRead_lt a m)] at h

end Whole

/-- Settles O41: STAGE by its reasons, by what cuts it short, and by the image in the sill. -/
theorem stageImage : Obligations.StageImage := by
  unfold Obligations.StageImage
  intro rq s hw hidle u no n res cut
  obtain ⟨l, hu⟩ := s.placed_eq_grant rq 0x0030000
  replace hu : u = { s.grant (arbReg 0x0030000) with unlock := l } := hu
  have hjrn : u.jrn = s.jrn := by rw [hu]; rfl
  have hrsv : u.rsvLow = s.rsvLow := by rw [hu]; rfl
  have hn : u.rf 0x0030010 23 0 = n := s.placed_rf rq _ _ _ _
  have haddr : u.fwuAddr = s.fwuAddr := by rw [hu]; rfl
  have hhost (a m : Nat) : u.hostRead a m = s.hostRead a m := by rw [hu]; rfl
  have hbad (a m : Nat) : u.hostAnswer a m = s.hostAnswer a m := by rw [hu]; rfl
  have hbanks : s.sameBanks u := by rw [hu]; exact ⟨rfl, fun _ _ => rfl⟩
  have hsill : 0x50000 ≤ bankSill := by decide
  have hstage (cut : Option (Nat × Bool)) := u.fwuStage_eq cut (s.arbN (arbReg 0x0030000))
  simp only [hjrn, hrsv, hn, haddr, hbad] at hstage
  have hexec (cut : Option (Nat × Bool)) := (exec_fwuStage_of_writes hw hidle cut).trans (congrArg Host.Outcome.next (hstage cut))
  refine ⟨fun hdb => ?db, fun hdb hr => ?rsv, fun hdb hr hans => ?unanswered, fun hdb hr hans => ?answered⟩
  case db => rw [hexec, if_pos hdb]; rfl
  case rsv => rw [hexec, hdb, if_neg Bool.false_ne_true, if_pos hr]; rfl
  case unanswered =>
    rw [hexec, hdb, hr, if_neg Bool.false_ne_true, if_neg Bool.false_ne_true, if_neg hans]
    exact ⟨_, rfl, u.stage_unanswered.result (Nat.zero_lt_succ 7),
      (((u.sameBanks_stageBegun.journal _).fwuRes 4 0).flashRead hsill _).trans (hbanks.flashRead hsill _)⟩
  case answered =>
    have hrun (cut : Option (Nat × Bool)) : exec (.fwuStage rq cut) s = .next (u.stageRun cut (s.arbN (arbReg 0x0030000))) := by
      rw [hexec, hdb, hr, if_neg Bool.false_ne_true, if_neg Bool.false_ne_true, if_pos hans]
    have hdbNow (k : Nat) : (u.stagePut k).jrn.db = false := by
      rw [State.stagePut_jrn, State.stageBegun_jrn, hjrn]; exact hdb
    refine ⟨fun hfits => ?fits, fun hlong => ?long, fun k => ?cutRsv, fun k => ?cutReset⟩
    case fits =>
      intro img w good
      have hput := u.sameBanks_stagePut (hn.symm ▸ hfits)
      rw [hn, haddr, hhost] at hput
      have hw : w.sameBanks (u.stagePut n) := ((hbanks.flashErase _ _).flashWrite _ _).trans hput
      have hgood : ((u.stagePut n).imgValid bankSill = true ∧ n = ((u.stagePut n).imgHdr bankSill).len + 8192) ↔ good := by
        rw [hw.imgValid hsill, hw.imgHdr hsill]
      have hwhole := u.stageRun_of_fits (s.arbN (arbReg 0x0030000)) (hn.symm ▸ hfits)
      rw [hn] at hwhole
      rw [hrun, hwhole]
      have hread : ((u.stagePut n).stageDone n).flashRead bankSill n = img :=
        ((State.sameBanks_stageDone _ _).flashRead hsill n).trans ((hw.flashRead hsill n).trans (s.flashRead_sill n s.fwuAddr))
      have hdone := (u.stagePut n).stageDone_eq n
      refine ⟨_, rfl, hread, ?_, fun h => ?_, fun h => ?_⟩
      · rw [hdone]
        split <;> rw [State.fwuRes_jrn, State.journal_jrn] <;> exact hdbNow n
      · rw [hdone, if_pos (hgood.mpr h)]
        have hshow := (u.stagePut n).showsJrn_journal (u.stagePut n).stagedEntry (res := 0) (reason := 0) (by decide) (by decide)
        refine ⟨hshow.result (show 2 < 8 by decide), ?_, ?_⟩ <;> rw [hshow.1] <;> unfold State.stagedEntry <;> dsimp only <;> rw [hw.imgHdr hsill]
      · rw [hdone, if_neg (mt hgood.mp h)]
        exact (State.showsJrn_journal _ { (u.stagePut n).jrn with st := 0 } (by decide) (by decide)).result (Nat.zero_lt_succ 7)
    case long =>
      rw [hrun, u.stageRun_of_long _ (hn.symm ▸ hlong)]
      exact ⟨_, rfl, (State.showsJrn_journal _ { (u.stagePut bankSize).jrn with st := 0 } (by decide) (by decide)).result (Nat.zero_lt_succ 7)⟩
    case cutRsv =>
      obtain ⟨t, j, ht, hshow, hst, hpin⟩ := u.stageRun_of_rsv (s.arbN (arbReg 0x0030000)) k
      have hres := hshow.result (hst ▸ Nat.zero_lt_succ 7)
      rw [hst] at hres
      exact ⟨t, (hrun _).trans (congrArg _ ht), hres, hpin⟩
    case cutReset =>
      obtain ⟨hst, hbusy⟩ := u.stageRun_of_reset (s.arbN (arbReg 0x0030000)) k
      exact ⟨_, hrun _, hst, hbusy⟩

end Sys2Proof.Machine
end

section
/-! SUPPORT. The order in which the scrubber visits hardened registers (R373). -/

namespace Sys2Proof.Machine

theorem leastOf_eq_min? (l : List Nat) : leastOf l = l.min? := by cases l <;> rfl

theorem leastOf_eq_some_iff {l : List Nat} {x : Nat} : leastOf l = some x ↔ x ∈ l ∧ ∀ y ∈ l, x ≤ y := by
  rw [leastOf_eq_min?, List.min?_eq_some_iff]

theorem leastOf_eq_none_iff {l : List Nat} : leastOf l = none ↔ l = [] := by rw [leastOf_eq_min?, List.min?_eq_none_iff]

/-- The strides of a row with several registers are not 0. -/
theorem visitRows_strides : ∀ r ∈ visitRows, (1 < r.n1 → 0 < r.st1) ∧ (1 < r.n2 → 0 < r.st2) := by
  have h : visitRows.all (fun r => (decide (r.n1 ≤ 1) || decide (0 < r.st1)) && (decide (r.n2 ≤ 1) || decide (0 < r.st2))) = true := by
    decide +kernel
  intro r hr
  have := List.all_eq_true.mp h r hr
  simp only [Bool.and_eq_true, Bool.or_eq_true, decide_eq_true_eq] at this
  omega

/-- The register of a row above p is above p. -/
theorem RRow.lt_of_after {r : RRow} {p x : Nat} (h1 : 1 < r.n1 → 0 < r.st1) (h2 : 1 < r.n2 → 0 < r.st2) (h : r.after p = some x) : p < x := by
  unfold RRow.after at h
  split at h
  · next hbase => exact Option.some.inj h ▸ hbase
  · next hbase =>
    dsimp only at h
    have hsplit := Nat.div_add_mod' (p - r.base) r.st1
    split at h
    · next hin =>
      have hnext := Nat.lt_mul_div_succ ((p - r.base) % r.st1) (h2 hin.2.1)
      rw [Nat.mul_comm] at hnext
      have hx := Option.some.inj h
      omega
    · split at h
      · next hin =>
        have hmod := Nat.mod_lt (p - r.base) (h1 (Nat.lt_of_le_of_lt (Nat.le_add_left 1 _) hin))
        have hx := Option.some.inj h
        rw [Nat.succ_mul] at hx
        omega
      · exact nomatch h

/-- R373: the next register lies above, or is the first. -/
theorem lt_hardNext_or_le (p : Nat) : p < hardNext p ∨ ∀ r, r ∈ visitRows → hardNext p ≤ r.base := by
  unfold hardNext
  split
  · next x hx =>
    obtain ⟨r, hr, hafter⟩ := List.mem_filterMap.mp (leastOf_eq_some_iff.mp hx).1
    obtain ⟨h1, h2⟩ := visitRows_strides r hr
    exact .inl (RRow.lt_of_after h1 h2 hafter)
  · refine .inr fun r hr => ?_
    have hbase : r.base ∈ visitRows.map (·.base) := List.mem_map_of_mem hr
    cases hleast : leastOf (visitRows.map (·.base)) with
    | none => rw [leastOf_eq_none_iff.mp hleast] at hbase; exact nomatch hbase
    | some x => exact (leastOf_eq_some_iff.mp hleast).2 _ hbase

end Sys2Proof.Machine
end

section
/-! SUPPORT. What the upsets of a visit leave in the three copies (R372, R373). -/

namespace Sys2Proof.Machine

/-- A copy with one flipped bit, or with its parity bit flipped (32). -/
def HCopy.upset (b : Nat) : HCopy := if b = 32 then ⟨0, true⟩ else ⟨2 ^ b, false⟩

theorem HCopy.good_upset {b : Nat} (h : b ≤ 32) : (HCopy.upset b).good = false := by
  have hall : ∀ b : Fin 33, (HCopy.upset b).good = false := by decide +kernel
  exact hall ⟨b, Nat.lt_succ_of_le h⟩

/-- The copies with those of l upset. -/
def HCopy.threeWith (l : List (Nat × Nat)) : List HCopy := l.foldl (fun cs f => flipCopy cs (f.1 % 3) f.2) HCopy.three

theorem HCopy.threeWith_one (c : Fin 3) {b : Nat} (h : b ≤ 32) :
    HCopy.threeWith [(c.val, b)] = setNth HCopy.three c (HCopy.upset b) := by
  have hall : ∀ (c : Fin 3) (b : Fin 33), HCopy.threeWith [(c.val, b.val)] = setNth HCopy.three c (HCopy.upset b) := by decide +kernel
  exact hall c ⟨b, Nat.lt_succ_of_le h⟩

/-- R373: with one copy upset the two others hold. -/
theorem heldCopy_one (c : Fin 3) {b : Nat} (h : b ≤ 32) : heldCopy (HCopy.threeWith [(c.val, b)]) = some ⟨0, false⟩ ∧
    (HCopy.threeWith [(c.val, b)]).all (· == ⟨0, false⟩) = false := by
  have hall : ∀ (c : Fin 3) (b : Fin 33), heldCopy (HCopy.threeWith [(c.val, b.val)]) = some ⟨0, false⟩ ∧
    (HCopy.threeWith [(c.val, b.val)]).all (· == ⟨0, false⟩) = false := by decide +kernel
  exact hall c ⟨b, Nat.lt_succ_of_le h⟩

theorem flipCopy_zero {cs : List HCopy} {c b : Nat} (hb : b ≤ 32) (h : cs.getD c ⟨0, false⟩ = ⟨0, false⟩) :
    flipCopy cs c b = setNth cs c (HCopy.upset b) := by
  unfold flipCopy HCopy.upset
  dsimp only
  rw [h]
  by_cases h32 : b = 32
  · rw [if_pos h32, if_pos h32]; rfl
  · rw [if_neg h32, if_neg h32, Nat.mod_eq_of_lt (by omega), Nat.zero_xor]

theorem getD_setNth_three {c e : Fin 3} (h : c ≠ e) (y : HCopy) : (setNth HCopy.three c y).getD e ⟨0, false⟩ = ⟨0, false⟩ := by
  have hne : c.val ≠ e.val := fun he => h (Fin.ext he)
  have hthree : HCopy.three.getD e ⟨0, false⟩ = ⟨0, false⟩ := by fin_cases e <;> rfl
  rw [setNth, List.getD_eq_getElem?_getD, List.getElem?_set_ne hne, ← List.getD_eq_getElem?_getD, hthree]

/-- Two bad copies leave one good copy. -/
theorem length_good_two {c e : Fin 3} (h : c ≠ e) {y z : HCopy} (hy : y.good = false) (hz : z.good = false) :
    ((setNth (setNth HCopy.three c y) e z).filter HCopy.good).length = 1 := by
  have hgood : HCopy.good ⟨0, false⟩ = true := by decide
  fin_cases c <;> fin_cases e <;> simp_all [setNth, HCopy.three, List.filter]

theorem heldCopy_of_few {cs : List HCopy} (h : (cs.filter HCopy.good).length ≤ 1) : heldCopy cs = none := by
  refine List.find?_eq_none.mpr fun x _ => ?_
  have hle := List.length_filter_le (· == x) (cs.filter HCopy.good)
  rw [decide_eq_true_eq]
  omega

/-- R373: with two copies upset nothing holds. -/
theorem heldCopy_two {c e : Fin 3} (h : c ≠ e) {b x : Nat} (hb : b ≤ 32) (hx : x ≤ 32) :
    heldCopy (HCopy.threeWith [(c.val, b), (e.val, x)]) = none := by
  have htwo : HCopy.threeWith [(c.val, b), (e.val, x)] = setNth (setNth HCopy.three c (HCopy.upset b)) e (HCopy.upset x) := by
    show flipCopy (HCopy.threeWith [(c.val, b)]) (e.val % 3) x = _
    rw [HCopy.threeWith_one c hb, Nat.mod_eq_of_lt e.isLt, flipCopy_zero hx (getD_setNth_three h _)]
  rw [htwo]
  exact heldCopy_of_few (Nat.le_of_eq (length_good_two h (HCopy.good_upset hb) (HCopy.good_upset hx)))

end Sys2Proof.Machine
end

section
/-! SUPPORT. What a comparison of working copies finds (R376 to R378), and what it leaves alone. -/

namespace Sys2Proof.Machine

/-! ### Frames -/

theorem State.injArmed_congr {s t : State} (h : ∀ k, k = 0x006010C ∨ k = 0x0060100 ∨ k = 0x0060104 ∨ k = 0x0020000 → t.reg k = s.reg k)
    (det unit : Nat) : t.injArmed det unit = s.injArmed det unit := by
  have hrf (k hi lo : Nat) (hk : k = 0x006010C ∨ k = 0x0060100 ∨ k = 0x0060104 ∨ k = 0x0020000) : t.rf k hi lo = s.rf k hi lo := by
    rw [State.rf, h k hk, State.rf]
  unfold State.injArmed
  rw [hrf 0x006010C 0 0 (by decide), hrf 0x0060100 7 0 (by decide), hrf 0x0060104 15 0 (by decide), hrf 0x0020000 2 0 (by decide)]

theorem State.mask_congr {s t : State} (h : t.cas = s.cas) (d : Nat) : t.mask d = s.mask d := by
  unfold State.mask State.casement
  rw [h]

theorem State.fieldUnit_congr {s t : State} (h : t.cas = s.cas) (off : Nat) : t.fieldUnit off = s.fieldUnit off := by
  unfold State.fieldUnit State.fieldUnits
  simp only [State.mask_congr h]

theorem State.cmpUnits_congr {s t : State} (h : t.cas = s.cas) (off : Nat) : t.cmpUnits off = s.cmpUnits off := by
  unfold State.cmpUnits
  simp only [State.mask_congr h]

/-! ### The units that compare (R376) -/

theorem nodup_diesOf (m : Nat) : (diesOf m).Nodup := List.nodup_range.filter _

theorem nodup_portsOf (m : Nat) : (portsOf m).Nodup := List.nodup_range.filter _

theorem mem_rangeFrom {a n x : Nat} : x ∈ rangeFrom a n ↔ a ≤ x ∧ x < a + n := by
  unfold rangeFrom
  rw [List.mem_map]
  constructor
  · rintro ⟨i, hi, rfl⟩
    have := List.mem_range.mp hi
    omega
  · intro h
    exact ⟨x - a, List.mem_range.mpr (by omega), by omega⟩

theorem nodup_slicesOf (m : Nat) : (slicesOf m).Nodup := by
  unfold slicesOf
  refine List.nodup_flatMap.mpr ⟨fun d _ => List.nodup_range.map fun i j h => Nat.add_left_cancel h, (nodup_diesOf m).imp fun {d e} hne x hx hy => ?_⟩
  rw [mem_rangeFrom] at hx hy
  omega

/-- No unit compares a register twice. -/
theorem State.nodup_cmpUnits (s : State) (off : Nat) : (s.cmpUnits off).Nodup := by
  unfold State.cmpUnits
  split
  · exact nodup_portsOf _
  · exact nodup_portsOf _
  · exact List.nodup_range
  · exact nodup_slicesOf _
  · exact List.nodup_singleton _
  · exact List.nodup_singleton _
  · exact List.nodup_nil

/-! ### Comparisons -/

section Compare
variable {s : State} {off : Nat}

theorem State.compare_of_unarmed (hinj : s.injArmed 0x0D (s.rf 0x0060104 15 0) = false) :
    s.compare off = (s.wcBad off).foldl (fun s x => s.disagree off x.1 x.2 false) s := by
  have hno : s.cmpInj off = false := by rw [State.cmpInj, hinj, Bool.and_false]
  unfold State.compare
  rw [hno]
  rfl

theorem State.wcDiffers_of_same {u : Nat} (hkind : cmpKind off ≠ 3) (h : s.wcDiff off u = 0) : s.wcDiffers off u = none := by
  have hzero : s.wcDiff off u &&& cmpMask off = 0 := by rw [h, Nat.zero_and]
  exact (if_neg hkind).trans (if_pos hzero)

theorem State.wcDiffers_of_upset {u : Nat} (hkind : cmpKind off ≠ 3) (h : s.wcDiff off u &&& cmpMask off ≠ 0) :
    s.wcDiffers off u = some ((s.reg off).toNat ^^^ s.wcDiff off u) := (if_neg hkind).trans (if_neg h)

/-- R376: the working copies agree. -/
theorem State.compare_of_same (hkind : cmpKind off ≠ 3) (hwc : s.wcopy = [])
    (hinj : s.injArmed 0x0D (s.rf 0x0060104 15 0) = false) : s.compare off = s := by
  have hbad : s.wcBad off = [] := List.filterMap_eq_nil_iff.mpr fun u _ => by
    have hdiff : s.wcDiff off u = 0 := by rw [State.wcDiff, hwc]; rfl
    rw [State.wcDiffers_of_same hkind hdiff]
    rfl
  rw [State.compare_of_unarmed hinj, hbad]
  rfl

theorem filterMap_eq_singleton {α β : Type} {f : α → Option β} {a : α} {b : β} {l : List α} (hl : l.Nodup) (ha : a ∈ l) (hb : f a = some b)
    (hno : ∀ x ∈ l, x ≠ a → f x = none) : l.filterMap f = [b] := by
  obtain ⟨l₁, l₂, rfl⟩ := List.append_of_mem ha
  have hmid := List.nodup_middle.mp hl
  have hnot := (List.nodup_cons.mp hmid).1
  rw [List.mem_append, not_or] at hnot
  have hnone (m : List α) (hm : a ∉ m) (hsub : ∀ x ∈ m, x ∈ l₁ ++ a :: l₂) : m.filterMap f = [] :=
    List.filterMap_eq_nil_iff.mpr fun x hx => hno x (hsub x hx) fun he => hm (he ▸ hx)
  rw [List.filterMap_append, List.filterMap_cons_some hb, hnone l₁ hnot.1 fun x hx => List.mem_append_left _ hx,
    hnone l₂ hnot.2 fun x hx => List.mem_append_right _ (List.mem_cons_of_mem _ hx)]
  rfl

/-- R376, R378: the working copy of one unit is upset. -/
theorem State.compare_of_upset {un x : Nat} (hkind : cmpKind off ≠ 3) (hwc : s.wcopy = []) (hun : un ∈ s.cmpUnits off)
    (hx : x &&& cmpMask off ≠ 0) (hinj : s.injArmed 0x0D (s.rf 0x0060104 15 0) = false) :
    (s.wcFlip off un x).wcDiff off un = x ∧
      (s.wcFlip off un x).compare off = (s.wcFlip off un x).disagree off un ((s.reg off).toNat ^^^ x) false := by
  have hbefore (u : Nat) : s.wcDiff off u = 0 := by rw [State.wcDiff, hwc]; rfl
  have hself : (s.wcFlip off un x).wcDiff off un = x := by
    unfold State.wcFlip
    rw [hbefore, Nat.zero_xor]
    exact Assoc.get_put_self _ _ _ _
  have hother (u : Nat) (hu : u ≠ un) : (s.wcFlip off un x).wcDiff off u = 0 := by
    have hne : off * 1024 + u ≠ off * 1024 + un := fun h => hu (Nat.add_left_cancel h)
    exact (Assoc.get_put_ne _ _ _ _ hne).trans (hbefore u)
  refine ⟨hself, ?_⟩
  have hbad : (s.wcFlip off un x).wcBad off = [(un, (s.reg off).toNat ^^^ x)] := by
    have hone := State.wcDiffers_of_upset (s := s.wcFlip off un x) (u := un) hkind (by rwa [hself])
    rw [hself] at hone
    refine filterMap_eq_singleton ((s.wcFlip off un x).nodup_cmpUnits off) hun ?_ fun u _ hu => ?_
    · rw [hone]; rfl
    · rw [State.wcDiffers_of_same hkind (hother u hu)]; rfl
  have hinj' : (s.wcFlip off un x).injArmed 0x0D ((s.wcFlip off un x).rf 0x0060104 15 0) = false := hinj
  rw [State.compare_of_unarmed hinj', hbad]
  rfl

end Compare

end Sys2Proof.Machine
end

section
/-! PROOFS. R372 to R374, R376 to R378: the scrubber's visit of a hardened register. -/

namespace Sys2Proof.Machine

/-! ### The copies at a visit (R373) -/

/-- The scrubber stands at the next register. -/
def State.atNext (s : State) : State := { s with hpos := hardNext s.hpos }

/-- The register takes the value of copies that agree with it. -/
def State.healed (s : State) (off : Nat) : State :=
  (s.setReg off (s.reg off ^^^ BitVec.ofNat 32 (0 &&& hrwMask off))).heal off

/-- R369: the event of a visit that finds an upset. -/
def State.copyEvent (s : State) (off : Nat) : State :=
  s.postArb (arbReg off) { kind := 2, det := 0x0C, unit := s.fieldUnit off, info := off }

section Visit
variable {s : State} {off : Nat} {cs : List HCopy}

theorem State.visitCopies_of_agree (h : heldCopy cs = some ⟨0, false⟩) (hall : cs.all (· == ⟨0, false⟩) = true) :
    s.visitCopies off cs false = (s.healed off).grant (arbReg off) := by
  unfold State.visitCopies
  rw [h]
  exact if_pos hall

theorem State.visitCopies_of_one (h : heldCopy cs = some ⟨0, false⟩) (hall : cs.all (· == ⟨0, false⟩) = false) :
    s.visitCopies off cs false = ((s.healed off).count 0x0060000 15 0 1).copyEvent off := by
  unfold State.visitCopies
  rw [h]
  exact if_neg (ne_true_of_eq_false hall)

theorem State.visitCopies_of_none (h : heldCopy cs = none) : s.visitCopies off cs false =
    ((State.count { s with hcopy := Assoc.put s.hcopy off cs HCopy.three } 0x0060000 31 16 1).copyEvent off).uncorrectable off := by
  unfold State.visitCopies
  rw [h]
  rfl

theorem State.reg_healed (k : Nat) : (s.healed off).reg k = s.reg k := by
  unfold State.healed
  rw [State.heal_reg, Nat.zero_and, show BitVec.ofNat 32 0 = 0#32 from rfl, BitVec.xor_zero]
  by_cases hk : k = off
  · subst hk; exact s.reg_setReg_self k _
  · exact s.reg_setReg_ne _ hk

end Visit

/-- The state after the copies: a register without hardened bits has none. -/
def State.copiesSeen (s : State) (fl : List (Nat × Nat)) : State :=
  if hrwMask (hardNext s.hpos) = 0 then s.atNext else s.atNext.visitCopies (hardNext s.hpos) (HCopy.threeWith fl) false

/-- The upsets that strike a bit of the register, or a parity bit. -/
def upsetsOf (off : Nat) (fl : List (Nat × Nat)) : List (Nat × Nat) := fl.filter (fun f => f.2 == 32 || bit (hrwMask off) f.2)

theorem upsetsOf_cons {off c b : Nat} {l : List (Nat × Nat)} (h : (b == 32 || bit (hrwMask off) b) = true) :
    upsetsOf off ((c, b) :: l) = (c, b) :: upsetsOf off l := List.filter_cons_of_pos h

section Scrub
variable {s : State} {fl : List (Nat × Nat)} (hout : s.held = false) (hsafe : s.isSafe = false) (harm : s.injArmed 0x0C 0 = false)
  (hthree : s.copies (hardNext s.hpos) = HCopy.three)
include hout hsafe harm hthree

theorem exec_hardenedScrubVisit_of_quiet : exec (.hardenedScrubVisit fl none) s =
    .next ((s.copiesSeen (upsetsOf (hardNext s.hpos) fl)).compare (hardNext s.hpos)) := by
  have hrun : ¬(s.held || s.isSafe) = true := by rw [hout, hsafe]; decide
  refine congrArg Host.Outcome.next ((if_neg hrun).trans ?_)
  unfold State.scrubVisit
  simp only [harm, hthree, Bool.false_and, Bool.false_eq_true, if_false]
  rfl

/-- A unit's working copy is upset. -/
theorem exec_hardenedScrubVisit_of_upset {un x : Nat} (hun : un ∈ (s.copiesSeen (upsetsOf (hardNext s.hpos) fl)).cmpUnits (hardNext s.hpos)) :
    exec (.hardenedScrubVisit fl (some (un, x))) s =
      .next (((s.copiesSeen (upsetsOf (hardNext s.hpos) fl)).wcFlip (hardNext s.hpos) un (x % 2 ^ 32)).compare (hardNext s.hpos)) := by
  have hrun : ¬(s.held || s.isSafe) = true := by rw [hout, hsafe]; decide
  refine congrArg Host.Outcome.next ((if_neg hrun).trans ?_)
  unfold State.scrubVisit
  simp only [harm, hthree, Bool.false_and, Bool.false_eq_true, if_false]
  exact congrArg (State.compare · (hardNext s.hpos)) (if_pos (List.contains_iff_mem.mpr hun))

end Scrub

/-- Where a visit stands, with the registers as they were. -/
def State.visitAt (s u : State) (off : Nat) : Prop := u.hpos = off ∧ u.fieldUnit off = s.fieldUnit off ∧ ∀ k, u.reg k = s.reg k

theorem State.visitAt_healed {s u : State} {off : Nat} (h : s.visitAt u off) : s.visitAt (u.healed off) off := by
  obtain ⟨hpos, hunit, hreg⟩ := h
  exact ⟨hpos, (State.fieldUnit_congr rfl off).trans hunit, fun k => State.reg_healed k |>.trans (hreg k)⟩

theorem State.visitAt_grant {s u : State} {off : Nat} (h : s.visitAt u off) (a : Nat) : s.visitAt (u.grant a) off := h

/-- R373: nothing upset. -/
theorem State.copiesSeen_nil {s : State} (hthree : s.copies (hardNext s.hpos) = HCopy.three) :
    s.visitAt (s.copiesSeen []) (hardNext s.hpos) ∧ (s.copiesSeen []).copies (hardNext s.hpos) = HCopy.three ∧
      (s.copiesSeen []).out = s.out ∧ (s.copiesSeen []).wcopy = s.wcopy ∧ (s.copiesSeen []).cas = s.cas := by
  have hat : s.visitAt s.atNext (hardNext s.hpos) := ⟨rfl, rfl, fun _ => rfl⟩
  unfold State.copiesSeen
  by_cases hm : hrwMask (hardNext s.hpos) = 0
  · rw [if_pos hm]
    exact ⟨hat, hthree, rfl, rfl, rfl⟩
  · rw [if_neg hm, State.visitCopies_of_agree (by decide) (by decide)]
    exact ⟨State.visitAt_grant (State.visitAt_healed hat) _, State.heal_copies_self _ _, rfl, rfl, rfl⟩

/-- R369: an event changes no register that says whether an injection is armed. -/
theorem State.injArmed_counted (s : State) (off hi lo det unit : Nat) :
    ((s.count 0x0060000 hi lo 1).copyEvent off).injArmed det unit = s.injArmed det unit := by
  refine State.injArmed_congr (fun k hk => ?_) det unit
  have hevt : ¬evtReg k := by unfold evtReg; omega
  rw [State.copyEvent, State.postArb, State.reg_post hevt, State.grant_reg, State.reg_count_ne _ _ _ _ (by omega)]

theorem State.rf_counted (s : State) (off hi lo : Nat) : ((s.count 0x0060000 hi lo 1).copyEvent off).rf 0x0060104 15 0 = s.rf 0x0060104 15 0 := by
  have hevt : ¬evtReg 0x0060104 := by unfold evtReg; omega
  rw [State.rf, State.copyEvent, State.postArb, State.reg_post hevt, State.grant_reg, State.reg_count_ne _ _ _ _ (by decide), State.rf]

@[simp] theorem State.post_wcopy (s : State) (e : Ev) : (s.post e).wcopy = s.wcopy := by
  obtain ⟨_, _, _, _, _, h⟩ := s.post_frame e
  rw [h]

theorem State.wcopy_counted (s : State) (off hi lo : Nat) : ((s.count 0x0060000 hi lo 1).copyEvent off).wcopy = s.wcopy := by
  unfold State.copyEvent State.postArb
  rw [State.post_wcopy, State.grant_wcopy, State.count_wcopy]

/-! ### Uncorrectable registers, fences, comparisons that fail (R374, R378) -/

/-- R374: an entry takes its reset value. -/
theorem State.reg_uncorrectable_entry {s : State} {off : Nat} (h : isEntry off = true) (ho : off % 4 = 0) :
    (s.uncorrectable off).reg off = regReset off := by
  have hspan : (entrySpan off).1 ≤ off ∧ off < (entrySpan off).1 + (entrySpan off).2 := by
    unfold entrySpan
    split
    · exact ⟨Nat.le_refl off, by dsimp only; omega⟩
    · exact ⟨by dsimp only; omega, by dsimp only; omega⟩
  have hrun : s.uncorrectable off = (s.resetRegs (entrySpan off).1 (entrySpan off).2).heal off := if_pos h
  rw [hrun, State.heal_reg, State.reg_resetRegs, if_pos hspan]

/-- What the safe state shows in the registers (R448). -/
def State.safeShown (s : State) (cause : Nat) : State :=
  (List.range 16).foldl (fun s f => s.setRf (0x0040000 + 0x100 * f) 0 0 0)
    ((List.range 8).foldl (fun s p => s.setRf (rPort p 0) 2 0 0)
      (((s.raise 0x0020808 8).setReg 0x0020810 (BitVec.ofNat 32 cause)).setRf 0x1000014 6 5 2))

theorem State.regs_enterSafe (s : State) (cause : Nat) : (s.enterSafe cause).regs = (s.safeShown cause).regs := by rw [State.enterSafe, State.safeShown]

theorem State.reg_enterSafe (s : State) (cause k : Nat) : (s.enterSafe cause).reg k = (s.safeShown cause).reg k := by
  rw [State.reg, State.regs_enterSafe, State.reg]

theorem State.reg_safeShown (s : State) (cause : Nat) {k : Nat} (hk : k < 0x0040000 ∨ 0x0300000 ≤ k) : (s.safeShown cause).reg k =
    (((s.raise 0x0020808 8).setReg 0x0020810 (BitVec.ofNat 32 cause)).setRf 0x1000014 6 5 2).reg k := by
  unfold State.safeShown
  refine Eq.trans (foldl_same (State.reg · k) (fun v f hf => ?_) _) (foldl_same (State.reg · k) (fun v p hp => ?_) _)
  · have := List.mem_range.mp hf
    exact v.reg_setRf_ne _ _ _ (by omega)
  · have := List.mem_range.mp hp
    exact v.reg_setRf_ne _ _ _ (by unfold rPort; omega)

/-- R448: the safe state shows its cause. -/
theorem State.safeShown_shows (s : State) (cause : Nat) :
    (s.safeShown cause).isSafe = true ∧ (s.safeShown cause).reg 0x0020810 = BitVec.ofNat 32 cause := by
  refine ⟨?_, ?_⟩
  · rw [State.isSafe, State.rf, State.reg_safeShown _ _ (.inl (by decide)), State.reg_setRf_ne _ _ _ _ (by decide),
      State.reg_setReg_ne _ _ (by decide)]
    exact beq_iff_eq.mpr (State.rf_setRf_self _ _ _ (by decide) (by decide))
  · rw [State.reg_safeShown _ _ (.inl (by decide)), State.reg_setRf_ne _ _ _ _ (by decide), State.reg_setReg_self]

theorem State.enterSafe_shows (s : State) (cause : Nat) :
    (s.enterSafe cause).isSafe = true ∧ (s.enterSafe cause).reg 0x0020810 = BitVec.ofNat 32 cause := by
  rw [State.isSafe, State.rf, State.reg_enterSafe, State.reg_enterSafe]
  exact s.safeShown_shows cause

theorem State.uncorrectable_of_vital {s : State} {off : Nat} (he : isEntry off = false) (hv : isVital off = true) :
    s.uncorrectable off = s.enterSafe 8 := (if_neg (ne_true_of_eq_false he)).trans (if_pos hv)

theorem State.uncorrectable_of_owned {s : State} {off : Nat} (he : isEntry off = false) (hv : isVital off = false) :
    s.uncorrectable off = (s.fieldUnits off).foldl (fun s u => s.fence u.1 u.2) s :=
  (if_neg (ne_true_of_eq_false he)).trans (if_neg (ne_true_of_eq_false hv))

/-- The state before a fenced block is noted. -/
def State.fencing (s : State) (cls idx : Nat) : State :=
  let s1 := if cls = 3 then s.sliceBack idx (s.dirtyOf idx).length else s
  if cls = clsBlock then s1 else (s1.shutOff cls idx).shtStat cls idx

/-- R378: a fenced block takes no work. -/
theorem State.blkDown_fence (s : State) (cls idx : Nat) : (s.fence cls idx).blkDown cls idx = true := by
  have hin : NSet.mem (NSet.insert (s.fencing cls idx).fenced (blkNo cls idx)) (blkNo cls idx) = true := by
    rw [NSet.mem_insert, decide_eq_true rfl, Bool.true_or]
  have hfenced : (s.fence cls idx).fenced = NSet.insert (s.fencing cls idx).fenced (blkNo cls idx) := by
    show State.fenced (if cls = 4 then _ else _) = _
    split <;> rfl
  rw [State.blkDown, hfenced, hin, Bool.or_true]

/-- R378: what the log of a failed comparison shows. -/
def State.mismatchLogged (s : State) (off unit : Nat) : State :=
  ((s.setRf 0x0060300 3 0 (cmpKind off)).setRf 0x0060300 19 4 unit).count 0x0060304 15 0 1

theorem State.mismatchLogged_shows (s : State) (off unit : Nat) : (s.mismatchLogged off unit).rf 0x0060300 3 0 = cmpKind off % 16 ∧
    (s.mismatchLogged off unit).rf 0x0060300 19 4 = unit % 65536 ∧
    (s.mismatchLogged off unit).rf 0x0060304 15 0 = min 65535 (s.rf 0x0060304 15 0 + 1) := by
  unfold State.mismatchLogged State.count
  refine ⟨?_, ?_, ?_⟩
  · rw [State.rf_setRf_ne _ _ _ _ _ _ (by decide), State.rf_setRf_other _ _ _ (by decide) (by decide) (.inl (by decide)),
      State.rf_setRf_self _ _ _ (by decide) (by decide)]
    rfl
  · rw [State.rf_setRf_ne _ _ _ _ _ _ (by decide), State.rf_setRf_self _ _ _ (by decide) (by decide)]
    rfl
  · rw [State.rf_setRf_self _ _ _ (by decide) (by decide), State.rf_setRf_ne _ _ _ _ _ _ (by decide),
      State.rf_setRf_ne _ _ _ _ _ _ (by decide), satAdd]
    omega

/-- Settles O43: the visit by its copies and its working copies; what an uncorrectable register, a fence and a failed comparison do. -/
theorem hardenedVisit : Obligations.HardenedVisit := by
  unfold Obligations.HardenedVisit
  refine ⟨fun fl wc s hheld => ?held, lt_hardNext_or_le, fun s hout hsafe harm hcmp => ?visit, fun off s => ⟨fun he ho _ => ?entry, fun he hv => ?vital,
    State.uncorrectable_of_owned⟩, fun cls idx s => s.blkDown_fence cls idx, fun off un w s => ?mismatch⟩
  case held =>
    have hstay : (s.held || s.isSafe) = true := by rw [Bool.or_eq_true]; exact hheld
    exact congrArg Host.Outcome.next (if_pos hstay)
  case entry => exact State.reg_uncorrectable_entry he ho
  case vital =>
    rw [State.uncorrectable_of_vital he hv]
    exact s.enterSafe_shows 8
  case mismatch =>
    obtain ⟨hkind, hunit, hcount⟩ := s.mismatchLogged_shows off un
    exact ⟨s.mismatchLogged off un, hkind, hunit, hcount, rfl⟩
  case visit =>
    intro off ev at_ hit hthree hwc hkind
    obtain ⟨hat, hcopies, hsame, hwc', hcas⟩ := State.copiesSeen_nil hthree
    have hcmp' : (s.copiesSeen []).injArmed 0x0D ((s.copiesSeen []).rf 0x0060104 15 0) = false := by
      rw [State.rf, hat.2.2]
      exact (State.injArmed_congr (fun k _ => hat.2.2 k) _ _).trans hcmp
    have hhit {b : Nat} (h : hit b) : b ≤ 32 := h.elim Nat.le_of_eq fun h => Nat.le_of_lt h.1
    have hkept {b : Nat} (h : hit b) : (b == 32 || bit (hrwMask off) b) = true := by
      rw [Bool.or_eq_true, beq_iff_eq]
      exact h.imp_right And.right
    refine ⟨?none, fun c b hb hm => ?one, fun c e b x hne hb hx hm => ?two, fun un x hun hx hmask => ?copy⟩
    case none =>
      exact ⟨s.copiesSeen [], (exec_hardenedScrubVisit_of_quiet hout hsafe harm hthree).trans
        (congrArg Host.Outcome.next (State.compare_of_same hkind (hwc'.trans hwc) hcmp')), hat, hcopies, hsame⟩
    case one =>
      obtain ⟨hheld, hall⟩ := heldCopy_one c (hhit hb)
      have hups : upsetsOf off [(c.val, b)] = [(c.val, b)] := upsetsOf_cons (hkept hb)
      have hseen : s.copiesSeen [(c.val, b)] = ((s.atNext.healed off).count 0x0060000 15 0 1).copyEvent off :=
        (if_neg hm).trans (State.visitCopies_of_one hheld hall)
      have hatHealed : s.visitAt (s.atNext.healed off) off := State.visitAt_healed ⟨rfl, rfl, fun _ => rfl⟩
      have hwcHealed : (((s.atNext.healed off).count 0x0060000 15 0 1).copyEvent off).wcopy = [] := (State.wcopy_counted _ _ _ _).trans hwc
      have hev : ev = { kind := 2, det := 0x0C, unit := ((s.atNext.healed off).count 0x0060000 15 0 1).fieldUnit off, info := off } := rfl
      refine ⟨s.atNext.healed off, hatHealed, State.heal_copies_self _ _, (exec_hardenedScrubVisit_of_quiet hout hsafe harm hthree).trans
        (congrArg Host.Outcome.next ?_)⟩
      rw [show hardNext s.hpos = off from rfl, hups, hseen, State.compare_of_same hkind hwcHealed ?_, hev]
      · rfl
      · rw [State.rf_counted, State.injArmed_counted, State.rf, hatHealed.2.2]
        exact (State.injArmed_congr (fun k _ => hatHealed.2.2 k) _ _).trans hcmp
    case two =>
      have hnone := heldCopy_two hne (hhit hb) (hhit hx)
      have hups : upsetsOf off [(c.val, b), (e.val, x)] = [(c.val, b), (e.val, x)] := by
        rw [upsetsOf_cons (hkept hb), upsetsOf_cons (hkept hx)]
        rfl
      have hseen : s.copiesSeen [(c.val, b), (e.val, x)] = s.atNext.visitCopies off (HCopy.threeWith [(c.val, b), (e.val, x)]) false := if_neg hm
      refine ⟨{ s.atNext with hcopy := Assoc.put s.atNext.hcopy off (HCopy.threeWith [(c.val, b), (e.val, x)]) HCopy.three },
        ⟨rfl, rfl, fun _ => rfl⟩, (exec_hardenedScrubVisit_of_quiet hout hsafe harm hthree).trans (congrArg Host.Outcome.next ?_)⟩
      rw [show hardNext s.hpos = off from rfl, hups, hseen, State.visitCopies_of_none hnone]
      rfl
    case copy =>
      have hun' : un ∈ (s.copiesSeen []).cmpUnits off := by rw [State.cmpUnits_congr hcas]; exact hun
      obtain ⟨hdiff, hcompare⟩ := State.compare_of_upset hkind (hwc'.trans hwc) hun' hmask hcmp'
      have hword : (s.copiesSeen []).wcFlip off un (x % 2 ^ 32) = (s.copiesSeen []).wcFlip off un x := by rw [Nat.mod_eq_of_lt hx]
      rw [hat.2.2] at hcompare
      exact ⟨(s.copiesSeen []).wcFlip off un x, ⟨hat.1, hat.2.1, hat.2.2⟩, hdiff,
        (exec_hardenedScrubVisit_of_upset hout hsafe harm hthree (fl := []) hun').trans
          (congrArg Host.Outcome.next ((congrArg (State.compare · off) hword).trans hcompare))⟩

end Sys2Proof.Machine
end

section
/-! PROOFS. R395, R434 to R440, R447, R448, R450: BRINGUP. -/

namespace Sys2Proof.Machine

/-! ### Registers of a family (R9) -/

section Family
variable {l : List Nat} {hi lo v : Nat} (a : Nat → Nat)

theorem State.rf_foldl_setRf_self {i : Nat} (hmem : i ∈ l) (hlo : lo ≤ hi + 1) (hhi : hi < 32) (s : State) :
    (l.foldl (fun s j => s.setRf (a j) hi lo v) s).rf (a i) hi lo = v % 2 ^ (hi + 1 - lo) := by
  refine foldl_establishes (P := fun u => State.rf u (a i) hi lo = v % 2 ^ (hi + 1 - lo)) hmem
    (fun u => State.rf_setRf_self _ _ _ hlo hhi) (fun u j _ hu => ?_) s
  by_cases hj : a i = a j
  · rw [hj]; exact State.rf_setRf_self _ _ _ hlo hhi
  · exact (u.rf_setRf_ne _ _ _ _ _ hj).trans hu

theorem State.reg_foldl_setRf_ne {k : Nat} (h : ∀ j, j ∈ l → k ≠ a j) (s : State) :
    (l.foldl (fun s j => s.setRf (a j) hi lo v) s).reg k = s.reg k :=
  foldl_same (fun u => State.reg u k) (fun u j hj => u.reg_setRf_ne _ _ _ (h j hj)) s

end Family

/-- The two bits of a field. -/
theorem State.rf_bits_of_pair (s : State) (k lo : Nat) : s.rf k lo lo = s.rf k (lo + 1) lo % 2 ∧
    s.rf k (lo + 1) (lo + 1) = s.rf k (lo + 1) lo / 2 := by
  unfold State.rf rfld fld
  rw [Nat.add_sub_cancel_left, Nat.add_sub_cancel_left, show lo + 1 + 1 - lo = 2 by omega, Nat.shiftRight_succ]
  omega

/-! ### What each step shows (R434, R395, R440, R448) -/

/-- The registers that option loading sets (R434). -/
def State.optionShown (s : State) (b : BringIn) : State :=
  ((List.range 4).foldl (fun s d => s.setRf (0x1000100 + 4 * d) 21 12 750)
    (((List.range 4).foldl (fun s n => s.setReg (0x10 + 4 * n) (BitVec.ofNat 32 (s.fuses.serial / 2 ^ (32 * n)))) s.showLife).setReg 0x0200000
      (BitVec.ofNat 32 (b.straps % 65536 + 65536)))).setRf rCause 24 24 1

theorem State.rf_optionLoad {s : State} {b : BringIn} (h : b.optOk = true) (k hi lo : Nat) :
    (s.optionLoad b).rf k hi lo = (s.optionShown b).rf k hi lo := by
  have hregs : (s.optionLoad b).regs = (s.optionShown b).regs := by
    have hopt : ¬(!b.optOk) = true := by rw [h]; decide
    unfold State.optionLoad
    rw [if_neg hopt]
    extract_lets s1 s2 s3
    have hshown : s.optionShown b = s3.setRf rCause 24 24 1 := by rw [State.optionShown]
    rw [hshown]
  rw [State.rf, State.reg, hregs, State.rf, State.reg]

/-- R434: the straps, and the start-up voltage. -/
theorem State.optionLoad_spec (s : State) {b : BringIn} (h : b.optOk = true) : (s.optionLoad b).loaded = true ∧
    (s.optionLoad b).pkgId = b.straps % 65536 ∧ (s.optionLoad b).rf 0x0200000 16 16 = 1 ∧
    ∀ d, d < 4 → (s.optionLoad b).rf (0x1000100 + 4 * d) 21 12 = 750 := by
  have hstraps (hi lo : Nat) : (s.optionLoad b).rf 0x0200000 hi lo = rfld (BitVec.ofNat 32 (b.straps % 65536 + 65536)) hi lo := by
    rw [State.rf_optionLoad h, State.optionShown, State.rf_setRf_ne _ _ _ _ _ _ (by decide), State.rf,
      State.reg_foldl_setRf_ne (fun d => 0x1000100 + 4 * d) (fun d _ => by omega), State.reg_setReg_self]
  refine ⟨?_, ?_, ?_, fun d hd => ?_⟩
  · rw [State.loaded, State.rf_optionLoad h]
    exact beq_iff_eq.mpr (State.rf_setRf_self _ _ _ (by decide) (by decide))
  · rw [State.pkgId, hstraps, rfld, fld, BitVec.toNat_ofNat]
    omega
  · rw [hstraps, rfld, fld, BitVec.toNat_ofNat]
    omega
  · rw [State.rf_optionLoad h, State.optionShown, State.rf_setRf_ne _ _ _ _ _ _ (by unfold rCause; omega)]
    exact State.rf_foldl_setRf_self (fun d => 0x1000100 + 4 * d) (List.mem_range.mpr hd) (by decide) (by decide) _

theorem State.ready395_spec (s : State) : s.ready395.regs = s.regs ∧ s.ready395.boot.cfg = s.boot.cfg ∧ s.ready395.boot.link = s.boot.link := by
  unfold State.ready395
  split
  · exact ⟨rfl, rfl, rfl⟩
  · exact ⟨rfl, rfl, rfl⟩

theorem State.isSafe_linkUp (s : State) : s.linkUp.isSafe = s.isSafe := by
  have hregs : s.linkUp.regs = s.regs := (State.ready395_spec _).1
  rw [State.isSafe, State.rf, State.reg, hregs, State.isSafe, State.rf, State.reg]

/-- R450: STEP is not the word that shows the safe state. -/
theorem State.isSafe_atStep (s : State) (k : Nat) : (s.atStep k).isSafe = s.isSafe := by
  rw [State.isSafe, State.atStep, State.rf_setRf_other _ _ _ (by decide) (by decide) (.inr (by decide)), State.isSafe]

/-- R440: READY_L, STEP 9 and every function's intake. -/
theorem State.readyUp_spec (u : State) : u.readyUp.isReady = true ∧ u.readyUp.rf 0x0020808 3 0 = 9 ∧ u.readyUp.rf 0x1000014 6 6 = 0 ∧
    ∀ f, f < 16 → u.readyUp.rf (rItk f 0) 0 0 = 1 := by
  have hlow {k : Nat} (hk : ∀ f, f < 16 → k ≠ 0x0040000 + 0x100 * f) (hi lo : Nat) :
      u.readyUp.rf k hi lo = ((u.atStep 9).setRf 0x1000014 6 5 1).rf k hi lo := by
    rw [State.rf, State.readyUp, State.reg_foldl_setRf_ne (fun f => 0x0040000 + 0x100 * f) (fun f hf => hk f (List.mem_range.mp hf)), State.rf]
  have hpins : u.readyUp.rf 0x1000014 6 5 = 1 := by
    rw [hlow (fun f _ => by omega)]
    exact State.rf_setRf_self _ _ _ (by decide) (by decide)
  obtain ⟨hready, hfault⟩ := u.readyUp.rf_bits_of_pair 0x1000014 5
  rw [hpins] at hready hfault
  refine ⟨?_, ?_, hfault, fun f hf => ?_⟩
  · rw [State.isReady, hready]; rfl
  · rw [hlow (fun f _ => by omega), State.rf_setRf_ne _ _ _ _ _ _ (by decide)]
    exact State.rf_setRf_self _ _ _ (by decide) (by decide)
  · rw [rItk_eq, State.readyUp]
    exact State.rf_foldl_setRf_self (fun f => 0x0040000 + 0x100 * f) (List.mem_range.mpr hf) (by decide) (by decide) _

theorem State.reg_safeUp (s : State) (cause k : Nat) : (s.safeUp cause).reg k = (s.safeShown cause).reg k := by
  have hregs : (s.safeUp cause).regs = (s.safeShown cause).regs := by rw [State.safeUp, State.regs_enterSafe]
  rw [State.reg, hregs, State.reg]

/-- R448: every port is held in reset. -/
theorem State.portState_safeUp (s : State) (cause : Nat) {p : Nat} (hp : p < 8) : (s.safeUp cause).portState p = 0 := by
  rw [State.portState, State.rf, State.reg_safeUp, State.safeShown,
    State.reg_foldl_setRf_ne (fun f => 0x0040000 + 0x100 * f) (fun f _ => by have := List.mem_range.mp ‹_›; unfold rPort; omega)]
  exact State.rf_foldl_setRf_self (fun p => rPort p 0) (List.mem_range.mpr hp) (by decide) (by decide) _

theorem State.isSafe_safeUp (s : State) (cause : Nat) : (s.safeUp cause).isSafe = true := by
  rw [State.isSafe, State.rf, State.reg_safeUp]
  exact (s.safeShown_shows cause).1

/-- R448: the safe state. -/
theorem State.safeUp_spec (c : Nat) (u : State) : (u.safeUp c).isSafe = true ∧ (u.safeUp c).reg 0x0020810 = BitVec.ofNat 32 c ∧
    (u.safeUp c).isReady = false ∧ (u.safeUp c).rf 0x1000014 6 6 = 1 ∧ (u.safeUp c).rf 0x0020808 3 0 = u.rf 0x0020808 3 0 ∧
    (∀ p, p < 8 → (u.safeUp c).portState p = 0) ∧ ∀ d, ((u.safeUp c).casement d).exist = false := by
  have hpins : (u.safeUp c).rf 0x1000014 6 5 = 2 := by
    rw [State.rf, State.reg_safeUp, State.reg_safeShown _ _ (.inr (by decide))]
    exact State.rf_setRf_self _ _ _ (by decide) (by decide)
  obtain ⟨hready, hfault⟩ := (u.safeUp c).rf_bits_of_pair 0x1000014 5
  rw [hpins] at hready hfault
  refine ⟨u.isSafe_safeUp c, (u.reg_safeUp c _).trans (u.safeShown_shows c).2, ?_, hfault, ?_, fun p hp => u.portState_safeUp c hp, fun d => ?_⟩
  · rw [State.isReady, hready]; rfl
  · rw [State.rf, State.reg_safeUp, State.reg_safeShown _ _ (.inl (by decide)), State.reg_setRf_ne _ _ _ _ (by decide),
      State.reg_setReg_ne _ _ (by decide)]
    exact State.rf_setRf_other _ _ _ (by decide) (by decide) (.inl (by decide))
  · have hcas : (u.safeUp c).cas = [] := rfl
    rw [State.casement, hcas]
    rfl

/-! ### The steps in order (R436, R437) -/

theorem State.andThen_of_safe {s : State} (f : State → State) (h : s.isSafe = true) : s.andThen f = s := if_pos h

theorem State.andThen_of_up {s : State} (f : State → State) (h : s.isSafe = false) : s.andThen f = f s := if_neg (ne_true_of_eq_false h)

theorem State.andThen_safeUp (s : State) (cause : Nat) (f : State → State) : (s.safeUp cause).andThen f = s.safeUp cause :=
  State.andThen_of_safe f (s.isSafe_safeUp cause)

/-- Step 2, where options are not loaded. -/
def State.optionsUp (s : State) (b : BringIn) : State := if s.loaded then s else (s.setRf 0x0020808 3 0 2).optionLoad b

theorem exec_bringup (b : BringIn) {s : State} (hheld : s.sysHeld = false) (hsafe : s.isSafe = false) (hstep : s.rf 0x0020808 3 0 ≠ 9) :
    exec (.bringup b) s = .next (((b.flash.foldl (fun s x => s.flashBoard x.1 x.2) s).optionsUp b).andThen (fun s =>
      (if b.regDead.isEmpty then s else s.safeUp 10).andThen (fun s => s.stepsUp b (s.hubFails b)))) := by
  have hrun : ¬(s.sysHeld || s.isSafe || s.rf 0x0020808 3 0 == 9) = true := by
    rw [hheld, hsafe, Bool.false_or, Bool.false_or, beq_iff_eq]
    exact hstep
  exact congrArg Host.Outcome.next (if_neg hrun)

section Steps
variable {s : State} {b : BringIn}

theorem State.regulators_of_dead (hup : s.isSafe = false) (h : b.regDead ≠ []) (f : State → State) : s.andThen (fun s =>
    (if b.regDead.isEmpty then s else s.safeUp 10).andThen f) = s.safeUp 10 := by
  have hdead : ¬b.regDead.isEmpty = true := fun hempty => h (List.isEmpty_iff.mp hempty)
  rw [State.andThen_of_up _ hup, if_neg hdead, State.andThen_safeUp]

theorem State.regulators_of_up (hup : s.isSafe = false) (h : b.regDead = []) (f : State → State) : s.andThen (fun s =>
    (if b.regDead.isEmpty then s else s.safeUp 10).andThen f) = f s := by
  rw [State.andThen_of_up _ hup, if_pos (List.isEmpty_iff.mpr h), State.andThen_of_up _ hup]

/-- R447: a hub unit other than the PCIe core fails. -/
theorem State.stepsUp_of_hub {h : Nat} (h0 : h ≠ 0) (h2 : h ≠ 2) : s.stepsUp b h = (s.setRf 0x0020808 3 0 3).safeUp h := by
  have hno : ¬(h = 0 ∨ h = 2) := by omega
  unfold State.stepsUp State.atStep
  dsimp only
  rw [if_neg hno, State.andThen_safeUp]

/-- R459: the boot ROM finds no image. -/
theorem State.stepsUp_of_noImage {h : Nat} (hhub : h = 0 ∨ h = 2) (hsafe : (s.setRf 0x0020808 3 0 3).bootRom.isSafe = true) :
    s.stepsUp b h = (s.setRf 0x0020808 3 0 3).bootRom := by
  unfold State.stepsUp State.atStep
  dsimp only
  rw [if_pos hhub]
  exact State.andThen_of_safe _ hsafe

/-- R447: the PCIe core fails. -/
theorem State.stepsUp_of_pcie (hup : (s.setRf 0x0020808 3 0 3).bootRom.isSafe = false) :
    s.stepsUp b 2 = ((s.setRf 0x0020808 3 0 3).bootRom.setRf 0x0020808 3 0 4).safeUp 2 := by
  unfold State.stepsUp State.atStep
  dsimp only
  rw [if_pos (.inr rfl), State.andThen_of_up _ hup, if_pos rfl, State.andThen_safeUp]

/-- R436: the link is enabled and what is not built is built. -/
theorem State.stepsUp_of_good (hup : (s.setRf 0x0020808 3 0 3).bootRom.isSafe = false) {t : State}
    (ht : t = ((s.setRf 0x0020808 3 0 3).bootRom.setRf 0x0020808 3 0 4).linkUp) :
    s.stepsUp b 0 = (if t.boot.built then t else t.buildUp b).andThen State.readyUp := by
  have hlink : (((s.setRf 0x0020808 3 0 3).bootRom.setRf 0x0020808 3 0 4).linkUp).isSafe = false := by
    rw [State.isSafe_linkUp]; exact (State.isSafe_atStep _ 4).trans hup
  unfold State.stepsUp State.atStep
  dsimp only
  rw [if_pos (.inl rfl), State.andThen_of_up _ hup, if_neg (by decide), State.andThen_of_up _ hlink, ht]

end Steps

/-- Settles O52: the steps in order, and what option loading, the link, READY_L and the safe state show. -/
theorem bringsUp : Obligations.BringsUp := by
  unfold Obligations.BringsUp
  refine ⟨fun b s hheld hsafe hstep => ?steps, fun b u h => u.optionLoad_spec h, fun u => (State.ready395_spec _).2, State.readyUp_spec, State.safeUp_spec⟩
  case steps =>
    intro s0 s1 h s3 s4 s5 on
    have hrun := exec_bringup b hheld hsafe hstep
    have hon (o : on) : exec (.bringup b) s = .next (s1.stepsUp b h) :=
      hrun.trans (congrArg Host.Outcome.next (State.regulators_of_up o.1 o.2 _))
    have hgood (o : on) (hh : h = 0) (hup : s3.isSafe = false) :
        exec (.bringup b) s = .next ((if s4.boot.built then s4 else s4.buildUp b).andThen State.readyUp) := by
      rw [hon o, hh, State.stepsUp_of_good hup rfl]
    have hup4 (hup : s3.isSafe = false) : s4.isSafe = false := by
      rw [State.isSafe_linkUp]; exact (State.isSafe_atStep _ _).trans hup
    refine ⟨fun hl ho => ?options, fun hup hdead => ?regulators, fun o h0 h2 => ?hub, fun o hh hno => ?image, fun o hh hup => ?pcie,
      fun o hh hup hb => ?built, fun o hh hup hb h5 => ?unbuilt, fun o hh hup hb h5 => ?ready⟩
    case options =>
      have hopt : s0.optionsUp b = (s0.setRf 0x0020808 3 0 2).safeUp 6 := by
        rw [State.optionsUp, if_neg (ne_true_of_eq_false hl), State.optionLoad, ho]
        rfl
      rw [hrun, hopt, State.andThen_safeUp]
    case regulators => exact hrun.trans (congrArg Host.Outcome.next (State.regulators_of_dead hup hdead _))
    case hub => rw [hon o, State.stepsUp_of_hub h0 h2]
    case image => exact (hon o).trans (congrArg Host.Outcome.next (State.stepsUp_of_noImage hh hno))
    case pcie => rw [hon o, hh]; exact congrArg Host.Outcome.next (State.stepsUp_of_pcie hup)
    case built => rw [hgood o hh hup, if_pos hb, State.andThen_of_up _ (hup4 hup)]
    case unbuilt => rw [hgood o hh hup, if_neg (ne_true_of_eq_false hb), State.andThen_of_safe _ h5]
    case ready => rw [hgood o hh hup, if_neg (ne_true_of_eq_false hb), State.andThen_of_up _ h5]

end Sys2Proof.Machine
end

section
/-! SUPPORT. A port's link that goes down, and a HOLD, change no register below the event rings (R329, R334, R342, R359, R360). -/

namespace Sys2Proof.Machine

section Low
variable {k : Nat} (hk : k < 0x0050000)
include hk

theorem State.reg_injFire (s : State) : s.injFire.reg k = s.reg k := by
  rw [State.injFire, State.reg_setRf_ne _ _ _ _ (by omega), State.raise, State.reg_setRf_ne _ _ _ _ (by omega), State.reg_setRf_ne _ _ _ _ (by omega)]

theorem State.reg_sendNow (s : State) (p : Nat) (x : Port) (fr : Frame) : (s.sendNow p x fr).reg k = s.reg k := by
  unfold State.sendNow
  extract_lets dig line out s1
  have hfire : s1.reg k = s.reg k := by
    show State.reg (if _ then _ else _) k = _
    split
    · exact s.reg_injFire hk
    · rfl
  rw [State.emit_reg, State.setPort_reg]
  exact hfire

theorem State.reg_pumpTx (s : State) (p n : Nat) : (s.pumpTx p n).reg k = s.reg k := by
  induction n generalizing s with
  | zero => rfl
  | succ n ih =>
    rw [State.pumpTx]
    split
    · rfl
    · split
      · exact (ih _).trans (s.reg_sendNow hk p _ _)
      · rfl

theorem State.reg_sendTo (s : State) (dest ctag psn : Nat) (b : FBody) : (s.sendTo dest ctag psn b).1.reg k = s.reg k := by
  unfold State.sendTo
  extract_lets fr
  split
  · exact State.reg_pumpTx hk _ _ _
  · rfl

omit hk in
theorem State.reg_mapIdxLts (s : State) (d : Nat) (f : Nat → LTile → LTile) : (s.mapIdxLts d f).reg k = s.reg k :=
  foldl_same (f := fun u t => State.setLt u d t (f t (u.lt d t))) (fun u => State.reg u k) (fun _ _ _ => rfl) s

omit hk in
theorem State.reg_endBy (s : State) (f : Nat → LTile → LTile) (d n : Nat) : (s.endBy f d n).reg k = s.reg k := by
  unfold State.endBy
  extract_lets c s1
  have hstop : s1.reg k = s.reg k := s.reg_mapIdxLts d f
  split
  · split
    · exact hstop
    · exact hstop
  · rfl

theorem State.reg_enterHold (s : State) (d cause n : Nat) : (s.enterHold d cause n).reg k = s.reg k := by
  by_cases hlive : s.fabState d = 1
  · have hholding : (s.holding d cause).reg k = s.reg k := by
      show State.reg ((s.setRf (rFab d 0x18) 1 0 2).setRf (rFab d 0x18) 11 8 cause) k = _
      rw [State.reg_setRf_ne _ _ _ _ (by unfold rFab; omega), State.reg_setRf_ne _ _ _ _ (by unfold rFab; omega)]
    rw [State.enterHold, if_pos hlive]
    refine ((State.reg_endBy _ _ _ _).trans (State.reg_post (not_evtReg_of_lt hk) _ _)).trans (Eq.trans ?_ hholding)
    exact foldl_same (fun u => State.reg u k) (fun u m _ => u.reg_sendTo hk _ _ _ _) (s.holding d cause)
  · rw [State.enterHold_of_not_live cause n hlive]

theorem State.reg_linkGone (s : State) (p st : Nat) (all : Bool) (n : Nat) : (s.linkGone p st all n).reg k = s.reg k := by
  unfold State.linkGone
  extract_lets nbr x hit s1
  have hdown : s1.reg k = s.reg k := s.reg_setRf_ne _ _ _ (by unfold rPort; omega)
  exact (foldl_same (fun u => State.reg u k) (fun u d _ => u.reg_enterHold hk d 1 n) s1).trans hdown

end Low

end Sys2Proof.Machine
end

section
/-! PROOFS. R442, R444 to R446: the seal test's scheduler, its end and its record. -/

namespace Sys2Proof.Machine

/-! ### The end of a test (R444) -/

/-- What LCB_SEAL_STAT shows as a test ends. -/
def State.sealEnded (s : State) (st reason : Nat) : State := ((s.setRf 0x0020804 2 0 st).setRf 0x0020804 11 8 reason).post { kind := 9, info := st }

theorem State.reg_sealStop (s : State) (st reason : Nat) {k : Nat} (hk : k < 0x0050000) :
    (s.sealStop st reason).reg k = ((s.setRf 0x0020804 2 0 st).setRf 0x0020804 11 8 reason).reg k := by
  have hended : (s.sealEnded st reason).reg k = ((s.setRf 0x0020804 2 0 st).setRf 0x0020804 11 8 reason).reg k :=
    State.reg_post (not_evtReg_of_lt hk) _ _
  unfold State.sealStop
  extract_lets ended s1
  have hs1 : s1.reg k = ended.reg k := rfl
  have hgone : ((List.range 8).foldl (fun s p => s.linkGone p 0 true) s1).reg k = s1.reg k :=
    foldl_same (f := fun s p => State.linkGone s p 0 true) (fun u => State.reg u k) (fun u p _ => u.reg_linkGone hk p 0 true 0) s1
  clear_value s1
  split
  · exact (hgone.trans hs1).trans hended
  · exact hs1.trans hended

theorem State.sealStop_spec {st reason : Nat} (hst : st < 8) (hreason : reason < 16) (s : State) :
    (s.sealStop st reason).sealState = st ∧ (s.sealStop st reason).rf 0x0020804 11 8 = reason := by
  refine ⟨?_, ?_⟩
  · rw [State.sealState, State.rf, State.reg_sealStop _ _ _ (by decide), ← State.rf,
      State.rf_setRf_other _ _ _ (by decide) (by decide) (.inl (by decide)), State.rf_setRf_self _ _ _ (by decide) (by decide)]
    exact Nat.mod_eq_of_lt hst
  · rw [State.rf, State.reg_sealStop _ _ _ (by decide), ← State.rf, State.rf_setRf_self _ _ _ (by decide) (by decide)]
    exact Nat.mod_eq_of_lt hreason

/-! ### The scheduler (R442) -/

section Admit
variable {x : SealSt} {cap : Nat}

/-- A test or a wave of tiles starts. -/
def SealSt.starts (x : SealSt) (r : Nat × Nat) (y : SealSt) : Prop := y.running = x.running ++ [r]

theorem SealSt.power_of_starts {y : SealSt} {r : Nat × Nat} (h : x.starts r y) : y.power = x.power + r.2 := by
  rw [SealSt.power, h, List.map_append, List.foldl_append, SealSt.power]
  exact (Nat.add_assoc _ _ _).symm

/-- R442: what the scheduler admits: nothing; a stack or slice; a wave of tiles; or, with every tile tested, another test. -/
theorem SealSt.admitTests_cases (x : SealSt) (cap : Nat) : x.admitTests cap = x ∨ ∃ r, x.starts r (x.admitTests cap) ∧
    (x.power ≤ cap → x.power + r.2 ≤ cap) ∧ (200 ≤ r.1 → r.1 < 1000 → x.tiles = 0 ∧ ∀ q, q ∈ x.running → q.1 < 1000) := by
  have hfits {n : Nat} (h : (x.beside n && decide (x.power + testPower n ≤ cap)) = true) : x.power + testPower n ≤ cap :=
    of_decide_eq_true (Bool.and_eq_true_iff.mp h).2
  unfold SealSt.admitTests
  extract_lets fits take w
  split
  · next n hn =>
    have hfound := List.find?_some hn
    rw [Bool.and_eq_true, decide_eq_true_eq] at hfound
    exact .inr ⟨(n, testPower n), rfl, fun _ => hfits hfound.2, fun h _ => absurd hfound.1 (Nat.not_lt.mpr h)⟩
  · split
    · split
      · exact .inl rfl
      · refine .inr ⟨(1000 + w, 8 * w), rfl, fun hle => ?_, fun _ h => absurd h (by dsimp only; omega)⟩
        have hw : w ≤ (cap - x.power) / 8 / 4 * 4 := by
          show SealSt.wave x cap ≤ _
          unfold SealSt.wave
          split
          · exact Nat.zero_le _
          · exact Nat.min_le_right _ _
        dsimp only
        omega
    · next hidle =>
      rw [not_or, Nat.not_lt, Nat.le_zero, List.any_eq_true, not_exists] at hidle
      obtain ⟨htiles, hwaves⟩ := hidle
      split
      · next n hn =>
        have hfound := List.find?_some hn
        rw [Bool.and_eq_true] at hfound
        refine .inr ⟨(n, testPower n), rfl, fun _ => hfits hfound.2, fun _ _ => ⟨htiles, fun q hq => ?_⟩⟩
        exact Nat.lt_of_not_le fun hge => hwaves q ⟨hq, decide_eq_true hge⟩
      · exact .inl rfl

theorem SealSt.power_admitTests (h : x.power ≤ cap) : (x.admitTests cap).power ≤ cap := by
  obtain hsame | ⟨r, hstart, hpower, -⟩ := x.admitTests_cases cap
  · rw [hsame]; exact h
  · rw [SealSt.power_of_starts hstart]; exact hpower h

/-- R442: the tests that wait for the tiles. -/
theorem SealSt.tiles_of_admitted {r : Nat × Nat} (hin : r ∈ (x.admitTests cap).running) (hnew : r ∉ x.running) (hlo : 200 ≤ r.1) (hhi : r.1 < 1000) :
    x.tiles = 0 ∧ ∀ q, q ∈ x.running → q.1 < 1000 := by
  obtain hsame | ⟨a, hstart, -, hwait⟩ := x.admitTests_cases cap
  · exact absurd (hsame ▸ hin) hnew
  · rw [hstart, List.mem_append, List.mem_singleton] at hin
    obtain rfl := hin.resolve_left hnew
    exact hwait hlo hhi

end Admit

/-! ### The commands (R442, R444, R446) -/

/-- R446: there are two slots. -/
theorem State.bestSlot_cases (s : State) : s.bestSlot = none ∨ s.bestSlot = some 0 ∨ s.bestSlot = some 1 := by
  unfold State.bestSlot
  dsimp only
  split
  · split
    · exact .inr (.inr rfl)
    · exact .inr (.inl rfl)
  · exact .inr (.inl rfl)
  · exact .inr (.inr rfl)
  · exact .inl rfl

/-- R446: the slot that does not hold the best record. -/
theorem State.targetSlot_eq (s : State) : (match s.bestSlot with | some 0 => 1 | _ => 0) = (match s.bestSlot with | some i => 1 - i | none => 0) := by
  obtain h | h | h := s.bestSlot_cases <;> rw [h] <;> rfl

section Commands
variable {s : State}

theorem exec_testAdmit (done : List Nat) (h : s.sealState = 1) : exec (.testAdmit done) s = .next (s.testAdmit done) :=
  congrArg Host.Outcome.next (if_pos h)

theorem exec_sealTestComplete (r : SealIn) (h : s.sealState = 1) (htodo : s.sealing.todo = []) (htiles : s.sealing.tiles = 0)
    (hrun : s.sealing.running = []) : exec (.sealTestComplete r) s = .next (s.sealDone r) :=
  congrArg Host.Outcome.next (if_pos ⟨h, htodo, htiles, hrun⟩)

end Commands

/-- Settles O53: the boundaries of the test, the record's slot, the end of a test, and the scheduler's limits (sealTests is the model's list
of tests). -/
theorem sealTests_hold : Obligations.SealTests := by
  unfold Obligations.SealTests
  refine ⟨fun done s hrun => ?boundary, fun r s hrun htodo htiles hnone => ?complete,
    fun st reason s hst hreason => State.sealStop_spec hst hreason s, fun cap x => ⟨SealSt.power_admitTests, fun r => SealSt.tiles_of_admitted⟩⟩
  case boundary =>
    intro x y u
    refine ⟨fun hrsv => ?_, fun hrsv hle => ?_, fun hrsv hgt => ?_⟩
    · exact (exec_testAdmit done hrun).trans (congrArg Host.Outcome.next (if_pos hrsv))
    · refine (exec_testAdmit done hrun).trans (congrArg Host.Outcome.next ((if_neg (ne_true_of_eq_false hrsv)).trans ?_))
      rw [if_pos hle]
    · refine (exec_testAdmit done hrun).trans (congrArg Host.Outcome.next ((if_neg (ne_true_of_eq_false hrsv)).trans ?_))
      rw [if_neg (Nat.not_le.mpr hgt)]
  case complete =>
    intro u
    refine ⟨fun hrsv => ?_, fun hrsv hflash => ?_, fun hrsv hflash => ?_⟩
    · exact (exec_sealTestComplete r hrun htodo htiles hnone).trans (congrArg Host.Outcome.next (if_pos hrsv))
    · have hbad : (!r.flashOk) = true := by rw [hflash]; rfl
      exact (exec_sealTestComplete r hrun htodo htiles hnone).trans
        (congrArg Host.Outcome.next ((if_neg (ne_true_of_eq_false hrsv)).trans (if_pos hbad)))
    · have hgood : ¬(!r.flashOk) = true := by rw [hflash]; decide
      intro j no
      refine (exec_sealTestComplete r hrun htodo htiles hnone).trans
        (congrArg Host.Outcome.next ((if_neg (ne_true_of_eq_false hrsv)).trans ((if_neg hgood).trans ?_)))
      exact congrArg (fun t => ((u.flashErase (slotBase t) 65536).flashWrite (slotBase t) (s.sealRecord r no)).sealStop 2 0) s.targetSlot_eq

end Sys2Proof.Machine
end

section
/-! SUPPORT. Steps of a fold that act on one part each; hardened fields that a block's reset reaches (R374, R427). -/

namespace Sys2Proof.Machine

/-- Of the steps of a fold, a's alone acts on what g shows, as h says. -/
theorem foldl_acts_once {σ α β : Type} {f : σ → α → σ} (g : σ → β) (h : β → β) {l : List α} {a : α} (ha : a ∈ l) (hl : l.Nodup)
    (hself : ∀ u, g (f u a) = h (g u)) (hother : ∀ u b, b ≠ a → g (f u b) = g u) (s : σ) : g (l.foldl f s) = h (g s) := by
  obtain ⟨l₁, l₂, rfl⟩ := List.append_of_mem ha
  have hnot := (List.nodup_cons.mp (List.nodup_middle.mp hl)).1
  rw [List.mem_append, not_or] at hnot
  have hbefore := foldl_same g (fun u b hb => hother u b fun he => hnot.1 (he ▸ hb)) s
  have hafter := foldl_same g (l := l₂) (fun u b hb => hother u b fun he => hnot.2 (he ▸ hb))
  rw [List.foldl_append, List.foldl_cons, hafter, hself, hbefore]

theorem NSet.mem_erase_self (l : List Nat) (k : Nat) : NSet.mem (NSet.erase l k) k = false := by
  rw [← Bool.not_eq_true, NSet.mem_iff, NSet.erase_eq, List.mem_filter, decide_eq_true_eq]
  exact fun h => h.2 rfl

section Fields
variable {out : Nat → Bool}

/-- A register that no hardened field's reset reaches. -/
theorem State.reg_fieldsReset (s : State) {k : Nat} (h : ∀ off, hrwMask off ≠ 0 → out off = true → ¬(off ≤ k ∧ k < off + 4)) :
    (s.fieldsReset out).reg k = s.reg k := by
  refine foldl_same (f := fun s off => (State.resetRegs s off 4).heal off) (fun u => State.reg u k) (fun u off hoff => ?_) s
  obtain ⟨-, hreset⟩ := List.mem_filter.mp hoff
  rw [Bool.and_eq_true, bne_iff_ne] at hreset
  rw [State.heal_reg, State.reg_resetRegs, if_neg (h off hreset.1 hreset.2)]

theorem State.fn_fieldsReset (s : State) (f : Nat) : (s.fieldsReset out).fn f = s.fn f :=
  foldl_same (f := fun s off => (State.resetRegs s off 4).heal off) (fun u => State.fn u f) (fun _ _ _ => rfl) s

end Fields

/-- R374: the hardened fields of a tile lie in its window. -/
theorem State.le_of_fieldUnits_tile {s : State} {off p : Nat} (h : (0, p) ∈ s.fieldUnits off) : rTil p 0 ≤ off := by
  unfold State.fieldUnits at h
  split at h
  · cases List.mem_singleton.mp h
    unfold rTil
    omega
  · split at h
    · obtain ⟨_, -, hx⟩ := List.mem_map.mp h; cases hx
    · split at h
      · obtain ⟨_, -, hx⟩ := List.mem_map.mp h; cases hx
      · cases List.mem_singleton.mp h

/-- R208: TIL_ID is not hardened. -/
theorem hrwMask_rTil {p : Nat} (hp : p < 640) : hrwMask (rTil p 0) = 0 := by
  rw [hrwMask, rowAt_rTil hp]
  decide

/-- R208: a tile is a spare after reset. -/
theorem rfld_regReset_rTil {p : Nat} (hp : p < 640) : rfld (regReset (rTil p 0)) 13 12 = 1 := by
  have hk : rTil p 0 % 2 ^ 26 = rTil p 0 := Nat.mod_eq_of_lt (by unfold rTil; omega)
  have hpos : (rTil p 0 - 0x0800000) / 0x1000 = p := by unfold rTil; omega
  have hdie : dieOfTile p < 4 := by unfold dieOfTile; omega
  unfold regReset
  dsimp only
  rw [hk, rowAt_rTil hp, hpos]
  dsimp only
  rw [show rowTilId.rst = 0x1FFF1000 from rfl, if_pos (show rowTilId.base = 0x0800000 from rfl), rfld, fld, BitVec.toNat_ofNat]
  omega

end Sys2Proof.Machine
end

section
/-! PROOFS. R423, R427, R428, R431: shutters of block resets, and function-level reset. -/

namespace Sys2Proof.Machine

/-! ### Shutters (R427) -/

theorem eq_of_ite_some {c : Prop} [Decidable c] {x y r b : Nat} (h : (if c then some (x, y) else none) = some (r, b)) : c ∧ r = x ∧ b = y := by
  split at h
  · next hc => cases h; exact ⟨hc, rfl, rfl⟩
  · cases h

/-- R449: the request bits. -/
theorem rstBit_bounds {cls idx r b : Nat} (h : rstBit cls idx = some (r, b)) : b < 32 ∧ r ≤ 0x0010160 ∧ (cls = 0 → idx < 640) := by
  unfold rstBit at h
  split at h
  case h_7 => cases h
  all_goals
    obtain ⟨hc, rfl, rfl⟩ := eq_of_ite_some h
    omega

section Shutter
variable {s : State} {cls idx : Nat}

theorem State.shutter_of_requested {r b : Nat} (hrst : rstBit cls idx = some (r, b)) (hreq : s.rf r b b = 1)
    (hopen : NSet.mem s.shut (blkNo cls idx) = false) :
    s.shutter cls idx = { (s.shutOff cls idx).shtStat cls idx with
      shut := NSet.insert ((s.shutOff cls idx).shtStat cls idx).shut (blkNo cls idx) } := by
  have hgo : ¬(s.rf r b b = 0 ∨ NSet.mem s.shut (blkNo cls idx) = true) := by rw [hreq, hopen]; decide
  unfold State.shutter
  rw [hrst]
  exact if_neg hgo

/-- R428: a block in its shutter takes no work. -/
theorem State.blkDown_of_shut (h : NSet.mem s.shut (blkNo cls idx) = true) : s.blkDown cls idx = true := by
  rw [State.blkDown, h, Bool.true_or]

theorem exec_shutterDrained (x : ShutIn) (h : NSet.mem s.shut (blkNo cls idx) = true) : exec (.shutterDrained cls idx x) s =
    .next ((if cls = 3 then s.sliceBack idx (s.dirtyOf idx).length else s).release x cls idx) := congrArg Host.Outcome.next (if_pos h)

theorem exec_shutterTimeout (x : ShutIn) (done : Nat) (h : NSet.mem s.shut (blkNo cls idx) = true) : exec (.shutterTimeout cls idx done x) s =
    .next (((if cls = 3 then s.sliceBack idx done else s).forced cls idx).release x cls idx) := congrArg Host.Outcome.next (if_pos h)

end Shutter

/-! ### Reset and release (R427 steps 5 and 6) -/

/-- The block's own reset, with its hardened fields and its working copies. -/
def State.ownReset (s : State) (x : ShutIn) (cls idx : Nat) : State :=
  ((s.resetBlock x cls idx).fieldsReset (fun off => (s.fieldUnits off).contains (cls, idx))).wcReset cls idx

/-- The block takes work again. -/
def State.reopened (s : State) (cls idx : Nat) : State :=
  { s with shut := NSet.erase s.shut (blkNo cls idx), fenced := NSet.erase s.fenced (blkNo cls idx) }

section Release
variable {s : State} {cls idx r b : Nat} (hrst : rstBit cls idx = some (r, b)) (x : ShutIn)
include hrst

theorem State.release_of_rstBit : s.release x cls idx = ((s.ownReset x cls idx).reopened cls idx).setRf r b b 0 := by
  rw [State.release, hrst, State.ownReset, State.reopened]

theorem State.blkDown_release : (s.release x cls idx).blkDown cls idx = false := by
  have hopen : ((s.ownReset x cls idx).reopened cls idx).blkDown cls idx = false := by
    rw [State.blkDown, State.reopened, NSet.mem_erase_self, NSet.mem_erase_self]
    rfl
  rw [State.release_of_rstBit hrst]
  exact hopen

theorem State.rf_release : (s.release x cls idx).rf r b b = 0 := by
  rw [State.release_of_rstBit hrst, State.rf_setRf_self _ _ _ (Nat.le_succ b) (rstBit_bounds hrst).1, Nat.zero_mod]

/-- The registers above RST are as the block's reset leaves them. -/
theorem State.reg_release {k : Nat} (hk : 0x0010160 < k) : (s.release x cls idx).reg k = (s.ownReset x cls idx).reg k := by
  have hne : k ≠ r := by have := (rstBit_bounds hrst).2.1; omega
  rw [State.release_of_rstBit hrst, State.reg_setRf_ne _ _ _ _ hne, State.reg, State.reopened, State.reg]

end Release

/-- R206, R229: a tile that is reset is a spare, unless it is mapped out or failing. -/
theorem State.tilState_resetTile (s : State) {p : Nat} (hp : p < 640) :
    (s.resetTile p).tilState p = if s.tilState p = 3 then 3 else if (s.tile p).failing then 2 else 1 := by
  unfold State.resetTile
  extract_lets st bad s1 fresh s2
  have hset (v : Nat) (hv : v < 4) : (s2.setTilState p v).tilState p = v :=
    (State.rf_setRf_self _ _ _ (by decide) (by decide)).trans (Nat.mod_eq_of_lt hv)
  have hfresh : s2.tilState p = 1 := by
    have hreg : s1.reg (rTil p 0) = regReset (rTil p 0) := by
      rw [State.reg_resetRegs, if_pos ⟨Nat.le_refl _, Nat.lt_add_of_pos_right (by decide)⟩]
    have hs2 : s2.tilState p = rfld (s1.reg (rTil p 0)) 13 12 := rfl
    rw [hs2, hreg, rfld_regReset_rTil hp]
  by_cases h3 : st = 3
  · rw [if_pos h3]
    exact (hset 3 (by decide)).trans (if_pos h3).symm
  · rw [if_neg h3]
    refine Eq.trans ?_ (if_neg h3).symm
    by_cases hbad : bad = true
    · rw [if_pos hbad]
      exact (hset 2 (by decide)).trans (if_pos hbad).symm
    · rw [if_neg hbad]
      exact hfresh.trans (if_neg hbad).symm

theorem State.tilState_release {s : State} {p r b : Nat} (hrst : rstBit 0 p = some (r, b)) (x : ShutIn) :
    (s.release x 0 p).tilState p = if s.tilState p = 3 then 3 else if (s.tile p).failing then 2 else 1 := by
  have hp := (rstBit_bounds hrst).2.2 rfl
  have hfields : ((s.resetTile p).fieldsReset (fun off => (s.fieldUnits off).contains (0, p))).reg (rTil p 0) = (s.resetTile p).reg (rTil p 0) := by
    refine State.reg_fieldsReset _ fun off hmask hout hin => hmask ?_
    have hle := State.le_of_fieldUnits_tile (List.contains_iff_mem.mp hout)
    rw [show off = rTil p 0 by omega, hrwMask_rTil hp]
  have hown : (s.ownReset x 0 p).reg (rTil p 0) = (s.resetTile p).reg (rTil p 0) := by
    rw [State.ownReset, State.wcReset]
    exact hfields
  rw [State.tilState, State.rf, State.reg_release hrst x (by unfold rTil; omega), hown, ← State.rf, ← State.tilState, s.tilState_resetTile hp]

/-- R400, R429: what the intake engine keeps of a queue. -/
def FnSt.dropped (y : FnSt) : FnSt := { y with q := if y.busy then y.q.take 1 else [], exam := false }

theorem State.fn_dropQueue_self (s : State) (f : Nat) : (s.dropQueue f).fn f = (s.fn f).dropped := by
  rw [State.dropQueue, State.setRf_fn, State.setReg_fn, State.setReg_fn, State.fn_setFn_self, FnSt.dropped]

theorem State.fn_dropQueue_ne (s : State) {f g : Nat} (h : f ≠ g) : (s.dropQueue g).fn f = s.fn f := by
  rw [State.dropQueue, State.setRf_fn, State.setReg_fn, State.setReg_fn, s.fn_setFn_ne _ h]

theorem State.fn_resetItk (s : State) {f : Nat} (hf : f < 16) : s.resetItk.fn f = (s.fn f).dropped := by
  unfold State.resetItk
  extract_lets s1
  have hdrop : s1.fn f = (s.fn f).dropped := foldl_acts_once (f := State.dropQueue) (fun u => State.fn u f) FnSt.dropped
    (List.mem_range.mpr hf) List.nodup_range (fun u => u.fn_dropQueue_self f) (fun u g hg => u.fn_dropQueue_ne hg.symm) s
  clear_value s1
  exact hdrop

theorem State.fn_release_intake {s : State} {idx r b : Nat} (hrst : rstBit 5 idx = some (r, b)) (x : ShutIn) {f : Nat} (hf : f < 16) :
    (s.release x 5 idx).fn f = (s.fn f).dropped := by
  have hown : (s.ownReset x 5 idx).fn f = s.resetItk.fn f := by
    rw [State.ownReset, State.wcReset]
    exact State.fn_fieldsReset _ f
  rw [State.release_of_rstBit hrst, State.setRf_fn, ← s.fn_resetItk hf, ← hown, State.reopened]
  rfl

/-! ### Function-level reset (R423) -/

/-- The registers of a function's windows: the intake's and the event ring's. -/
def fnReg (f k : Nat) : Prop := (0x0040000 + 0x100 * f < k ∧ k < 0x0040000 + 0x100 * f + 0x100) ∨
  (0x0050000 + 0x100 * f < k ∧ k < 0x0050000 + 0x100 * f + 0x100)

theorem State.reg_setFn_cfgs (s : State) (c : List (Nat × Nat)) (f : Nat) (y : FnSt) (k : Nat) :
    (({ s with cfgs := c } : State).setFn f y).reg k = s.reg k := rfl

section Flr
variable (s : State) (x : ShutIn) {f : Nat}

theorem State.reg_flr {k : Nat} (hk : fnReg f k) : (s.flr x f).reg k = regReset k := by
  unfold fnReg at hk
  unfold State.flr
  extract_lets s1 s2 ranged fresh s3
  have hs2 : s2.reg k = regReset k := by
    rw [State.reg_resetRegs, State.reg_resetRegs]
    split
    · rfl
    · rw [if_pos (by omega)]
  have hs3 : s3.reg k = regReset k := by
    have hthird : ranged.reg k = s2.reg k := by
      rw [State.reg_resetRegs, if_neg (by omega)]
    exact (State.reg_setFn_cfgs ranged _ f _ k).trans (hthird.trans hs2)
  clear_value s3
  split
  · rw [State.reg_setRf_ne _ _ _ _ (by omega), hs3]
  · exact hs3

theorem State.fn_flr : ((s.flr x f).fn f).q = [] ∧ ((s.flr x f).fn f).recs = [] := by
  unfold State.flr
  extract_lets s1 s2 ranged fresh s3
  have hs3 : (s3.fn f).q = [] ∧ (s3.fn f).recs = [] := by
    rw [State.fn_setFn_self]
    exact ⟨rfl, rfl⟩
  clear_value s3
  split
  · rw [State.setRf_fn]; exact hs3
  · exact hs3

/-- R423: the windows and the rings of the function take their reset values. -/
theorem State.flr_spec (hf : f < 16) : (s.flr x f).itkRead f = 0 ∧ (s.flr x f).itkNext f = 0 ∧
    (s.flr x f).ringEn f false = false ∧ (s.flr x f).ringEn f true = false := by
  have hreg {k : Nat} (hk : fnReg f k) : (s.flr x f).reg k = State.reset.reg k := s.reg_flr x hk
  obtain ⟨hread, hnext, hcq, hevt, -⟩ := reset_functions f hf
  refine ⟨?_, ?_, ?_, ?_⟩
  · rw [State.itkRead, State.rf, hreg (by unfold fnReg rItk; omega)]; exact hread
  · rw [State.itkNext, hreg (by unfold fnReg rItk; omega)]; exact hnext
  · rw [State.ringEn, State.rf, hreg (by simp only [fnReg, ringWin, Bool.false_eq_true, if_false]; omega)]; exact hcq
  · rw [State.ringEn, State.rf, hreg (by simp only [fnReg, ringWin, if_true]; omega)]; exact hevt

end Flr

/-- Settles O51: each shutter's start, drain and wait, what a release leaves, and FLR. -/
theorem blockResets : Obligations.BlockResets := by
  unfold Obligations.BlockResets
  refine ⟨fun cls idx r b s hrst => ⟨fun hreq hopen => ?start, fun hshut x => ?shut, fun hopen x done => ?idle, fun x => ?release⟩,
    fun f s x hf => ?flr⟩
  case start =>
    refine ⟨congrArg Host.Outcome.next (State.shutter_of_requested hrst hreq hopen), State.blkDown_of_shut ?_⟩
    exact (NSet.mem_insert _ _ _).trans (by rw [decide_eq_true rfl, Bool.true_or])
  case shut =>
    refine ⟨fun hcls => ?_, fun hcls => ?_, fun done => exec_shutterTimeout x done hshut⟩
    · rw [exec_shutterDrained x hshut, if_neg hcls]
    · rw [exec_shutterDrained x hshut, if_pos hcls]
  case idle =>
    exact ⟨congrArg Host.Outcome.next (if_neg (ne_true_of_eq_false hopen)), congrArg Host.Outcome.next (if_neg (ne_true_of_eq_false hopen))⟩
  case release =>
    refine ⟨State.blkDown_release hrst x, State.rf_release hrst x, fun hcls => ?_, fun hcls f hf => ?_⟩
    · subst hcls; exact State.tilState_release hrst x
    · subst hcls; rw [State.fn_release_intake hrst x hf, FnSt.dropped]
  case flr =>
    refine ⟨fun hout => ?_, fun hheld => congrArg Host.Outcome.next ((if_neg hf).trans (if_pos hheld))⟩
    obtain ⟨hq, hrecs⟩ := State.fn_flr ((s.cause 7).sealReset 7) x (f := f)
    exact ⟨((s.cause 7).sealReset 7).flr x f, congrArg Host.Outcome.next ((if_neg hf).trans (if_neg (ne_true_of_eq_false hout))), hq, hrecs,
      State.flr_spec _ x f.isLt⟩

end Sys2Proof.Machine
end
